-- ==== Sys2Proof/Word.lean ====
section
/-! DEFINITION. The word types of the machine and their plainest readings (R2, R3). -/

namespace Sys2Proof

/-- One byte. -/
abbrev Byte := BitVec 8

/-- A 64-bit g register's contents (R106). -/
abbrev Word := BitVec 64

/-- A 2048-bit v register's contents (R106). -/
abbrev VWord := BitVec 2048

/-- A 256-bit m register's contents, one bit per byte lane (R106). -/
abbrev MWord := BitVec 256

/-- The 128 bits of a bound pointer or an accumulator element (R69, R107). -/
abbrev Quad := BitVec 128

end Sys2Proof
end

