-- ==== Sys2Proof/Config.lean ====
section
/-! DEFINITION. What one implementation fixes and what the manual leaves open: opaque constants. No
proof can see their values, so a claim holds whatever they are. -/

namespace Sys2Proof.Config

/-- Which of the two FP32 neighbours a faithful special function delivers (R161): a fixed function of
the operation code (0 VEXP2, 1 VLOG2, 2 VSIN, 3 VCOS, 4 VTANH) and the operand. True: the upper one. -/
opaque upperNeighbour : Nat → BitVec 32 → Bool

/-- SHAKE256 with a 256-bit output (R343, R351): a standard outside the manual. -/
opaque shake256 : List Byte → BitVec 256

/-- XMSS-SHAKE256_20_256 verification of a signature over a message under a key (R343, R350, R351). -/
opaque xmssOk : List Byte → List Byte → List Byte → Bool

/-- Digest of the fused signing key, and of the device identity (R343, R350). -/
opaque fusedKey : BitVec 256
opaque identityDigest : BitVec 256

/-- The fused minimum version of the firmware, and the bytes of flash slots A and B, numbered 0 and 1 (R350). -/
opaque fusedVersion : Nat
opaque flashSlot : Nat → List Byte

/-- A firmware image as a flash slot holds it (R350): the manual gives it no byte layout. -/
structure Firmware where
  version : Nat
  key : List Byte
  signature : List Byte
  signed : List Byte
  deriving DecidableEq, Repr

/-- How a flash slot's bytes are read: `none` where they hold no image. -/
opaque readFirmware : List Byte → Option Firmware

/-- A fresh challenge nonce (R343), indexed by the model's counter of free values. -/
opaque freshNonce : Nat → BitVec 64

/-- What a FREEZEREAD address selects (R342), a 64-bit word of it: a link engine's OUT register, APPLIED or SENDSEQ of
a region, and a replica's stripe; a trace unit's word; a pad's, memory's or sheet's bytes, tags and arming marks; a
thread's registers, its control and queue registers and its payload among them; a channel's word and its held records,
those that wait in the ingress behind the others; a context's handle entries and copy registers; a copy command's
template; a quarto's sheet holders, weights, halves, accumulators, plans and gang arrivals; a semaphore; a group's
configuration and a switch slot's chunk; a link's retry state; a function's control object and launch-queue slots; a
delay table; or a register or SRAM that the state does not hold. -/
inductive FreezeLoc where
  | out (region die link word : Nat)
  | applied (region die link : Nat)
  | sendseq (region die link : Nat)
  | trace (die word : Nat)
  | memory (addr : Nat)
  | pc (thread : Nat)
  | greg (thread r : Nat)
  | vreg (thread r word : Nat)
  | breg (thread r word : Nat)
  | mreg (thread r word : Nat)
  | creg (thread index : Nat)
  | qreg (thread r word : Nat)
  | payload (thread word : Nat)
  | btag (thread r : Nat)
  | tag (granule : Nat)
  | mark (line : Nat)
  | chan (core k word : Nat)
  | record (core k i word : Nat)
  | handle (ctx i word : Nat)
  | copyReg (ctx pad word : Nat)
  | template (chan i word : Nat)
  | sem (k : Nat)
  | holder (quarto sheet : Nat)
  | sheet (addr : Nat)
  | weight (quarto addr : Nat)
  | half (quarto h : Nat)
  | acc (quarto elem word : Nat)
  | plan (quarto ctx word : Nat)
  | arrival (quarto ctx i word : Nat)
  | link (k word : Nat)
  | stripe (region die k word : Nat)
  | group (g word : Nat)
  | slot (i port word : Nat)
  | function (n word : Nat)
  | lslot (n queue i word : Nat)
  | delay (core ctx word : Nat)
  | other
  deriving DecidableEq, Repr, Inhabited

/-- The port's address map (R342): the manual says that an address selects a register or an SRAM word and gives
no map. -/
opaque freezeMap : Nat → FreezeLoc

/-- What a FREEZEREAD of an address outside the modelled state returns, in a module frozen at a cycle. -/
opaque freezeValue : Nat → Nat → BitVec 64

/-- How many exchanges arrive between an MSPREAD's reads of two stripes (R308), by the counter of free values and the
stripe. -/
opaque landed : Nat → Nat → Nat

/-- Bits 31 to 1 of the identification code that IDCODE shifts out, and the pins that SAMPLE captures (R342):
the standard gives their place, the part their values. -/
opaque idcode : BitVec 31
opaque pins : Nat → BitVec 64

/-- Issue cycles of 256 that power management withholds from a cluster, from its die's forecast (R319): the
manual gives the forecast and not the rule. -/
opaque gateFor : BitVec 64 → Nat → BitVec 8

/-- Sensor values that PLDM messages read, and replies to MCTP control messages (R349): their standards and the
part's surroundings fix them. -/
opaque sensor : Nat → BitVec 64
opaque mctpControl : List Byte → List Byte

/-- The scheduling choice when the agenda is empty and nothing is bound to move: which step moves, and
the numbers that name its unit. -/
opaque freeStep : Nat → Nat
opaque freeArg : Nat → Nat

/-- The pairing of an element's first-stage and second-stage entries that a lookup uses while a page
command is in flight (R267): false the current tables, true the entries before the command. -/
opaque oldPairing : Nat → Bool

/-- QSTATE that QUERY reports for a page that stands in host memory (R262, R265): none of the four states. -/
opaque hostPageState : BitVec 2

/-- How many bytes of the compressed zone a page takes (R269), from the page's bytes: the manual fixes the
zone's size and losslessness, not the code. -/
opaque compressedBytes : List Host.Cell → Nat

/-- What a container's sections hold (R351): the manual names them and gives no byte layout within one. -/
structure HandlerImage where
  index : Nat
  entry : BitVec 512
  /-- The frame the handler names, if any. -/
  frame : Option Nat
  /-- The bind cell whose handle CTHANDLE is, if any. -/
  join : Option Nat
  deriving DecidableEq, Repr

structure BindCell where
  frame : Nat
  off : Nat
  path : List Byte
  perms : BitVec 8
  deriving DecidableEq, Repr

structure GatheringImage where
  role : Nat
  code : List Byte
  pad : List Byte
  /-- Logical dies d0..d1 and tiles t0..t1 the gathering is placed on (R89). -/
  place : List (Nat × Nat × Nat × Nat)
  sew : List (Nat × Nat)
  hashes : List (BitVec 256)
  deriving DecidableEq, Repr

/-- The sections of R351. -/
inductive Sect where
  | colophon | gathering | pad | data | handlers | place | sew | bind | pagehash
  deriving DecidableEq, Repr

/-- COLOPHON: the module's name and version, the signer's public key, the digest of every other section in
order, and the signature over it. -/
structure Colophon where
  name : List Byte
  version : Nat
  key : List Byte
  digest : BitVec 256
  signature : List Byte
  deriving DecidableEq, Repr

/-- What the other sections hold. -/
structure Body where
  gatherings : List GatheringImage
  handlers : List HandlerImage
  /-- Sizes of the frames, in bytes. -/
  frames : List Nat
  binds : List BindCell
  /-- Images of `.data` blocks, by bind cell index. -/
  datas : List (Nat × List Byte)
  deriving DecidableEq, Repr

/-- A container: its colophon, the bytes its digest covers, and its other sections. -/
structure Container extends Body where
  colophon : Colophon
  signed : List Byte
  deriving DecidableEq, Repr

/-- The header's section count and table of offsets (R351), from its 60 bytes behind the magic: each section with
its offset and its length, in order. `none` where they break the format. -/
opaque sectionTable : List Byte → Option (List (Sect × Nat × Nat))

/-- How the bytes of the sections are read (R351): `none` where they break the format. -/
opaque readColophon : List Byte → Option Colophon
opaque readBody : List (Sect × List Byte) → Option Body

end Sys2Proof.Config
end

