-- ==== Sys2Proof/Syntax.lean ====
section
/-! DEFINITION. The instructions and the machine's own steps: one constructor per row of the
opcode table. Operands keep the widths of the operand fields of R95. -/

namespace Sys2Proof

/-- What every word carries beside its opcode and operands: the guard (R93) and the hints (R94). -/
structure Head where
  /-- GN, guard negate. -/
  gn : Bool
  /-- GM, guard mask register. -/
  gm : BitVec 3
  /-- STALL hint. -/
  stall : BitVec 4
  /-- CACHE hint. -/
  cache : BitVec 2
  /-- YIELD hint. -/
  yld : Bool
  /-- Bit [74], ignored on read. -/
  ign : Bool
  deriving DecidableEq, Repr

/-- A g register number. -/
abbrev GReg := BitVec 6
/-- A b register number. -/
abbrev BReg := BitVec 4
/-- A v register number. -/
abbrev VReg := BitVec 5
/-- An m register number. -/
abbrev MReg := BitVec 3
/-- A control-register index. -/
abbrev CReg := BitVec 9
/-- The immediate payload of KIND 110, sign-extended before use (R95). -/
abbrev Imm := BitVec 15
/-- The 56-bit immediate of format L (R91). -/
abbrev Imm56 := BitVec 56

/-- "g/i": a g register or an immediate (R115). -/
inductive GI where
  | g (r : GReg)
  | i (v : Imm)
  deriving DecidableEq, Repr

/-- "[b]": a b register plus a displacement in units of the access size (R95). -/
structure MemOp where
  b : BReg
  disp : BitVec 11
  deriving DecidableEq, Repr

/-- "q": a queue register, a slot position and ADV (R95, R138). -/
structure QOp where
  q : BitVec 4
  c : BitVec 6
  adv : Bool
  deriving DecidableEq, Repr

/-- "[b] or q" (R135, R163). -/
inductive MQ where
  | mem (m : MemOp)
  | que (q : QOp)
  deriving DecidableEq, Repr

/-- "v/g/i" (R148). -/
inductive VGI where
  | v (r : VReg)
  | g (r : GReg)
  | i (v : Imm)
  deriving DecidableEq, Repr

/-- "v/g" (R152). -/
inductive VG where
  | v (r : VReg)
  | g (r : GReg)
  deriving DecidableEq, Repr

/-- The ETYPE group MOD[19:16] (R80). -/
abbrev EType := BitVec 4
/-- The RND group MOD[15:13] (R59). -/
abbrev Rnd := BitVec 3
/-- The ORDER group MOD[12:10] (R80). -/
abbrev Ord3 := BitVec 3
/-- The SCOPE group MOD[9:7] (R80). -/
abbrev Scope3 := BitVec 3

/-- One constructor per row of the opcode table: first the instructions and their forms, then the
steps the machine takes by itself. An instruction carries its decoded word; a machine step
has no operands of its own: State.arg names the unit, record or transaction that moves. -/
inductive Instr where
  -- class 0x0, system (R116)
  | nop (h : Head)
  | trap (h : Head) (imm : Imm)
  | eret (h : Head)
  | crd (h : Head) (d : GReg) (a : CReg)
  | cwr (h : Head) (d : CReg) (a : GI)
  | cset (h : Head) (d : CReg) (a : GI)
  | cclr (h : Head) (d : CReg) (a : GI)
  | tstamp (h : Head) (d : GReg)
  | brk (h : Head) (imm : Imm)
  | tmark (h : Head) (a : GI)
  | wdog (h : Head) (d : GReg)
  | halt (h : Head)
  | pmint (h : Head) (d : BReg) (a b : GReg)
  | sresume (h : Head) (d a : GReg)
  | sresumeSkip (h : Head) (d a : GReg)
  | tkill (h : Head) (d a : GReg)
  | icsync (h : Head) (a : GReg)
  -- class 0x1, control (R124)
  | br (h : Head) (imm : Imm56)
  | bri (h : Head) (a : GReg)
  | call (h : Head) (d : GReg) (imm : Imm56)
  | calli (h : Head) (d a : GReg)
  | ret (h : Head) (a : GReg)
  | endAct (h : Head)
  | endDone (h : Head) (a : Option GReg)
  | loop (h : Head) (d : GReg) (imm : Imm56)
  -- class 0x2, scalar integer (R127)
  | add (h : Head) (et : EType) (d a : GReg) (b : GI)
  | sub (h : Head) (et : EType) (d a : GReg) (b : GI)
  | mul (h : Head) (et : EType) (d a : GReg) (b : GI)
  | mulh (h : Head) (et : EType) (d a : GReg) (b : GI)
  | mulhu (h : Head) (et : EType) (d a : GReg) (b : GI)
  | div (h : Head) (et : EType) (d a : GReg) (b : GI)
  | divu (h : Head) (et : EType) (d a : GReg) (b : GI)
  | rem (h : Head) (et : EType) (d a : GReg) (b : GI)
  | remu (h : Head) (et : EType) (d a : GReg) (b : GI)
  | and (h : Head) (et : EType) (d a : GReg) (b : GI)
  | or (h : Head) (et : EType) (d a : GReg) (b : GI)
  | xor (h : Head) (et : EType) (d a : GReg) (b : GI)
  | andn (h : Head) (et : EType) (d a : GReg) (b : GI)
  | shl (h : Head) (et : EType) (d a : GReg) (b : GI)
  | shr (h : Head) (et : EType) (d a : GReg) (b : GI)
  | sra (h : Head) (et : EType) (d a : GReg) (b : GI)
  | rot (h : Head) (et : EType) (d a : GReg) (b : GI)
  | min (h : Head) (et : EType) (d a : GReg) (b : GI)
  | max (h : Head) (et : EType) (d a : GReg) (b : GI)
  | minu (h : Head) (et : EType) (d a : GReg) (b : GI)
  | maxu (h : Head) (et : EType) (d a : GReg) (b : GI)
  | cmp (h : Head) (et : EType) (cond : BitVec 3) (d a : GReg) (b : GI)
  | sel (h : Head) (d : GReg) (a b : GI)
  | clz (h : Head) (et : EType) (d a : GReg)
  | ctz (h : Head) (et : EType) (d a : GReg)
  | popc (h : Head) (et : EType) (d a : GReg)
  | bfx (h : Head) (et : EType) (d a : GReg) (b : GI)
  | bfi (h : Head) (et : EType) (d a : GReg) (b : GI)
  | sext (h : Head) (et : EType) (d a : GReg)
  | zext (h : Head) (et : EType) (d a : GReg)
  | li (h : Head) (d : GReg) (imm : Imm56)
  | lih (h : Head) (d : GReg) (imm : BitVec 8)
  | mov (h : Head) (d : GReg) (a : GI)
  -- class 0x3, pointers (R131)
  | padd (h : Head) (d a : BReg) (b : GI)
  | pset (h : Head) (d a : BReg) (b : GI)
  | pget (h : Head) (sel : BitVec 3) (d : GReg) (a : BReg)
  | pnarrow (h : Head) (d a : BReg) (b : GI)
  | pperm (h : Head) (d a : BReg) (b : GI)
  | pchk (h : Head) (d : GReg) (a : BReg) (b : GReg)
  | psub (h : Head) (d : GReg) (a b : BReg)
  | pmov (h : Head) (d a : BReg)
  | ptag (h : Head) (d : GReg) (a : BReg)
  -- class 0x4, scalar memory (R135)
  | ld (h : Head) (et : EType) (od : Ord3) (sc : Scope3) (d : GReg) (a : MQ)
  | st (h : Head) (et : EType) (od : Ord3) (sc : Scope3) (d : MQ) (a : GI)
  | atom (h : Head) (et : EType) (od : Ord3) (sc : Scope3) (op : BitVec 3) (d : GReg) (a : MemOp) (b : GI)
  | cas (h : Head) (et : EType) (od : Ord3) (sc : Scope3) (d : GReg) (a : MemOp) (b : GReg)
  | fence (h : Head) (od : Ord3) (sc : Scope3)
  | fflag (h : Head) (et : EType) (sc : Scope3) (d : MemOp) (a : GI)
  | pld (h : Head) (d : BReg) (a : MemOp)
  | pst (h : Head) (d : MemOp) (a : BReg)
  | pref (h : Head) (wr : Bool) (d : MemOp)
  -- class 0x5, vector integer, logic and masks (R148)
  | vadd (h : Head) (et : EType) (sat : Bool) (d : VReg) (a : VGI) (m : Option MReg)
  | vsub (h : Head) (et : EType) (sat : Bool) (d : VReg) (a : VGI) (m : Option MReg)
  | vmul (h : Head) (et : EType) (d : VReg) (a : VGI) (m : Option MReg)
  | vmulh (h : Head) (et : EType) (d : VReg) (a : VGI) (m : Option MReg)
  | vmad (h : Head) (et : EType) (d a : VReg) (b : VGI)
  | vmin (h : Head) (et : EType) (d : VReg) (a : VGI) (m : Option MReg)
  | vmax (h : Head) (et : EType) (d : VReg) (a : VGI) (m : Option MReg)
  | vabs (h : Head) (et : EType) (sat : Bool) (d a : VReg) (m : Option MReg)
  | vneg (h : Head) (et : EType) (sat : Bool) (d a : VReg) (m : Option MReg)
  | vand (h : Head) (et : EType) (d : VReg) (a : VGI) (m : Option MReg)
  | vor (h : Head) (et : EType) (d : VReg) (a : VGI) (m : Option MReg)
  | vxor (h : Head) (et : EType) (d : VReg) (a : VGI) (m : Option MReg)
  | vnot (h : Head) (et : EType) (d a : VReg) (m : Option MReg)
  | vshl (h : Head) (et : EType) (d : VReg) (a : VGI) (m : Option MReg)
  | vshr (h : Head) (et : EType) (d : VReg) (a : VGI) (m : Option MReg)
  | vsra (h : Head) (et : EType) (d : VReg) (a : VGI) (m : Option MReg)
  | vcmp (h : Head) (et : EType) (cond : BitVec 3) (d : MReg) (a : VReg) (b : VGI)
  | vsel (h : Head) (et : EType) (d : VReg) (a : VGI) (m : MReg)
  | vmov (h : Head) (d a : VReg)
  | vbcast (h : Head) (et : EType) (d a : VReg) (b : GI)
  | vextr (h : Head) (et : EType) (d : GReg) (a : VReg) (b : GI)
  | vins (h : Head) (et : EType) (d : VReg) (a b : GI)
  | viota (h : Head) (et : EType) (d : VReg) (a b : GI)
  | lbc (h : Head) (et : EType) (d : MReg) (a : GReg) (b : GI)
  | vwid (h : Head) (d : GReg)
  | kand (h : Head) (d a b : MReg)
  | kor (h : Head) (d a b : MReg)
  | knot (h : Head) (d a : MReg)
  | kpopc (h : Head) (et : EType) (d : GReg) (a : MReg)
  | kfirst (h : Head) (et : EType) (d : GReg) (a : MReg)
  -- class 0x6, vector floating point (R152)
  | vfadd (h : Head) (et : EType) (rnd : Rnd) (d : VReg) (a : VG) (m : Option MReg)
  | vfsub (h : Head) (et : EType) (rnd : Rnd) (d : VReg) (a : VG) (m : Option MReg)
  | vfmul (h : Head) (et : EType) (rnd : Rnd) (d : VReg) (a : VG) (m : Option MReg)
  | vfma (h : Head) (et : EType) (rnd : Rnd) (d a : VReg) (b : VG)
  | vfms (h : Head) (et : EType) (rnd : Rnd) (d a : VReg) (b : VG)
  | vfnma (h : Head) (et : EType) (rnd : Rnd) (d a : VReg) (b : VG)
  | vfmin (h : Head) (et : EType) (d : VReg) (a : VG) (m : Option MReg)
  | vfmax (h : Head) (et : EType) (d : VReg) (a : VG) (m : Option MReg)
  | vfabs (h : Head) (et : EType) (d a : VReg) (m : Option MReg)
  | vfneg (h : Head) (et : EType) (d a : VReg) (m : Option MReg)
  | vfcmp (h : Head) (et : EType) (cond : BitVec 3) (d : MReg) (a : VReg) (b : VG)
  | vred (h : Head) (et : EType) (rnd : Rnd) (op : BitVec 2) (d : GReg) (a : VReg) (m : Option MReg)
  | vfclass (h : Head) (et : EType) (d a : VReg) (m : Option MReg)
  -- class 0x7, conversion, permutation, special functions (R156)
  | vcvt (h : Head) (et src : EType) (rnd : Rnd) (sat : Bool) (part : BitVec 2) (d a : VReg) (m : Option MReg)
  | vpack2 (h : Head) (et : EType) (rnd : Rnd) (sat : Bool) (d a b : VReg)
  | vpack4 (h : Head) (et : EType) (rnd : Rnd) (sat half : Bool) (d a : VReg)
  | vunpk (h : Head) (et : EType) (part : BitVec 3) (d a : VReg) (b : Option GReg)
  | vperm (h : Head) (et : EType) (d a b : VReg)
  | vslide (h : Head) (et : EType) (d a : VReg) (b : GI)
  | vzip (h : Head) (et : EType) (hi : Bool) (d a b : VReg)
  | vuzp (h : Head) (et : EType) (hi : Bool) (d a b : VReg)
  | vexp2 (h : Head) (d a : VReg) (m : Option MReg)
  | vlog2 (h : Head) (d a : VReg) (m : Option MReg)
  | vrcp (h : Head) (rnd : Rnd) (d a : VReg) (m : Option MReg)
  | vrsq (h : Head) (rnd : Rnd) (d a : VReg) (m : Option MReg)
  | vsin (h : Head) (d a : VReg) (m : Option MReg)
  | vcos (h : Head) (d a : VReg) (m : Option MReg)
  | vtanh (h : Head) (d a : VReg) (m : Option MReg)
  -- class 0x8, vector memory (R163)
  | vld (h : Head) (et : EType) (d : VReg) (a : MQ) (m : Option MReg)
  | vst (h : Head) (et : EType) (d : MQ) (a : VReg) (m : Option MReg)
  | vlds (h : Head) (et : EType) (d : VReg) (a : MemOp) (b : GReg)
  | vsts (h : Head) (et : EType) (d : MemOp) (a : VReg) (b : GReg)
  | vgath (h : Head) (et : EType) (d : VReg) (a : MemOp) (b : VReg)
  | vscat (h : Head) (et : EType) (d : MemOp) (a b : VReg)
  | vldb (h : Head) (et : EType) (d : VReg) (a : MemOp) (m : Option MReg)
  -- class 0x9, messaging (R166)
  | send (h : Head) (len : BitVec 6) (noinh : Bool) (d : GReg) (a : GI) (b : Option BReg)
  | sendm (h : Head) (len : BitVec 6) (noinh : Bool) (d : BReg) (a : GI) (b : Option BReg)
  | post (h : Head) (d : Option BReg) (a : GReg) (b : Option BReg)
  | join (h : Head) (d : BReg) (a : GI)
  | qadv (h : Head) (d : QOp)
  | qstat (h : Head) (d : GReg) (a : QOp)
  | qbind (h : Head) (d : QOp) (a : GI)
  | qbindInit (h : Head) (d : QOp) (a : GI) (b : GReg)
  | semv (h : Head) (d a : GI) (b : Option BReg)
  | semq (h : Head) (d : GReg) (a : GI) (b : Option BReg)
  | swset (h : Head) (keep bump : Bool) (d : GI) (a : GReg) (b : GI)
  | swread (h : Head) (hi : Bool) (d : GReg) (a : GI)
  -- class 0xA, matrix (R200)
  | sclaim (h : Head) (d : GReg) (a : GI)
  | srel (h : Head) (d a : GI)
  | sload (h : Head) (od : Ord3) (sc : Scope3) (d : GI) (a : MemOp) (b : GReg)
  | ssave (h : Head) (od : Ord3) (sc : Scope3) (d : MemOp) (a : GI) (b : GReg)
  | mwld (h : Head) (et : EType) (nib : Bool) (d : GI)
  | mgang (h : Head) (et : EType) (nib : Bool) (d : GReg) (a : GI)
  | mzero (h : Head) (d : GReg)
  | maccld (h : Head) (et : EType) (d : GReg) (a : MemOp)
  | mdrain (h : Head) (et : EType) (rnd : Rnd) (od : Ord3) (sc : Scope3) (d : GReg) (a : BReg) (b : GReg)
  | mdrainRq (h : Head) (et : EType) (rnd : Rnd) (od : Ord3) (sc : Scope3) (d : GReg) (a : BReg) (b : GReg)
  | mstat (h : Head) (d : GReg) (a : GI)
  | mstatClr (h : Head) (d : GReg) (a : GI)
  -- class 0xB, butterfly (R220)
  | mtwid (h : Head) (d a : GReg)
  | mdrev (h : Head) (d a : GI)
  | mbfly (h : Head) (scale : BitVec 3) (d a : GI) (b : GReg)
  | mbexp (h : Head) (d : GReg) (a : GI)
  | mbexpSet (h : Head) (d : GReg) (a b : GI)
  | mcmul (h : Head) (scale : BitVec 3) (conj : Bool) (d a : GI) (b : GReg)
  -- class 0xC, names (R250)
  | nwalk (h : Head) (d : GReg) (a : BReg) (b : Option BReg)
  | nopen (h : Head) (d : GReg) (a : BReg)
  | nclose (h : Head) (d : GReg) (a : BReg)
  | nread (h : Head) (d : GReg) (a b : BReg)
  | nwrite (h : Head) (d : GReg) (a b : BReg)
  | nbind (h : Head) (d : GReg) (a b : BReg)
  | nunbind (h : Head) (d : GReg) (a : BReg) (b : Option BReg)
  | nstat (h : Head) (d : GReg) (a : BReg)
  | nrevoke (h : Head) (d : GReg) (a : BReg)
  | ncreate (h : Head) (d : GReg) (a : BReg) (b : GReg)
  | nremove (h : Head) (d : GReg) (a : BReg)
  -- class 0xD, fabric and mull (R289, R304)
  | rslot (h : Head) (d : GReg) (a : BReg) (b : GI)
  | rfree (h : Head) (d : BReg) (a : GI)
  | rpush (h : Head) (od : Ord3) (sc : Scope3) (d : BReg) (a : VReg) (b : GReg)
  | rstat (h : Head) (d : GReg) (a : BReg)
  | mladd (h : Head) (mass : Bool) (rnd : Rnd) (d : MemOp) (a : VReg) (b : GI)
  | mlread (h : Head) (et : EType) (rnd : Rnd) (d : VReg) (a : MemOp) (b : Option GI)
  | mspread (h : Head) (d : GReg) (a : BReg) (b : GI)
  | mlfence (h : Head)
  | mlcfgCreate (h : Head) (d : GReg) (a : BReg) (b : GI)
  | mlcfgCadence (h : Head) (d : GReg) (a : BReg) (b : GI)
  | mlcfgReset (h : Head) (d : GReg) (a : BReg) (b : GI)
  | mlcfgDestroy (h : Head) (d : GReg) (a : BReg) (b : GI)
  -- a word that is no instruction (R100)
  | illegalOpcode (w : BitVec 96)
  -- records, dispatch and threads

  | recordArrival
  | headCheck
  | fire
  | watchdog
  | parityError
  | specialFunctionResult
  -- launches and the done tree
  | launchServe
  | launchForward
  | patchComplete
  | doneWord
  | doneqRetry
  | doneDeadline
  | dupdoneWord
  -- remote accesses
  | remoteAccess
  | queueAppend
  | joinPerform
  | remoteSemv
  -- matrix engine
  | gangComplete
  | gangStale
  | sheetMoveBeat
  | drainBeat
  | butterflyComplete
  -- copy engine
  | copyStart
  | copyRefused
  | copyTtabWrite
  | copyWindowWrite
  | copyFaultResume
  | copyFaultAbort
  | copyHeadCheck
  | copyBeat
  -- name units and translation
  | nameMove
  | nameResult
  | pageMap
  | pageUnmap
  | pageCompress
  | pageExpand
  | pageDemote
  | pageMap2
  | pageUnmap2
  | pageMove
  | pageQuery
  | pageAbort
  | pageBadop
  | pageCommandDone
  -- control objects
  | functionRecord
  | l2Split
  | launchQueueConfig
  | contextCreate
  | contextDestroy
  | contextHalves
  | makeq
  | makepeer
  | slotBind
  | slotUnbind
  | cxlWindowMap
  | containerLoad
  | loadComplete
  | controlWrite
  | worldctlWrite
  -- slices, ticks, migration
  | sliceYield
  | sliceEnd
  | sliceIdle
  | saveRoutines
  | contextSave
  | restoreRoutines
  | tickReady
  | tickDeadline
  | migratePrecopy
  | migrateCancel
  | migrateStop
  | migrateStopped
  | migrateStopTimeout
  | migrateAbort
  | migrateResuming
  | migrateCommit
  | migrateWindowAdvance
  | migrateWindowRead
  | migrateWindowWrite
  -- fabric and mull
  | groupConfig
  | chunkArrival
  | slotEmit
  | slotTimeout
  | slotMarkerExpiry
  | resultDelivery
  | linkFlit
  | linkResend
  | mullExchangeSend
  | mullExchangeApply
  | mullAck
  -- debug and trace
  | traceSample
  | traceStopRequest
  | stopComplete
  | traceResume
  | traceReplay
  | tokenVerify
  | verifyDone
  | delayClear
  | freeze
  | freezeread
  | tapBypass
  | tapIdcode
  | tapSamplePreload
  | tapExtest
  | forecastUpdate
  -- host port, boot and errors
  | reqtailWrite
  | hostRequestTake
  | rspheadWrite
  | cxlMemRead
  | cxlMemWrite
  | mctpMessage
  | moduleReset
  | bootStage
  | deviceError
  | functionLevelReset
  | correctableError
  | lifeCycleChange
  deriving DecidableEq, Repr

end Sys2Proof
end

