-- ==== Sys2Proof/Decode.lean ====
section
/-! DEFINITION. Decoding a 96-bit word (R91 to R102) and, after it, the encoder written from the
same tables. Words are naturals below 2^96; a field [hi:lo] is `bits w lo (hi - lo + 1)` (R3). -/

namespace Sys2Proof

/-- The field of `n` bits of `w` whose lowest bit is `lo`. -/
def bits (w lo n : Nat) : Nat := w / 2 ^ lo % 2 ^ n

/-- `v` read as an `n`-bit two's-complement number. -/
def asInt (v n : Nat) : Int := if v < 2 ^ (n - 1) then v else (v : Int) - 2 ^ n

/-- The encoding trap a word raises: its cause code (R110) and the FIELD and VALUE of R102. -/
structure EncErr where
  /-- 0x01 ILLEGAL_OPCODE, 0x02 ILLEGAL_OPERAND, 0x03 ILLEGAL_MODIFIER. -/
  cause : Nat
  field : Nat
  value : Nat
  deriving DecidableEq, Repr

/-- tinfo of an encoding trap (R102). -/
def EncErr.tinfo (e : EncErr) : Nat := e.value * 65536 + e.field

/-- An operand field read by R95. A KIND 011 field keeps its displacement; `ptr` rows demand zero. -/
inductive Opd where
  | nil
  | g (r : GReg)
  | v (r : VReg)
  | p (b : BReg) (disp : BitVec 11)
  | q (o : QOp)
  | m (r : MReg)
  | i (x : Imm)
  | c (r : CReg)
  deriving DecidableEq, Repr

/-- The KIND codes a row accepts in one position, and whether KIND 011 is a pointer value there. -/
structure Kinds where
  none : Bool := false
  g : Bool := false
  v : Bool := false
  mem : Bool := false
  ptr : Bool := false
  q : Bool := false
  m : Bool := false
  i : Bool := false
  c : Bool := false
  deriving DecidableEq, Repr

/-- The modifier groups of a format T word (R96). -/
structure Mods where
  et : Nat
  rnd : Nat
  ord : Nat
  scp : Nat
  m7 : Nat
  deriving DecidableEq, Repr

/-- Reads MOD (R96). -/
def modsOf (md : Nat) : Mods :=
  { et := bits md 16 4, rnd := bits md 13 3, ord := bits md 10 3, scp := bits md 7 3, m7 := bits md 0 7 }

/-- Reads an operand field; the error value is the KIND found (R95, R102). -/
def decodeOpd (k : Kinds) (f : Nat) : Except Nat Opd :=
  match bits f 15 3 with
  | 0 => if k.none && bits f 0 15 == 0 then .ok .nil else .error 0
  | 1 => if k.g && bits f 6 9 == 0 then .ok (.g (BitVec.ofNat 6 (bits f 0 6))) else .error 1
  | 2 => if k.v && bits f 5 10 == 0 then .ok (.v (BitVec.ofNat 5 (bits f 0 5))) else .error 2
  | 3 =>
    if k.mem || (k.ptr && bits f 4 11 == 0) then
      .ok (.p (BitVec.ofNat 4 (bits f 0 4)) (BitVec.ofNat 11 (bits f 4 11)))
    else .error 3
  | 4 =>
    if k.q && bits f 11 4 == 0 then
      .ok (.q { q := BitVec.ofNat 4 (bits f 0 4), c := BitVec.ofNat 6 (bits f 4 6), adv := bits f 10 1 == 1 })
    else .error 4
  | 5 => if k.m && bits f 3 12 == 0 then .ok (.m (BitVec.ofNat 3 (bits f 0 3))) else .error 5
  | 6 => if k.i then .ok (.i (BitVec.ofNat 15 (bits f 0 15))) else .error 6
  | _ => if k.c && bits f 9 6 == 0 then .ok (.c (BitVec.ofNat 9 (bits f 0 9))) else .error 7

/-! ### Kind sets named as the entries name them (R115) -/

def kN : Kinds := { none := true }
def kG : Kinds := { g := true }
def kNG : Kinds := { none := true, g := true }
def kGI : Kinds := { g := true, i := true }
def kNGI : Kinds := { none := true, g := true, i := true }
def kI : Kinds := { i := true }
def kB : Kinds := { ptr := true }
def kNB : Kinds := { none := true, ptr := true }
def kMem : Kinds := { mem := true }
def kMemQ : Kinds := { mem := true, q := true }
def kQ : Kinds := { q := true }
def kV : Kinds := { v := true }
def kVGI : Kinds := { v := true, g := true, i := true }
def kVG : Kinds := { v := true, g := true }
def kM : Kinds := { m := true }
def kNM : Kinds := { none := true, m := true }
def kC : Kinds := { c := true }

/-! ### Accepted modifier values -/

def etNone (e : Nat) : Bool := e == 0
def etInt (e : Nat) : Bool := e < 8
def etSigned (e : Nat) : Bool := e == 0 || e == 2 || e == 4 || e == 6
def etUnsigned (e : Nat) : Bool := e == 1 || e == 3 || e == 5 || e == 7
def etLd (e : Nat) : Bool := e < 13
def etAtom (e : Nat) : Bool := e == 4 || e == 5 || e == 6 || e == 7
def etFp (e : Nat) : Bool := e == 8 || e == 9 || e == 10
def etF32 (e : Nat) : Bool := e == 10
def etPack2 (e : Nat) : Bool := e == 8 || e == 9
def etPack4 (e : Nat) : Bool := e == 11 || e == 12 || e == 13
def etUnpk (e : Nat) : Bool := e == 8 || e == 9 || (11 ≤ e && e ≤ 14)
def etGath (e : Nat) : Bool := e == 4 || e == 5 || e == 6 || e == 7 || e == 10
def etMat (e : Nat) : Bool := e == 0 || e == 1 || e == 8 || e == 9 || (11 ≤ e && e ≤ 14)
def etMaccld (e : Nat) : Bool := e == 4 || e == 6 || e == 7 || e == 10
def etDrain (e : Nat) : Bool := e ≤ 4 || (7 ≤ e && e ≤ 11)
def etMladd (e : Nat) : Bool := e == 6 || e == 10
def etMlread (e : Nat) : Bool := e == 6 || e == 7 || e == 10

/-- RND codes other than the reserved 101 and 110 (R96). -/
def rndAny (r : Nat) : Bool := r != 5 && r != 6
def rndZero (r : Nat) : Bool := r == 0
def ordPlain (o : Nat) : Bool := o == 0
def ordAll (o : Nat) : Bool := o < 5
def scpZero (s : Nat) : Bool := s == 0
def scpAll (s : Nat) : Bool := s < 5
/-- SCOPE where an entry uses it only with a synchronising ORDER (R96). -/
def scpSync (o s : Nat) : Bool := if o == 0 then s == 0 else s < 5

/-- Width in bytes of an ETYPE 0 to 12 (R135, R146). -/
def etBytes (e : Nat) : Nat :=
  match e with
  | 0 | 1 | 11 | 12 => 1
  | 2 | 3 | 8 | 9 => 2
  | 4 | 5 | 10 => 4
  | _ => 8

/-- One row of the encoding tables: the kinds per position, the values each modifier group accepts
(some depend on earlier groups or on MOD[6:0]) and the instruction the checked fields make. -/
structure Row where
  od : Mods → Kinds
  oa : Kinds
  ob : Mods → Kinds
  et : Nat → Bool
  rnd : Mods → Nat → Bool
  ord : Mods → Nat → Bool
  scp : Mods → Nat → Bool
  m7 : Mods → Bool
  build : Head → Mods → Opd → Opd → Opd → Option Instr

/-- A row that uses no modifier group. -/
def rowPlain (od oa ob : Kinds) (b : Head → Opd → Opd → Opd → Option Instr) : Row :=
  { od := fun _ => od, oa := oa, ob := fun _ => ob, et := etNone, rnd := fun _ => rndZero,
    ord := fun _ => ordPlain, scp := fun _ => scpZero, m7 := fun m => m.m7 == 0,
    build := fun h _ => b h }

/-- A row that uses MOD[6:0] only. -/
def rowM7 (od oa ob : Kinds) (m7 : Nat → Bool) (b : Head → Nat → Opd → Opd → Opd → Option Instr) : Row :=
  { rowPlain od oa ob (fun _ _ _ _ => none) with
    m7 := fun m => m7 m.m7, build := fun h m => b h m.m7 }

/-- A row that uses ETYPE and MOD[6:0]. -/
def rowEt (od oa ob : Kinds) (et : Nat → Bool) (m7 : Nat → Nat → Bool)
    (b : Head → EType → Nat → Opd → Opd → Opd → Option Instr) : Row :=
  { rowPlain od oa ob (fun _ _ _ _ => none) with
    et := et, m7 := fun m => m7 m.et m.m7, build := fun h m => b h (BitVec.ofNat 4 m.et) m.m7 }

/-- A row that uses ETYPE, RND and MOD[6:0]. -/
def rowFp (od oa ob : Kinds) (et : Nat → Bool) (rnd : Mods → Nat → Bool) (m7 : Mods → Bool)
    (b : Head → EType → Rnd → Nat → Opd → Opd → Opd → Option Instr) : Row :=
  { rowPlain od oa ob (fun _ _ _ _ => none) with
    et := et, rnd := rnd, m7 := m7,
    build := fun h m => b h (BitVec.ofNat 4 m.et) (BitVec.ofNat 3 m.rnd) m.m7 }

def z7 (m : Nat) : Bool := m == 0
def lt7 (k : Nat) (m : Nat) : Bool := m < k

/-- "g/i" read from an operand. -/
def Opd.gi : Opd → Option GI
  | .g r => some (.g r)
  | .i x => some (.i x)
  | _ => .none
def Opd.vgi : Opd → Option VGI
  | .v r => some (.v r)
  | .g r => some (.g r)
  | .i x => some (.i x)
  | _ => .none
def Opd.vg : Opd → Option VG
  | .v r => some (.v r)
  | .g r => some (.g r)
  | _ => .none
def Opd.greg : Opd → Option GReg
  | .g r => some r
  | _ => .none
def Opd.vreg : Opd → Option VReg
  | .v r => some r
  | _ => .none
def Opd.mreg : Opd → Option MReg
  | .m r => some r
  | _ => .none
def Opd.breg : Opd → Option BReg
  | .p b _ => some b
  | _ => .none
def Opd.creg : Opd → Option CReg
  | .c r => some r
  | _ => .none
def Opd.imm : Opd → Option Imm
  | .i x => some x
  | _ => .none
def Opd.memop : Opd → Option MemOp
  | .p b d => some ⟨b, d⟩
  | _ => .none
def Opd.qop : Opd → Option QOp
  | .q o => some o
  | _ => .none
def Opd.mq : Opd → Option MQ
  | .p b d => some (.mem ⟨b, d⟩)
  | .q o => some (.que o)
  | _ => .none
/-- "m/—". -/
def Opd.omask : Opd → Option (Option MReg)
  | .nil => some .none
  | .m r => some (some r)
  | _ => .none
/-- "b/—". -/
def Opd.ob : Opd → Option (Option BReg)
  | .nil => some .none
  | .p b _ => some (some b)
  | _ => .none
/-- "g/—". -/
def Opd.og : Opd → Option (Option GReg)
  | .nil => some .none
  | .g r => some (some r)
  | _ => .none
/-- "g/i/—". -/
def Opd.ogi : Opd → Option (Option GI)
  | .nil => some .none
  | .g r => some (some (.g r))
  | .i x => some (some (.i x))
  | _ => .none
def Opd.isNone : Opd → Option Unit
  | .nil => some ()
  | _ => .none

def bit7 (m k : Nat) : Bool := bits m k 1 == 1

/-- Two g registers and a g/i: the shape of the scalar arithmetic rows. -/
def bScalar (c : Head → EType → GReg → GReg → GI → Instr) :
    Head → EType → Nat → Opd → Opd → Opd → Option Instr :=
  fun h et _ d a b => do return c h et (← d.greg) (← a.greg) (← b.gi)

def bScalar2 (c : Head → EType → GReg → GReg → Instr) :
    Head → EType → Nat → Opd → Opd → Opd → Option Instr :=
  fun h et _ d a _ => do return c h et (← d.greg) (← a.greg)

/-- The destructive vector rows: v, v/g/i, m/—. -/
def bVecD (c : Head → EType → VReg → VGI → Option MReg → Instr) :
    Head → EType → Nat → Opd → Opd → Opd → Option Instr :=
  fun h et _ d a m => do return c h et (← d.vreg) (← a.vgi) (← m.omask)

def rowScalar (et : Nat → Bool) (c : Head → EType → GReg → GReg → GI → Instr) : Row :=
  rowEt kG kG kGI et (fun _ => z7) (bScalar c)

def rowScalar2 (c : Head → EType → GReg → GReg → Instr) : Row :=
  rowEt kG kG kN etInt (fun _ => z7) (bScalar2 c)

def rowVecD (c : Head → EType → VReg → VGI → Option MReg → Instr) : Row :=
  rowEt kV kVGI kNM etInt (fun _ => z7) (bVecD c)

/-- System, class 0x0 (R116). -/
def rowSystem (ix : Nat) : Option Row :=
  match ix with
  | 0 => some (rowPlain kN kN kN fun h _ _ _ => some (.nop h))
  | 1 => some (rowPlain kI kN kN fun h d _ _ => do return .trap h (← d.imm))
  | 2 => some (rowPlain kN kN kN fun h _ _ _ => some (.eret h))
  | 3 => some (rowPlain kG kC kN fun h d a _ => do return .crd h (← d.greg) (← a.creg))
  | 4 => some (rowPlain kC kGI kN fun h d a _ => do return .cwr h (← d.creg) (← a.gi))
  | 5 => some (rowPlain kC kGI kN fun h d a _ => do return .cset h (← d.creg) (← a.gi))
  | 6 => some (rowPlain kC kGI kN fun h d a _ => do return .cclr h (← d.creg) (← a.gi))
  | 7 => some (rowPlain kG kN kN fun h d _ _ => do return .tstamp h (← d.greg))
  | 8 => some (rowPlain kI kN kN fun h d _ _ => do return .brk h (← d.imm))
  | 9 => some (rowPlain kGI kN kN fun h d _ _ => do return .tmark h (← d.gi))
  | 10 => some (rowPlain kG kN kN fun h d _ _ => do return .wdog h (← d.greg))
  | 11 => some (rowPlain kN kN kN fun h _ _ _ => some (.halt h))
  | 12 => some (rowPlain kB kG kG fun h d a b => do return .pmint h (← d.breg) (← a.greg) (← b.greg))
  | 13 => some (rowM7 kG kG kN (lt7 2) fun h m d a _ => do
      if m == 1 then return .sresumeSkip h (← d.greg) (← a.greg) else return .sresume h (← d.greg) (← a.greg))
  | 14 => some (rowPlain kG kG kN fun h d a _ => do return .tkill h (← d.greg) (← a.greg))
  | 15 => some (rowPlain kG kN kN fun h d _ _ => do return .icsync h (← d.greg))
  | _ => none

/-- Control flow in format T, class 0x1 (R124). An OD of kind g on END without DONE is refused (R126). -/
def rowControl (ix : Nat) : Option Row :=
  match ix with
  | 1 => some (rowPlain kG kN kN fun h d _ _ => do return .bri h (← d.greg))
  | 3 => some (rowPlain kG kG kN fun h d a _ => do return .calli h (← d.greg) (← a.greg))
  | 4 => some (rowPlain kG kN kN fun h d _ _ => do return .ret h (← d.greg))
  | 5 => some { rowM7 kN kN kN (lt7 2) (fun h m d _ _ => do
      if m == 1 then return .endDone h (← d.og) else return .endAct h) with
      od := fun m => if bit7 m.m7 0 then kNG else kN }
  | _ => none

/-- Scalar integer in format T, class 0x2 (R127). -/
def rowScalarClass (ix : Nat) : Option Row :=
  match ix with
  | 0 => some (rowScalar etInt .add)
  | 1 => some (rowScalar etInt .sub)
  | 2 => some (rowScalar etInt .mul)
  | 3 => some (rowScalar etSigned .mulh)
  | 4 => some (rowScalar etUnsigned .mulhu)
  | 5 => some (rowScalar etSigned .div)
  | 6 => some (rowScalar etUnsigned .divu)
  | 7 => some (rowScalar etSigned .rem)
  | 8 => some (rowScalar etUnsigned .remu)
  | 9 => some (rowScalar etInt .and)
  | 10 => some (rowScalar etInt .or)
  | 11 => some (rowScalar etInt .xor)
  | 12 => some (rowScalar etInt .andn)
  | 13 => some (rowScalar etInt .shl)
  | 14 => some (rowScalar etInt .shr)
  | 15 => some (rowScalar etSigned .sra)
  | 16 => some (rowScalar etInt .rot)
  | 17 => some (rowScalar etSigned .min)
  | 18 => some (rowScalar etSigned .max)
  | 19 => some (rowScalar etUnsigned .minu)
  | 20 => some (rowScalar etUnsigned .maxu)
  | 21 => some (rowEt kG kG kGI etInt (fun _ => lt7 6) fun h et m d a b => do
      return .cmp h et (BitVec.ofNat 3 m) (← d.greg) (← a.greg) (← b.gi))
  | 22 => some (rowPlain kG kGI kGI fun h d a b => do return .sel h (← d.greg) (← a.gi) (← b.gi))
  | 23 => some (rowScalar2 .clz)
  | 24 => some (rowScalar2 .ctz)
  | 25 => some (rowScalar2 .popc)
  | 26 => some (rowScalar etInt .bfx)
  | 27 => some (rowScalar etInt .bfi)
  | 28 => some (rowScalar2 .sext)
  | 29 => some (rowScalar2 .zext)
  | 32 => some (rowPlain kG kGI kN fun h d a _ => do return .mov h (← d.greg) (← a.gi))
  | _ => none

/-- Pointers, class 0x3 (R131). -/
def rowPointer (ix : Nat) : Option Row :=
  match ix with
  | 0 => some (rowPlain kB kB kGI fun h d a b => do return .padd h (← d.breg) (← a.breg) (← b.gi))
  | 1 => some (rowPlain kB kB kGI fun h d a b => do return .pset h (← d.breg) (← a.breg) (← b.gi))
  | 2 => some (rowM7 kG kB kN (lt7 5) fun h m d a _ => do
      return .pget h (BitVec.ofNat 3 m) (← d.greg) (← a.breg))
  | 3 => some (rowPlain kB kB kGI fun h d a b => do return .pnarrow h (← d.breg) (← a.breg) (← b.gi))
  | 4 => some (rowPlain kB kB kGI fun h d a b => do return .pperm h (← d.breg) (← a.breg) (← b.gi))
  | 5 => some (rowPlain kG kB kG fun h d a b => do return .pchk h (← d.greg) (← a.breg) (← b.greg))
  | 6 => some (rowPlain kG kB kB fun h d a b => do return .psub h (← d.greg) (← a.breg) (← b.breg))
  | 7 => some (rowPlain kB kB kN fun h d a _ => do return .pmov h (← d.breg) (← a.breg))
  | 8 => some (rowPlain kG kB kN fun h d a _ => do return .ptag h (← d.greg) (← a.breg))
  | _ => none

/-- A synchronising ORDER on LD or ST needs a 4- or 8-byte ETYPE (R135). -/
def ordLdSt (sync : Nat) (m : Mods) (o : Nat) : Bool :=
  o == 0 || (etGath m.et && (o == sync || o == 4))

/-- Scalar memory, class 0x4 (R135). -/
def rowMemory (ix : Nat) : Option Row :=
  match ix with
  | 0 => some { rowEt kG kMemQ kN etLd (fun _ => z7) (fun _ _ _ _ _ _ => none) with
      ord := ordLdSt 1, scp := fun m => scpSync m.ord,
      build := fun h m d a _ => do
        return .ld h (BitVec.ofNat 4 m.et) (BitVec.ofNat 3 m.ord) (BitVec.ofNat 3 m.scp) (← d.greg) (← a.mq) }
  | 1 => some { rowEt kMemQ kGI kN etLd (fun _ => z7) (fun _ _ _ _ _ _ => none) with
      ord := ordLdSt 2, scp := fun m => scpSync m.ord,
      build := fun h m d a _ => do
        return .st h (BitVec.ofNat 4 m.et) (BitVec.ofNat 3 m.ord) (BitVec.ofNat 3 m.scp) (← d.mq) (← a.gi) }
  | 2 => some { rowEt kG kMem kGI etAtom (fun _ => lt7 7) (fun _ _ _ _ _ _ => none) with
      ord := fun _ => ordAll, scp := fun m => scpSync m.ord,
      build := fun h m d a b => do
        return .atom h (BitVec.ofNat 4 m.et) (BitVec.ofNat 3 m.ord) (BitVec.ofNat 3 m.scp)
          (BitVec.ofNat 3 m.m7) (← d.greg) (← a.memop) (← b.gi) }
  | 3 => some { rowEt kG kMem kG etAtom (fun _ => z7) (fun _ _ _ _ _ _ => none) with
      ord := fun _ => ordAll, scp := fun m => scpSync m.ord,
      build := fun h m d a b => do
        return .cas h (BitVec.ofNat 4 m.et) (BitVec.ofNat 3 m.ord) (BitVec.ofNat 3 m.scp)
          (← d.greg) (← a.memop) (← b.greg) }
  | 4 => some { rowPlain kN kN kN (fun _ _ _ _ => none) with
      ord := fun _ o => o != 0 && o < 5, scp := fun _ => scpAll,
      build := fun h m _ _ _ => some (.fence h (BitVec.ofNat 3 m.ord) (BitVec.ofNat 3 m.scp)) }
  | 5 => some { rowEt kMem kGI kN etAtom (fun _ => z7) (fun _ _ _ _ _ _ => none) with
      scp := fun _ => scpAll,
      build := fun h m d a _ => do
        return .fflag h (BitVec.ofNat 4 m.et) (BitVec.ofNat 3 m.scp) (← d.memop) (← a.gi) }
  | 6 => some (rowPlain kB kMem kN fun h d a _ => do return .pld h (← d.breg) (← a.memop))
  | 7 => some (rowPlain kMem kB kN fun h d a _ => do return .pst h (← d.memop) (← a.breg))
  | 8 => some (rowM7 kMem kN kN (lt7 2) fun h m d _ _ => do return .pref h (bit7 m 0) (← d.memop))
  | _ => none

/-- Vector integer, logic and masks, class 0x5 (R148). -/
def rowVecInt (ix : Nat) : Option Row :=
  match ix with
  | 0 => some (rowEt kV kVGI kNM etInt (fun _ => lt7 2) fun h et m d a k => do
      return .vadd h et (bit7 m 0) (← d.vreg) (← a.vgi) (← k.omask))
  | 1 => some (rowEt kV kVGI kNM etInt (fun _ => lt7 2) fun h et m d a k => do
      return .vsub h et (bit7 m 0) (← d.vreg) (← a.vgi) (← k.omask))
  | 2 => some (rowVecD .vmul)
  | 3 => some (rowVecD .vmulh)
  | 4 => some (rowEt kV kV kVGI etInt (fun _ => z7) fun h et _ d a b => do
      return .vmad h et (← d.vreg) (← a.vreg) (← b.vgi))
  | 5 => some (rowVecD .vmin)
  | 6 => some (rowVecD .vmax)
  | 7 => some (rowEt kV kV kNM etSigned (fun _ => lt7 2) fun h et m d a k => do
      return .vabs h et (bit7 m 0) (← d.vreg) (← a.vreg) (← k.omask))
  | 8 => some (rowEt kV kV kNM etInt (fun e m => m == 0 || (m == 1 && etSigned e)) fun h et m d a k => do
      return .vneg h et (bit7 m 0) (← d.vreg) (← a.vreg) (← k.omask))
  | 9 => some (rowVecD .vand)
  | 10 => some (rowVecD .vor)
  | 11 => some (rowVecD .vxor)
  | 12 => some (rowEt kV kV kNM etInt (fun _ => z7) fun h et _ d a k => do
      return .vnot h et (← d.vreg) (← a.vreg) (← k.omask))
  | 13 => some (rowVecD .vshl)
  | 14 => some (rowVecD .vshr)
  | 15 => some (rowVecD .vsra)
  | 16 => some (rowEt kM kV kVGI etInt (fun _ => lt7 6) fun h et m d a b => do
      return .vcmp h et (BitVec.ofNat 3 m) (← d.mreg) (← a.vreg) (← b.vgi))
  | 17 => some (rowEt kV kVGI kM etLd (fun _ => z7) fun h et _ d a k => do
      return .vsel h et (← d.vreg) (← a.vgi) (← k.mreg))
  | 18 => some (rowPlain kV kV kN fun h d a _ => do return .vmov h (← d.vreg) (← a.vreg))
  | 19 => some (rowEt kV kV kGI etLd (fun _ => z7) fun h et _ d a b => do
      return .vbcast h et (← d.vreg) (← a.vreg) (← b.gi))
  | 20 => some (rowEt kG kV kGI etLd (fun _ => z7) fun h et _ d a b => do
      return .vextr h et (← d.greg) (← a.vreg) (← b.gi))
  | 21 => some (rowEt kV kGI kGI etLd (fun _ => z7) fun h et _ d a b => do
      return .vins h et (← d.vreg) (← a.gi) (← b.gi))
  | 22 => some (rowEt kV kGI kGI etInt (fun _ => z7) fun h et _ d a b => do
      return .viota h et (← d.vreg) (← a.gi) (← b.gi))
  | 23 => some (rowEt kM kG kGI etInt (fun _ => z7) fun h et _ d a b => do
      return .lbc h et (← d.mreg) (← a.greg) (← b.gi))
  | 24 => some (rowPlain kG kN kN fun h d _ _ => do return .vwid h (← d.greg))
  | 25 => some (rowPlain kM kM kM fun h d a b => do return .kand h (← d.mreg) (← a.mreg) (← b.mreg))
  | 26 => some (rowPlain kM kM kM fun h d a b => do return .kor h (← d.mreg) (← a.mreg) (← b.mreg))
  | 27 => some (rowPlain kM kM kN fun h d a _ => do return .knot h (← d.mreg) (← a.mreg))
  | 28 => some (rowEt kG kM kN etInt (fun _ => z7) fun h et _ d a _ => do
      return .kpopc h et (← d.greg) (← a.mreg))
  | 29 => some (rowEt kG kM kN etInt (fun _ => z7) fun h et _ d a _ => do
      return .kfirst h et (← d.greg) (← a.mreg))
  | _ => none

def rnd0 (_ : Mods) (r : Nat) : Bool := r == 0
def rndA (_ : Mods) (r : Nat) : Bool := rndAny r
def m70 (m : Mods) : Bool := m.m7 == 0

/-- Destructive floating-point rows: v, v/g, m/—. -/
def rowVfD (c : Head → EType → Rnd → VReg → VG → Option MReg → Instr) : Row :=
  rowFp kV kVG kNM etFp rndA m70 fun h et r _ d a k => do
    return c h et r (← d.vreg) (← a.vg) (← k.omask)

def rowVf3 (c : Head → EType → Rnd → VReg → VReg → VG → Instr) : Row :=
  rowFp kV kV kVG etFp rndA m70 fun h et r _ d a b => do
    return c h et r (← d.vreg) (← a.vreg) (← b.vg)

/-- Vector floating point, class 0x6 (R152). -/
def rowVecFp (ix : Nat) : Option Row :=
  match ix with
  | 0 => some (rowVfD .vfadd)
  | 1 => some (rowVfD .vfsub)
  | 2 => some (rowVfD .vfmul)
  | 3 => some (rowVf3 .vfma)
  | 4 => some (rowVf3 .vfms)
  | 5 => some (rowVf3 .vfnma)
  | 6 => some (rowFp kV kVG kNM etFp rnd0 m70 fun h et _ _ d a k => do
      return .vfmin h et (← d.vreg) (← a.vg) (← k.omask))
  | 7 => some (rowFp kV kVG kNM etFp rnd0 m70 fun h et _ _ d a k => do
      return .vfmax h et (← d.vreg) (← a.vg) (← k.omask))
  | 8 => some (rowFp kV kV kNM etFp rnd0 m70 fun h et _ _ d a k => do
      return .vfabs h et (← d.vreg) (← a.vreg) (← k.omask))
  | 9 => some (rowFp kV kV kNM etFp rnd0 m70 fun h et _ _ d a k => do
      return .vfneg h et (← d.vreg) (← a.vreg) (← k.omask))
  | 10 => some (rowFp kM kV kVG etFp rnd0 (fun m => m.m7 < 8) fun h et _ m d a b => do
      return .vfcmp h et (BitVec.ofNat 3 m) (← d.mreg) (← a.vreg) (← b.vg))
  | 11 => some (rowFp kG kV kNM etFp (fun m r => if bits m.m7 0 2 == 0 then rndAny r else r == 0)
      (fun m => m.m7 < 3) fun h et r m d a k => do
      return .vred h et r (BitVec.ofNat 2 m) (← d.greg) (← a.vreg) (← k.omask))
  | 12 => some (rowFp kV kV kNM etFp rnd0 m70 fun h et _ _ d a k => do
      return .vfclass h et (← d.vreg) (← a.vreg) (← k.omask))
  | _ => none

/-- VCVT's MOD[6:0]: SRC in [6:3] names a format, the widths differ by a factor of at most 4, and
PART lies below that factor (R156, R157). R157 names no field for widths that differ by a factor of 8: the trap reports
FIELD 9 with MOD[6:0] (DESIGN CHOICE, log 224). -/
def vcvtOk (m : Mods) : Bool :=
  let src := bits m.m7 3 4
  let wd := etBytes m.et
  let ws := etBytes src
  let r := Nat.max ws wd / Nat.min ws wd
  src < 13 && r < 8 && bits m.m7 0 2 < r

/-- VUNPK's PART limit by source width (R159). -/
def vunpkOk (m : Mods) : Bool :=
  if m.et == 8 || m.et == 9 then m.m7 < 2 else if m.et == 11 || m.et == 12 then m.m7 < 4 else m.m7 < 8

def rowPerm (c : Head → EType → VReg → VReg → VReg → Instr) : Row :=
  rowEt kV kV kV etLd (fun _ => z7) fun h et _ d a b => do
    return c h et (← d.vreg) (← a.vreg) (← b.vreg)

def rowSfu (c : Head → VReg → VReg → Option MReg → Instr) : Row :=
  rowFp kV kV kNM etF32 rnd0 m70 fun h _ _ _ d a k => do
    return c h (← d.vreg) (← a.vreg) (← k.omask)

def rowSfuR (c : Head → Rnd → VReg → VReg → Option MReg → Instr) : Row :=
  rowFp kV kV kNM etF32 rndA m70 fun h _ r _ d a k => do
    return c h r (← d.vreg) (← a.vreg) (← k.omask)

/-- Conversion, permutation and special functions, class 0x7 (R156). -/
def rowConvert (ix : Nat) : Option Row :=
  match ix with
  | 0 => some (rowFp kV kV kNM etLd rndA vcvtOk fun h et r m d a k => do
      return .vcvt h et (BitVec.ofNat 4 (bits m 3 4)) r (bit7 m 2) (BitVec.ofNat 2 (bits m 0 2))
        (← d.vreg) (← a.vreg) (← k.omask))
  | 1 => some (rowFp kV kV kV etPack2 rndA (fun m => m.m7 < 2) fun h et r m d a b => do
      return .vpack2 h et r (bit7 m 0) (← d.vreg) (← a.vreg) (← b.vreg))
  | 2 => some (rowFp kV kV kN etPack4 rndA (fun m => m.m7 < (if m.et == 13 then 4 else 2))
      fun h et r m d a _ => do
      return .vpack4 h et r (bit7 m 0) (bit7 m 1) (← d.vreg) (← a.vreg))
  | 3 => some { rowFp kV kV kN etUnpk rnd0 vunpkOk (fun h et _ m d a b => do
      return .vunpk h et (BitVec.ofNat 3 m) (← d.vreg) (← a.vreg) (← b.og)) with
      ob := fun m => if m.et == 14 then kG else kN }
  | 4 => some (rowPerm .vperm)
  | 5 => some (rowEt kV kV kGI etLd (fun _ => z7) fun h et _ d a b => do
      return .vslide h et (← d.vreg) (← a.vreg) (← b.gi))
  | 6 => some (rowEt kV kV kV etLd (fun _ => lt7 2) fun h et m d a b => do
      return .vzip h et (bit7 m 0) (← d.vreg) (← a.vreg) (← b.vreg))
  | 7 => some (rowEt kV kV kV etLd (fun _ => lt7 2) fun h et m d a b => do
      return .vuzp h et (bit7 m 0) (← d.vreg) (← a.vreg) (← b.vreg))
  | 8 => some (rowSfu .vexp2)
  | 9 => some (rowSfu .vlog2)
  | 10 => some (rowSfuR .vrcp)
  | 11 => some (rowSfuR .vrsq)
  | 12 => some (rowSfu .vsin)
  | 13 => some (rowSfu .vcos)
  | 14 => some (rowSfu .vtanh)
  | _ => none

/-- Vector memory, class 0x8 (R163). -/
def rowVecMem (ix : Nat) : Option Row :=
  match ix with
  | 0 => some (rowEt kV kMemQ kNM etLd (fun _ => z7) fun h et _ d a k => do
      return .vld h et (← d.vreg) (← a.mq) (← k.omask))
  | 1 => some (rowEt kMemQ kV kNM etLd (fun _ => z7) fun h et _ d a k => do
      return .vst h et (← d.mq) (← a.vreg) (← k.omask))
  | 2 => some (rowEt kV kMem kG etLd (fun _ => z7) fun h et _ d a b => do
      return .vlds h et (← d.vreg) (← a.memop) (← b.greg))
  | 3 => some (rowEt kMem kV kG etLd (fun _ => z7) fun h et _ d a b => do
      return .vsts h et (← d.memop) (← a.vreg) (← b.greg))
  | 4 => some (rowEt kV kMem kV etGath (fun _ => z7) fun h et _ d a b => do
      return .vgath h et (← d.vreg) (← a.memop) (← b.vreg))
  | 5 => some (rowEt kMem kV kV etGath (fun _ => z7) fun h et _ d a b => do
      return .vscat h et (← d.memop) (← a.vreg) (← b.vreg))
  | 6 => some (rowEt kV kMem kNM etLd (fun _ => z7) fun h et _ d a k => do
      return .vldb h et (← d.vreg) (← a.memop) (← k.omask))
  | _ => none

/-- LEN in [5:0] is 0 to 60; [6] is NOINH (R166). -/
def sendOk (m : Nat) : Bool := bits m 0 6 < 61

/-- Messaging, class 0x9 (R166). -/
def rowMessage (ix : Nat) : Option Row :=
  match ix with
  | 0 => some (rowM7 kG kGI kNB sendOk fun h m d a b => do
      return .send h (BitVec.ofNat 6 m) (bit7 m 6) (← d.greg) (← a.gi) (← b.ob))
  | 1 => some (rowM7 kB kGI kNB sendOk fun h m d a b => do
      return .sendm h (BitVec.ofNat 6 m) (bit7 m 6) (← d.breg) (← a.gi) (← b.ob))
  | 2 => some (rowPlain kNB kG kNB fun h d a b => do return .post h (← d.ob) (← a.greg) (← b.ob))
  | 3 => some (rowPlain kB kGI kN fun h d a _ => do return .join h (← d.breg) (← a.gi))
  | 4 => some (rowPlain kQ kN kN fun h d _ _ => do return .qadv h (← d.qop))
  | 5 => some (rowPlain kG kQ kN fun h d a _ => do return .qstat h (← d.greg) (← a.qop))
  | 6 => some { rowM7 kQ kGI kN (lt7 2) (fun h m d a b => do
      if m == 1 then return .qbindInit h (← d.qop) (← a.gi) (← b.greg)
      else return .qbind h (← d.qop) (← a.gi)) with
      ob := fun m => if bit7 m.m7 0 then kG else kN }
  | 7 => some (rowPlain kGI kGI kNB fun h d a b => do return .semv h (← d.gi) (← a.gi) (← b.ob))
  | 8 => some (rowPlain kG kGI kNB fun h d a b => do return .semq h (← d.greg) (← a.gi) (← b.ob))
  | 9 => some (rowM7 kGI kG kGI (lt7 4) fun h m d a b => do
      return .swset h (bit7 m 0) (bit7 m 1) (← d.gi) (← a.greg) (← b.gi))
  | 10 => some (rowM7 kG kGI kN (lt7 2) fun h m d a _ => do
      return .swread h (bit7 m 0) (← d.greg) (← a.gi))
  | _ => none

/-- NIB needs ETYPE 0 or 1 (R200). -/
def nibOk (e m : Nat) : Bool := m == 0 || (m == 1 && e < 2)

/-- RQ and the target ETYPE must suit each other (R200). -/
def rqOk (m : Mods) : Bool := (m.m7 == 0 && 4 ≤ m.et) || (m.m7 == 1 && m.et ≤ 4)

/-- MDRAIN's RND: any for targets 4 and 8 to 11, otherwise 000 (R200). -/
def rndDrain (m : Mods) (r : Nat) : Bool :=
  if m.et == 4 || (8 ≤ m.et && m.et ≤ 11) then rndAny r else r == 0

/-- Matrix, class 0xA (R200). -/
def rowMatrix (ix : Nat) : Option Row :=
  match ix with
  | 0 => some (rowPlain kG kGI kN fun h d a _ => do return .sclaim h (← d.greg) (← a.gi))
  | 1 => some (rowPlain kGI kGI kN fun h d a _ => do return .srel h (← d.gi) (← a.gi))
  | 2 => some { rowPlain kGI kMem kG (fun _ _ _ _ => none) with
      ord := fun _ o => o == 0 || o == 1, scp := fun m => scpSync m.ord,
      build := fun h m d a b => do
        return .sload h (BitVec.ofNat 3 m.ord) (BitVec.ofNat 3 m.scp) (← d.gi) (← a.memop) (← b.greg) }
  | 3 => some { rowPlain kMem kGI kG (fun _ _ _ _ => none) with
      ord := fun _ o => o == 0 || o == 2, scp := fun m => scpSync m.ord,
      build := fun h m d a b => do
        return .ssave h (BitVec.ofNat 3 m.ord) (BitVec.ofNat 3 m.scp) (← d.memop) (← a.gi) (← b.greg) }
  | 4 => some (rowEt kGI kN kN etMat nibOk fun h et m d _ _ => do return .mwld h et (bit7 m 0) (← d.gi))
  | 5 => some (rowEt kG kGI kN etMat nibOk fun h et m d a _ => do
      return .mgang h et (bit7 m 0) (← d.greg) (← a.gi))
  | 6 => some (rowPlain kG kN kN fun h d _ _ => do return .mzero h (← d.greg))
  | 7 => some (rowEt kG kMem kN etMaccld (fun _ => z7) fun h et _ d a _ => do
      return .maccld h et (← d.greg) (← a.memop))
  | 8 => some { rowFp kG kB kG etDrain rndDrain rqOk (fun _ _ _ _ _ _ _ => none) with
      ord := fun _ o => o == 0 || o == 2, scp := fun m => scpSync m.ord,
      build := fun h m d a b => do
        if m.m7 == 1 then
          return .mdrainRq h (BitVec.ofNat 4 m.et) (BitVec.ofNat 3 m.rnd) (BitVec.ofNat 3 m.ord)
            (BitVec.ofNat 3 m.scp) (← d.greg) (← a.breg) (← b.greg)
        else
          return .mdrain h (BitVec.ofNat 4 m.et) (BitVec.ofNat 3 m.rnd) (BitVec.ofNat 3 m.ord)
            (BitVec.ofNat 3 m.scp) (← d.greg) (← a.breg) (← b.greg) }
  | 9 => some (rowM7 kG kGI kN (lt7 2) fun h m d a _ => do
      if m == 1 then return .mstatClr h (← d.greg) (← a.gi) else return .mstat h (← d.greg) (← a.gi))
  | _ => none

/-- SCALE 0 to 4 or AUTO (7) (R220). -/
def scaleOk (k : Nat) : Bool := k < 5 || k == 7

/-- Butterfly, class 0xB (R220). -/
def rowButterfly (ix : Nat) : Option Row :=
  match ix with
  | 0 => some (rowPlain kG kG kN fun h d a _ => do return .mtwid h (← d.greg) (← a.greg))
  | 1 => some (rowPlain kGI kGI kN fun h d a _ => do return .mdrev h (← d.gi) (← a.gi))
  | 2 => some (rowM7 kGI kGI kG scaleOk fun h m d a b => do
      return .mbfly h (BitVec.ofNat 3 m) (← d.gi) (← a.gi) (← b.greg))
  | 3 => some { rowM7 kG kGI kN (lt7 2) (fun h m d a b => do
      if m == 1 then return .mbexpSet h (← d.greg) (← a.gi) (← b.gi)
      else return .mbexp h (← d.greg) (← a.gi)) with
      ob := fun m => if bit7 m.m7 0 then kGI else kN }
  | 4 => some (rowM7 kGI kGI kG (fun m => m < 16 && scaleOk (bits m 0 3)) fun h m d a b => do
      return .mcmul h (BitVec.ofNat 3 (bits m 0 3)) (bit7 m 3) (← d.gi) (← a.gi) (← b.greg))
  | _ => none

/-- Names, class 0xC (R250). -/
def rowNames (ix : Nat) : Option Row :=
  match ix with
  | 0 => some (rowPlain kG kB kNB fun h d a b => do return .nwalk h (← d.greg) (← a.breg) (← b.ob))
  | 1 => some (rowPlain kG kB kN fun h d a _ => do return .nopen h (← d.greg) (← a.breg))
  | 2 => some (rowPlain kG kB kN fun h d a _ => do return .nclose h (← d.greg) (← a.breg))
  | 3 => some (rowPlain kG kB kB fun h d a b => do return .nread h (← d.greg) (← a.breg) (← b.breg))
  | 4 => some (rowPlain kG kB kB fun h d a b => do return .nwrite h (← d.greg) (← a.breg) (← b.breg))
  | 5 => some (rowPlain kG kB kB fun h d a b => do return .nbind h (← d.greg) (← a.breg) (← b.breg))
  | 6 => some (rowPlain kG kB kNB fun h d a b => do return .nunbind h (← d.greg) (← a.breg) (← b.ob))
  | 7 => some (rowPlain kG kB kN fun h d a _ => do return .nstat h (← d.greg) (← a.breg))
  | 8 => some (rowPlain kG kB kN fun h d a _ => do return .nrevoke h (← d.greg) (← a.breg))
  | 9 => some (rowPlain kG kB kG fun h d a b => do return .ncreate h (← d.greg) (← a.breg) (← b.greg))
  | 10 => some (rowPlain kG kB kN fun h d a _ => do return .nremove h (← d.greg) (← a.breg))
  | _ => none

/-- Fabric and mull, class 0xD (R289, R304). R304 gives the kind of MLREAD's OB for three ETYPEs alone: with any other,
the kind is g/i, and one that does not fit is reported before the ETYPE is (DESIGN CHOICE, log 225). -/
def rowFabric (ix : Nat) : Option Row :=
  match ix with
  | 0 => some (rowPlain kG kB kGI fun h d a b => do return .rslot h (← d.greg) (← a.breg) (← b.gi))
  | 1 => some (rowPlain kB kGI kN fun h d a _ => do return .rfree h (← d.breg) (← a.gi))
  | 2 => some { rowPlain kB kV kG (fun _ _ _ _ => none) with
      ord := fun _ o => o == 0 || o == 1, scp := fun m s => if m.ord == 1 then s == 3 else s == 0,
      build := fun h m d a b => do
        return .rpush h (BitVec.ofNat 3 m.ord) (BitVec.ofNat 3 m.scp) (← d.breg) (← a.vreg) (← b.greg) }
  | 3 => some (rowPlain kG kB kN fun h d a _ => do return .rstat h (← d.greg) (← a.breg))
  | 4 => some { rowFp kMem kV kGI etMladd (fun m r => if bit7 m.m7 0 then r == 0 else rndAny r)
      (fun m => m.m7 < 2) (fun _ _ _ _ _ _ _ => none) with
      build := fun h m d a b => do
        if (m.et == 6) == (m.m7 == 1) then
          return .mladd h (m.m7 == 1) (BitVec.ofNat 3 m.rnd) (← d.memop) (← a.vreg) (← b.gi)
        else none }
  | 5 => some { rowFp kV kMem kNGI etMlread (fun m r => if m.et == 10 then rndAny r else r == 0) m70
      (fun h et r _ d a b => do return .mlread h et r (← d.vreg) (← a.memop) (← b.ogi)) with
      ob := fun m => if m.et == 7 then kN else kGI }
  | 6 => some (rowPlain kG kB kGI fun h d a b => do return .mspread h (← d.greg) (← a.breg) (← b.gi))
  | 7 => some (rowPlain kN kN kN fun h _ _ _ => some (.mlfence h))
  | 8 => some (rowM7 kG kB kGI (lt7 4) fun h m d a b => do
      match m with
      | 0 => return .mlcfgCreate h (← d.greg) (← a.breg) (← b.gi)
      | 1 => return .mlcfgCadence h (← d.greg) (← a.breg) (← b.gi)
      | 2 => return .mlcfgReset h (← d.greg) (← a.breg) (← b.gi)
      | _ => return .mlcfgDestroy h (← d.greg) (← a.breg) (← b.gi))
  | _ => none

/-- The row of an opcode in format T (R97). -/
def rowOf (opc : Nat) : Option Row :=
  match opc / 64 with
  | 0 => rowSystem (opc % 64)
  | 1 => rowControl (opc % 64)
  | 2 => rowScalarClass (opc % 64)
  | 3 => rowPointer (opc % 64)
  | 4 => rowMemory (opc % 64)
  | 5 => rowVecInt (opc % 64)
  | 6 => rowVecFp (opc % 64)
  | 7 => rowConvert (opc % 64)
  | 8 => rowVecMem (opc % 64)
  | 9 => rowMessage (opc % 64)
  | 10 => rowMatrix (opc % 64)
  | 11 => rowButterfly (opc % 64)
  | 12 => rowNames (opc % 64)
  | 13 => rowFabric (opc % 64)
  | _ => none

/-- The guard and hint bits of a word (R91). -/
def headOf (w : Nat) : Head :=
  { gn := bits w 85 1 == 1, gm := BitVec.ofNat 3 (bits w 82 3), stall := BitVec.ofNat 4 (bits w 78 4),
    cache := BitVec.ofNat 2 (bits w 76 2), yld := bits w 75 1 == 1, ign := bits w 74 1 == 1 }

def operandErr (field kind : Nat) : EncErr := ⟨0x02, field, kind⟩
def modifierErr (field value : Nat) : EncErr := ⟨0x03, field, value⟩

/-- ETYPE of MLADD must agree with MASS; the failing group is ETYPE (R304). -/
def etAgrees (opc : Nat) (m : Mods) : Bool := opc != 836 || ((m.et == 6) == bit7 m.m7 0)

/-- OA of VPACK4 names a register whose index is a multiple of 4 (R156). -/
def oaAgrees (opc : Nat) (a : Opd) : Bool :=
  opc != 450 || match a with
    | .v r => r.toNat % 4 == 0
    | _ => true

/-- Checks the modifier groups in the order of R101. -/
def checkMods (opc : Nat) (r : Row) (m : Mods) : Except EncErr Unit :=
  if !(r.et m.et) || !(etAgrees opc m) then .error (modifierErr 5 m.et)
  else if !(r.rnd m m.rnd) then .error (modifierErr 6 m.rnd)
  else if !(r.ord m m.ord) then .error (modifierErr 7 m.ord)
  else if !(r.scp m m.scp) then .error (modifierErr 8 m.scp)
  else if !(r.m7 m) then .error (modifierErr 9 m.m7)
  else .ok ()

/-- One operand field, its failure named by its FIELD (R102). `crOk` judges a control-register index
(R95): an index it refuses fails with VALUE 0. -/
def opdField (crOk : Nat → Bool) (field : Nat) (k : Kinds) (f : Nat) : Except EncErr Opd :=
  match decodeOpd k f with
  | .ok (.c r) => if crOk r.toNat then .ok (.c r) else .error (operandErr field 0)
  | .ok o => .ok o
  | .error kind => .error (operandErr field kind)

/-- A format T word whose row is `r`: OD, OA, OB, then MOD (R101). -/
def decodeT (crOk : Nat → Bool) (opc : Nat) (r : Row) (w : Nat) : Except EncErr Instr :=
  let m := modsOf (bits w 0 20)
  match opdField crOk 1 (r.od m) (bits w 56 18) with
  | .error e => .error e
  | .ok d =>
    match opdField crOk 2 r.oa (bits w 38 18) with
    | .error e => .error e
    | .ok a =>
      if !(oaAgrees opc a) then .error (operandErr 2 2) else
      match opdField crOk 3 (r.ob m) (bits w 20 18) with
      | .error e => .error e
      | .ok b =>
        match checkMods opc r m with
        | .error e => .error e
        | .ok _ =>
          match r.build (headOf w) m d a b with
          | some i => .ok i
          | none => .error ⟨0x01, 0, 0⟩

/-- A format L word: OD, then IMM56 (R92). -/
def decodeL (crOk : Nat → Bool) (opc w : Nat) : Except EncErr Instr :=
  let imm := bits w 0 56
  let immBv : Imm56 := BitVec.ofNat 56 imm
  let h := headOf w
  match opdField crOk 1 (if opc == 64 then kN else kG) (bits w 56 18) with
  | .error e => .error e
  | .ok d =>
    match opc, d with
    | 66, .g r => .ok (.call h r immBv)
    | 70, .g r => .ok (.loop h r immBv)
    | 158, .g r => .ok (.li h r immBv)
    | 159, .g r => if bits imm 8 48 == 0 then .ok (.lih h r (BitVec.ofNat 8 imm)) else .error (operandErr 4 0)
    | _, _ => .ok (.br h immBv)

/-- Is this opcode one of the five of format L (R92)? -/
def isFormatL (opc : Nat) : Bool := opc == 64 || opc == 66 || opc == 70 || opc == 158 || opc == 159

/-- The instruction a 96-bit word is, or the encoding trap it raises (R100, R101), control-register
indices judged by `crOk` (R95). An unassigned opcode decodes to the table's own row for it. -/
def decodeWith (crOk : Nat → Bool) (w : Nat) : Except EncErr Instr :=
  let opc := bits w 86 10
  if isFormatL opc then decodeL crOk opc w
  else
    match rowOf opc with
    | some r => decodeT crOk opc r w
    | none => .ok (.illegalOpcode (BitVec.ofNat 96 w))

/-- Decoding that leaves control-register indices to the instruction. -/
def decodeWord (w : Nat) : Except EncErr Instr := decodeWith (fun _ => true) w

/-- The word whose bytes are `bs`, the first the least significant (R3). -/
def wordOfBytes (bs : List Byte) : Nat :=
  bs.foldr (fun b acc => b.toNat + 256 * acc) 0

/-- The twelve bytes of a word, least significant first (R3, R91). -/
def bytesOfWord (w : Nat) : List Byte :=
  (List.range 12).map fun k => BitVec.ofNat 8 (w / 256 ^ k)

/-- Decoding the twelve bytes fetched (R103). -/
def decodeBytes (bs : List Byte) : Except EncErr Instr := decodeWord (wordOfBytes bs)

/-- What the decoder reads from a word given as the opcode table numbers bits. An instruction is one
word of 96 bits, so `nbits` below 96 leaves its upper bits zero. -/
def decodeTableWord (nbits w : Nat) : Option Instr :=
  match decodeBytes (bytesOfWord (bits w 0 nbits)) with
  | .ok i => some i
  | .error _ => none

/-! ### The encoder -/

/-- The head's bits [85:74]. -/
def Head.code (h : Head) : Nat :=
  h.gn.toNat * 2 ^ 85 + h.gm.toNat * 2 ^ 82 + h.stall.toNat * 2 ^ 78 + h.cache.toNat * 2 ^ 76 +
    h.yld.toNat * 2 ^ 75 + h.ign.toNat * 2 ^ 74

def oN : Nat := 0
def oG (r : GReg) : Nat := 0x08000 + r.toNat
def oV (r : VReg) : Nat := 0x10000 + r.toNat
def oB (r : BReg) : Nat := 0x18000 + r.toNat
def oMem (m : MemOp) : Nat := 0x18000 + m.b.toNat + 16 * m.disp.toNat
def oQ (q : QOp) : Nat := 0x20000 + q.q.toNat + 16 * q.c.toNat + 1024 * q.adv.toNat
def oM (r : MReg) : Nat := 0x28000 + r.toNat
def oI (x : Imm) : Nat := 0x30000 + x.toNat
def oC (r : CReg) : Nat := 0x38000 + r.toNat
def oGI : GI → Nat
  | .g r => oG r
  | .i x => oI x
def oVGI : VGI → Nat
  | .v r => oV r
  | .g r => oG r
  | .i x => oI x
def oVG : VG → Nat
  | .v r => oV r
  | .g r => oG r
def oMQ : MQ → Nat
  | .mem m => oMem m
  | .que q => oQ q
def oOM : Option MReg → Nat
  | none => 0
  | some r => oM r
def oOB : Option BReg → Nat
  | none => 0
  | some r => oB r
def oOG : Option GReg → Nat
  | none => 0
  | some r => oG r
def oOGI : Option GI → Nat
  | none => 0
  | some x => oGI x

/-- A format T word (R91). -/
def wT (opc : Nat) (h : Head) (od oa ob : Nat) (md : Nat) : Nat :=
  opc * 2 ^ 86 + h.code + od * 2 ^ 56 + oa * 2 ^ 38 + ob * 2 ^ 20 + md

/-- A format L word (R91). -/
def wL (opc : Nat) (h : Head) (od imm : Nat) : Nat :=
  opc * 2 ^ 86 + h.code + od * 2 ^ 56 + imm

/-- MOD from its groups (R96). -/
def md (et rnd ord scp m7 : Nat) : Nat := et * 65536 + rnd * 8192 + ord * 1024 + scp * 128 + m7

/-- The word of an instruction, from the same encoding tables; a step of the machine itself has none. -/
def encode : Instr → Option Nat
  | .nop h => some (wT 0 h 0 0 0 (md 0 0 0 0 (0)))
  | .trap h imm => some (wT 1 h (oI imm) 0 0 (md 0 0 0 0 (0)))
  | .eret h => some (wT 2 h 0 0 0 (md 0 0 0 0 (0)))
  | .crd h d a => some (wT 3 h (oG d) (oC a) 0 (md 0 0 0 0 (0)))
  | .cwr h d a => some (wT 4 h (oC d) (oGI a) 0 (md 0 0 0 0 (0)))
  | .cset h d a => some (wT 5 h (oC d) (oGI a) 0 (md 0 0 0 0 (0)))
  | .cclr h d a => some (wT 6 h (oC d) (oGI a) 0 (md 0 0 0 0 (0)))
  | .tstamp h d => some (wT 7 h (oG d) 0 0 (md 0 0 0 0 (0)))
  | .brk h imm => some (wT 8 h (oI imm) 0 0 (md 0 0 0 0 (0)))
  | .tmark h a => some (wT 9 h (oGI a) 0 0 (md 0 0 0 0 (0)))
  | .wdog h d => some (wT 10 h (oG d) 0 0 (md 0 0 0 0 (0)))
  | .halt h => some (wT 11 h 0 0 0 (md 0 0 0 0 (0)))
  | .pmint h d a b => some (wT 12 h (oB d) (oG a) (oG b) (md 0 0 0 0 (0)))
  | .sresume h d a => some (wT 13 h (oG d) (oG a) 0 (md 0 0 0 0 (0)))
  | .sresumeSkip h d a => some (wT 13 h (oG d) (oG a) 0 (md 0 0 0 0 (1)))
  | .tkill h d a => some (wT 14 h (oG d) (oG a) 0 (md 0 0 0 0 (0)))
  | .icsync h a => some (wT 15 h (oG a) 0 0 (md 0 0 0 0 (0)))
  | .br h imm => some (wL 64 h 0 imm.toNat)
  | .bri h a => some (wT 65 h (oG a) 0 0 (md 0 0 0 0 (0)))
  | .call h d imm => some (wL 66 h (oG d) imm.toNat)
  | .calli h d a => some (wT 67 h (oG d) (oG a) 0 (md 0 0 0 0 (0)))
  | .ret h a => some (wT 68 h (oG a) 0 0 (md 0 0 0 0 (0)))
  | .endAct h => some (wT 69 h 0 0 0 (md 0 0 0 0 (0)))
  | .endDone h a => some (wT 69 h (oOG a) 0 0 (md 0 0 0 0 (1)))
  | .loop h d imm => some (wL 70 h (oG d) imm.toNat)
  | .add h et d a b => some (wT 128 h (oG d) (oG a) (oGI b) (md et.toNat 0 0 0 (0)))
  | .sub h et d a b => some (wT 129 h (oG d) (oG a) (oGI b) (md et.toNat 0 0 0 (0)))
  | .mul h et d a b => some (wT 130 h (oG d) (oG a) (oGI b) (md et.toNat 0 0 0 (0)))
  | .mulh h et d a b => some (wT 131 h (oG d) (oG a) (oGI b) (md et.toNat 0 0 0 (0)))
  | .mulhu h et d a b => some (wT 132 h (oG d) (oG a) (oGI b) (md et.toNat 0 0 0 (0)))
  | .div h et d a b => some (wT 133 h (oG d) (oG a) (oGI b) (md et.toNat 0 0 0 (0)))
  | .divu h et d a b => some (wT 134 h (oG d) (oG a) (oGI b) (md et.toNat 0 0 0 (0)))
  | .rem h et d a b => some (wT 135 h (oG d) (oG a) (oGI b) (md et.toNat 0 0 0 (0)))
  | .remu h et d a b => some (wT 136 h (oG d) (oG a) (oGI b) (md et.toNat 0 0 0 (0)))
  | .and h et d a b => some (wT 137 h (oG d) (oG a) (oGI b) (md et.toNat 0 0 0 (0)))
  | .or h et d a b => some (wT 138 h (oG d) (oG a) (oGI b) (md et.toNat 0 0 0 (0)))
  | .xor h et d a b => some (wT 139 h (oG d) (oG a) (oGI b) (md et.toNat 0 0 0 (0)))
  | .andn h et d a b => some (wT 140 h (oG d) (oG a) (oGI b) (md et.toNat 0 0 0 (0)))
  | .shl h et d a b => some (wT 141 h (oG d) (oG a) (oGI b) (md et.toNat 0 0 0 (0)))
  | .shr h et d a b => some (wT 142 h (oG d) (oG a) (oGI b) (md et.toNat 0 0 0 (0)))
  | .sra h et d a b => some (wT 143 h (oG d) (oG a) (oGI b) (md et.toNat 0 0 0 (0)))
  | .rot h et d a b => some (wT 144 h (oG d) (oG a) (oGI b) (md et.toNat 0 0 0 (0)))
  | .min h et d a b => some (wT 145 h (oG d) (oG a) (oGI b) (md et.toNat 0 0 0 (0)))
  | .max h et d a b => some (wT 146 h (oG d) (oG a) (oGI b) (md et.toNat 0 0 0 (0)))
  | .minu h et d a b => some (wT 147 h (oG d) (oG a) (oGI b) (md et.toNat 0 0 0 (0)))
  | .maxu h et d a b => some (wT 148 h (oG d) (oG a) (oGI b) (md et.toNat 0 0 0 (0)))
  | .cmp h et cond d a b => some (wT 149 h (oG d) (oG a) (oGI b) (md et.toNat 0 0 0 (cond.toNat)))
  | .sel h d a b => some (wT 150 h (oG d) (oGI a) (oGI b) (md 0 0 0 0 (0)))
  | .clz h et d a => some (wT 151 h (oG d) (oG a) 0 (md et.toNat 0 0 0 (0)))
  | .ctz h et d a => some (wT 152 h (oG d) (oG a) 0 (md et.toNat 0 0 0 (0)))
  | .popc h et d a => some (wT 153 h (oG d) (oG a) 0 (md et.toNat 0 0 0 (0)))
  | .bfx h et d a b => some (wT 154 h (oG d) (oG a) (oGI b) (md et.toNat 0 0 0 (0)))
  | .bfi h et d a b => some (wT 155 h (oG d) (oG a) (oGI b) (md et.toNat 0 0 0 (0)))
  | .sext h et d a => some (wT 156 h (oG d) (oG a) 0 (md et.toNat 0 0 0 (0)))
  | .zext h et d a => some (wT 157 h (oG d) (oG a) 0 (md et.toNat 0 0 0 (0)))
  | .li h d imm => some (wL 158 h (oG d) imm.toNat)
  | .lih h d imm => some (wL 159 h (oG d) imm.toNat)
  | .mov h d a => some (wT 160 h (oG d) (oGI a) 0 (md 0 0 0 0 (0)))
  | .padd h d a b => some (wT 192 h (oB d) (oB a) (oGI b) (md 0 0 0 0 (0)))
  | .pset h d a b => some (wT 193 h (oB d) (oB a) (oGI b) (md 0 0 0 0 (0)))
  | .pget h sel d a => some (wT 194 h (oG d) (oB a) 0 (md 0 0 0 0 (sel.toNat)))
  | .pnarrow h d a b => some (wT 195 h (oB d) (oB a) (oGI b) (md 0 0 0 0 (0)))
  | .pperm h d a b => some (wT 196 h (oB d) (oB a) (oGI b) (md 0 0 0 0 (0)))
  | .pchk h d a b => some (wT 197 h (oG d) (oB a) (oG b) (md 0 0 0 0 (0)))
  | .psub h d a b => some (wT 198 h (oG d) (oB a) (oB b) (md 0 0 0 0 (0)))
  | .pmov h d a => some (wT 199 h (oB d) (oB a) 0 (md 0 0 0 0 (0)))
  | .ptag h d a => some (wT 200 h (oG d) (oB a) 0 (md 0 0 0 0 (0)))
  | .ld h et od sc d a => some (wT 256 h (oG d) (oMQ a) 0 (md et.toNat 0 od.toNat sc.toNat (0)))
  | .st h et od sc d a => some (wT 257 h (oMQ d) (oGI a) 0 (md et.toNat 0 od.toNat sc.toNat (0)))
  | .atom h et od sc op d a b => some (wT 258 h (oG d) (oMem a) (oGI b) (md et.toNat 0 od.toNat sc.toNat (op.toNat)))
  | .cas h et od sc d a b => some (wT 259 h (oG d) (oMem a) (oG b) (md et.toNat 0 od.toNat sc.toNat (0)))
  | .fence h od sc => some (wT 260 h 0 0 0 (md 0 0 od.toNat sc.toNat (0)))
  | .fflag h et sc d a => some (wT 261 h (oMem d) (oGI a) 0 (md et.toNat 0 0 sc.toNat (0)))
  | .pld h d a => some (wT 262 h (oB d) (oMem a) 0 (md 0 0 0 0 (0)))
  | .pst h d a => some (wT 263 h (oMem d) (oB a) 0 (md 0 0 0 0 (0)))
  | .pref h wr d => some (wT 264 h (oMem d) 0 0 (md 0 0 0 0 (wr.toNat)))
  | .vadd h et sat d a m => some (wT 320 h (oV d) (oVGI a) (oOM m) (md et.toNat 0 0 0 (sat.toNat)))
  | .vsub h et sat d a m => some (wT 321 h (oV d) (oVGI a) (oOM m) (md et.toNat 0 0 0 (sat.toNat)))
  | .vmul h et d a m => some (wT 322 h (oV d) (oVGI a) (oOM m) (md et.toNat 0 0 0 (0)))
  | .vmulh h et d a m => some (wT 323 h (oV d) (oVGI a) (oOM m) (md et.toNat 0 0 0 (0)))
  | .vmad h et d a b => some (wT 324 h (oV d) (oV a) (oVGI b) (md et.toNat 0 0 0 (0)))
  | .vmin h et d a m => some (wT 325 h (oV d) (oVGI a) (oOM m) (md et.toNat 0 0 0 (0)))
  | .vmax h et d a m => some (wT 326 h (oV d) (oVGI a) (oOM m) (md et.toNat 0 0 0 (0)))
  | .vabs h et sat d a m => some (wT 327 h (oV d) (oV a) (oOM m) (md et.toNat 0 0 0 (sat.toNat)))
  | .vneg h et sat d a m => some (wT 328 h (oV d) (oV a) (oOM m) (md et.toNat 0 0 0 (sat.toNat)))
  | .vand h et d a m => some (wT 329 h (oV d) (oVGI a) (oOM m) (md et.toNat 0 0 0 (0)))
  | .vor h et d a m => some (wT 330 h (oV d) (oVGI a) (oOM m) (md et.toNat 0 0 0 (0)))
  | .vxor h et d a m => some (wT 331 h (oV d) (oVGI a) (oOM m) (md et.toNat 0 0 0 (0)))
  | .vnot h et d a m => some (wT 332 h (oV d) (oV a) (oOM m) (md et.toNat 0 0 0 (0)))
  | .vshl h et d a m => some (wT 333 h (oV d) (oVGI a) (oOM m) (md et.toNat 0 0 0 (0)))
  | .vshr h et d a m => some (wT 334 h (oV d) (oVGI a) (oOM m) (md et.toNat 0 0 0 (0)))
  | .vsra h et d a m => some (wT 335 h (oV d) (oVGI a) (oOM m) (md et.toNat 0 0 0 (0)))
  | .vcmp h et cond d a b => some (wT 336 h (oM d) (oV a) (oVGI b) (md et.toNat 0 0 0 (cond.toNat)))
  | .vsel h et d a m => some (wT 337 h (oV d) (oVGI a) (oM m) (md et.toNat 0 0 0 (0)))
  | .vmov h d a => some (wT 338 h (oV d) (oV a) 0 (md 0 0 0 0 (0)))
  | .vbcast h et d a b => some (wT 339 h (oV d) (oV a) (oGI b) (md et.toNat 0 0 0 (0)))
  | .vextr h et d a b => some (wT 340 h (oG d) (oV a) (oGI b) (md et.toNat 0 0 0 (0)))
  | .vins h et d a b => some (wT 341 h (oV d) (oGI a) (oGI b) (md et.toNat 0 0 0 (0)))
  | .viota h et d a b => some (wT 342 h (oV d) (oGI a) (oGI b) (md et.toNat 0 0 0 (0)))
  | .lbc h et d a b => some (wT 343 h (oM d) (oG a) (oGI b) (md et.toNat 0 0 0 (0)))
  | .vwid h d => some (wT 344 h (oG d) 0 0 (md 0 0 0 0 (0)))
  | .kand h d a b => some (wT 345 h (oM d) (oM a) (oM b) (md 0 0 0 0 (0)))
  | .kor h d a b => some (wT 346 h (oM d) (oM a) (oM b) (md 0 0 0 0 (0)))
  | .knot h d a => some (wT 347 h (oM d) (oM a) 0 (md 0 0 0 0 (0)))
  | .kpopc h et d a => some (wT 348 h (oG d) (oM a) 0 (md et.toNat 0 0 0 (0)))
  | .kfirst h et d a => some (wT 349 h (oG d) (oM a) 0 (md et.toNat 0 0 0 (0)))
  | .vfadd h et rnd d a m => some (wT 384 h (oV d) (oVG a) (oOM m) (md et.toNat rnd.toNat 0 0 (0)))
  | .vfsub h et rnd d a m => some (wT 385 h (oV d) (oVG a) (oOM m) (md et.toNat rnd.toNat 0 0 (0)))
  | .vfmul h et rnd d a m => some (wT 386 h (oV d) (oVG a) (oOM m) (md et.toNat rnd.toNat 0 0 (0)))
  | .vfma h et rnd d a b => some (wT 387 h (oV d) (oV a) (oVG b) (md et.toNat rnd.toNat 0 0 (0)))
  | .vfms h et rnd d a b => some (wT 388 h (oV d) (oV a) (oVG b) (md et.toNat rnd.toNat 0 0 (0)))
  | .vfnma h et rnd d a b => some (wT 389 h (oV d) (oV a) (oVG b) (md et.toNat rnd.toNat 0 0 (0)))
  | .vfmin h et d a m => some (wT 390 h (oV d) (oVG a) (oOM m) (md et.toNat 0 0 0 (0)))
  | .vfmax h et d a m => some (wT 391 h (oV d) (oVG a) (oOM m) (md et.toNat 0 0 0 (0)))
  | .vfabs h et d a m => some (wT 392 h (oV d) (oV a) (oOM m) (md et.toNat 0 0 0 (0)))
  | .vfneg h et d a m => some (wT 393 h (oV d) (oV a) (oOM m) (md et.toNat 0 0 0 (0)))
  | .vfcmp h et cond d a b => some (wT 394 h (oM d) (oV a) (oVG b) (md et.toNat 0 0 0 (cond.toNat)))
  | .vred h et rnd op d a m => some (wT 395 h (oG d) (oV a) (oOM m) (md et.toNat rnd.toNat 0 0 (op.toNat)))
  | .vfclass h et d a m => some (wT 396 h (oV d) (oV a) (oOM m) (md et.toNat 0 0 0 (0)))
  | .vcvt h et src rnd sat part d a m => some (wT 448 h (oV d) (oV a) (oOM m) (md et.toNat rnd.toNat 0 0 (8 * src.toNat + 4 * sat.toNat + part.toNat)))
  | .vpack2 h et rnd sat d a b => some (wT 449 h (oV d) (oV a) (oV b) (md et.toNat rnd.toNat 0 0 (sat.toNat)))
  | .vpack4 h et rnd sat half d a => some (wT 450 h (oV d) (oV a) 0 (md et.toNat rnd.toNat 0 0 (sat.toNat + 2 * half.toNat)))
  | .vunpk h et part d a b => some (wT 451 h (oV d) (oV a) (oOG b) (md et.toNat 0 0 0 (part.toNat)))
  | .vperm h et d a b => some (wT 452 h (oV d) (oV a) (oV b) (md et.toNat 0 0 0 (0)))
  | .vslide h et d a b => some (wT 453 h (oV d) (oV a) (oGI b) (md et.toNat 0 0 0 (0)))
  | .vzip h et hi d a b => some (wT 454 h (oV d) (oV a) (oV b) (md et.toNat 0 0 0 (hi.toNat)))
  | .vuzp h et hi d a b => some (wT 455 h (oV d) (oV a) (oV b) (md et.toNat 0 0 0 (hi.toNat)))
  | .vexp2 h d a m => some (wT 456 h (oV d) (oV a) (oOM m) (md 10 0 0 0 (0)))
  | .vlog2 h d a m => some (wT 457 h (oV d) (oV a) (oOM m) (md 10 0 0 0 (0)))
  | .vrcp h rnd d a m => some (wT 458 h (oV d) (oV a) (oOM m) (md 10 rnd.toNat 0 0 (0)))
  | .vrsq h rnd d a m => some (wT 459 h (oV d) (oV a) (oOM m) (md 10 rnd.toNat 0 0 (0)))
  | .vsin h d a m => some (wT 460 h (oV d) (oV a) (oOM m) (md 10 0 0 0 (0)))
  | .vcos h d a m => some (wT 461 h (oV d) (oV a) (oOM m) (md 10 0 0 0 (0)))
  | .vtanh h d a m => some (wT 462 h (oV d) (oV a) (oOM m) (md 10 0 0 0 (0)))
  | .vld h et d a m => some (wT 512 h (oV d) (oMQ a) (oOM m) (md et.toNat 0 0 0 (0)))
  | .vst h et d a m => some (wT 513 h (oMQ d) (oV a) (oOM m) (md et.toNat 0 0 0 (0)))
  | .vlds h et d a b => some (wT 514 h (oV d) (oMem a) (oG b) (md et.toNat 0 0 0 (0)))
  | .vsts h et d a b => some (wT 515 h (oMem d) (oV a) (oG b) (md et.toNat 0 0 0 (0)))
  | .vgath h et d a b => some (wT 516 h (oV d) (oMem a) (oV b) (md et.toNat 0 0 0 (0)))
  | .vscat h et d a b => some (wT 517 h (oMem d) (oV a) (oV b) (md et.toNat 0 0 0 (0)))
  | .vldb h et d a m => some (wT 518 h (oV d) (oMem a) (oOM m) (md et.toNat 0 0 0 (0)))
  | .send h len noinh d a b => some (wT 576 h (oG d) (oGI a) (oOB b) (md 0 0 0 0 (len.toNat + 64 * noinh.toNat)))
  | .sendm h len noinh d a b => some (wT 577 h (oB d) (oGI a) (oOB b) (md 0 0 0 0 (len.toNat + 64 * noinh.toNat)))
  | .post h d a b => some (wT 578 h (oOB d) (oG a) (oOB b) (md 0 0 0 0 (0)))
  | .join h d a => some (wT 579 h (oB d) (oGI a) 0 (md 0 0 0 0 (0)))
  | .qadv h d => some (wT 580 h (oQ d) 0 0 (md 0 0 0 0 (0)))
  | .qstat h d a => some (wT 581 h (oG d) (oQ a) 0 (md 0 0 0 0 (0)))
  | .qbind h d a => some (wT 582 h (oQ d) (oGI a) 0 (md 0 0 0 0 (0)))
  | .qbindInit h d a b => some (wT 582 h (oQ d) (oGI a) (oG b) (md 0 0 0 0 (1)))
  | .semv h d a b => some (wT 583 h (oGI d) (oGI a) (oOB b) (md 0 0 0 0 (0)))
  | .semq h d a b => some (wT 584 h (oG d) (oGI a) (oOB b) (md 0 0 0 0 (0)))
  | .swset h keep bump d a b => some (wT 585 h (oGI d) (oG a) (oGI b) (md 0 0 0 0 (keep.toNat + 2 * bump.toNat)))
  | .swread h hi d a => some (wT 586 h (oG d) (oGI a) 0 (md 0 0 0 0 (hi.toNat)))
  | .sclaim h d a => some (wT 640 h (oG d) (oGI a) 0 (md 0 0 0 0 (0)))
  | .srel h d a => some (wT 641 h (oGI d) (oGI a) 0 (md 0 0 0 0 (0)))
  | .sload h od sc d a b => some (wT 642 h (oGI d) (oMem a) (oG b) (md 0 0 od.toNat sc.toNat (0)))
  | .ssave h od sc d a b => some (wT 643 h (oMem d) (oGI a) (oG b) (md 0 0 od.toNat sc.toNat (0)))
  | .mwld h et nib d => some (wT 644 h (oGI d) 0 0 (md et.toNat 0 0 0 (nib.toNat)))
  | .mgang h et nib d a => some (wT 645 h (oG d) (oGI a) 0 (md et.toNat 0 0 0 (nib.toNat)))
  | .mzero h d => some (wT 646 h (oG d) 0 0 (md 0 0 0 0 (0)))
  | .maccld h et d a => some (wT 647 h (oG d) (oMem a) 0 (md et.toNat 0 0 0 (0)))
  | .mdrain h et rnd od sc d a b => some (wT 648 h (oG d) (oB a) (oG b) (md et.toNat rnd.toNat od.toNat sc.toNat (0)))
  | .mdrainRq h et rnd od sc d a b => some (wT 648 h (oG d) (oB a) (oG b) (md et.toNat rnd.toNat od.toNat sc.toNat (1)))
  | .mstat h d a => some (wT 649 h (oG d) (oGI a) 0 (md 0 0 0 0 (0)))
  | .mstatClr h d a => some (wT 649 h (oG d) (oGI a) 0 (md 0 0 0 0 (1)))
  | .mtwid h d a => some (wT 704 h (oG d) (oG a) 0 (md 0 0 0 0 (0)))
  | .mdrev h d a => some (wT 705 h (oGI d) (oGI a) 0 (md 0 0 0 0 (0)))
  | .mbfly h scale d a b => some (wT 706 h (oGI d) (oGI a) (oG b) (md 0 0 0 0 (scale.toNat)))
  | .mbexp h d a => some (wT 707 h (oG d) (oGI a) 0 (md 0 0 0 0 (0)))
  | .mbexpSet h d a b => some (wT 707 h (oG d) (oGI a) (oGI b) (md 0 0 0 0 (1)))
  | .mcmul h scale conj d a b => some (wT 708 h (oGI d) (oGI a) (oG b) (md 0 0 0 0 (scale.toNat + 8 * conj.toNat)))
  | .nwalk h d a b => some (wT 768 h (oG d) (oB a) (oOB b) (md 0 0 0 0 (0)))
  | .nopen h d a => some (wT 769 h (oG d) (oB a) 0 (md 0 0 0 0 (0)))
  | .nclose h d a => some (wT 770 h (oG d) (oB a) 0 (md 0 0 0 0 (0)))
  | .nread h d a b => some (wT 771 h (oG d) (oB a) (oB b) (md 0 0 0 0 (0)))
  | .nwrite h d a b => some (wT 772 h (oG d) (oB a) (oB b) (md 0 0 0 0 (0)))
  | .nbind h d a b => some (wT 773 h (oG d) (oB a) (oB b) (md 0 0 0 0 (0)))
  | .nunbind h d a b => some (wT 774 h (oG d) (oB a) (oOB b) (md 0 0 0 0 (0)))
  | .nstat h d a => some (wT 775 h (oG d) (oB a) 0 (md 0 0 0 0 (0)))
  | .nrevoke h d a => some (wT 776 h (oG d) (oB a) 0 (md 0 0 0 0 (0)))
  | .ncreate h d a b => some (wT 777 h (oG d) (oB a) (oG b) (md 0 0 0 0 (0)))
  | .nremove h d a => some (wT 778 h (oG d) (oB a) 0 (md 0 0 0 0 (0)))
  | .rslot h d a b => some (wT 832 h (oG d) (oB a) (oGI b) (md 0 0 0 0 (0)))
  | .rfree h d a => some (wT 833 h (oB d) (oGI a) 0 (md 0 0 0 0 (0)))
  | .rpush h od sc d a b => some (wT 834 h (oB d) (oV a) (oG b) (md 0 0 od.toNat sc.toNat (0)))
  | .rstat h d a => some (wT 835 h (oG d) (oB a) 0 (md 0 0 0 0 (0)))
  | .mladd h mass rnd d a b => some (wT 836 h (oMem d) (oV a) (oGI b) (md (if mass then 6 else 10) rnd.toNat 0 0 (mass.toNat)))
  | .mlread h et rnd d a b => some (wT 837 h (oV d) (oMem a) (oOGI b) (md et.toNat rnd.toNat 0 0 (0)))
  | .mspread h d a b => some (wT 838 h (oG d) (oB a) (oGI b) (md 0 0 0 0 (0)))
  | .mlfence h => some (wT 839 h 0 0 0 (md 0 0 0 0 (0)))
  | .mlcfgCreate h d a b => some (wT 840 h (oG d) (oB a) (oGI b) (md 0 0 0 0 (0)))
  | .mlcfgCadence h d a b => some (wT 840 h (oG d) (oB a) (oGI b) (md 0 0 0 0 (1)))
  | .mlcfgReset h d a b => some (wT 840 h (oG d) (oB a) (oGI b) (md 0 0 0 0 (2)))
  | .mlcfgDestroy h d a b => some (wT 840 h (oG d) (oB a) (oGI b) (md 0 0 0 0 (3)))
  | .recordArrival => none
  | .headCheck => none
  | .fire => none
  | .watchdog => none
  | .parityError => none
  | .specialFunctionResult => none
  | .launchServe => none
  | .launchForward => none
  | .patchComplete => none
  | .doneWord => none
  | .doneqRetry => none
  | .doneDeadline => none
  | .dupdoneWord => none
  | .remoteAccess => none
  | .queueAppend => none
  | .joinPerform => none
  | .remoteSemv => none
  | .gangComplete => none
  | .gangStale => none
  | .sheetMoveBeat => none
  | .drainBeat => none
  | .butterflyComplete => none
  | .copyStart => none
  | .copyRefused => none
  | .copyTtabWrite => none
  | .copyWindowWrite => none
  | .copyFaultResume => none
  | .copyFaultAbort => none
  | .copyHeadCheck => none
  | .copyBeat => none
  | .nameMove => none
  | .nameResult => none
  | .pageMap => none
  | .pageUnmap => none
  | .pageCompress => none
  | .pageExpand => none
  | .pageDemote => none
  | .pageMap2 => none
  | .pageUnmap2 => none
  | .pageMove => none
  | .pageQuery => none
  | .pageAbort => none
  | .pageBadop => none
  | .pageCommandDone => none
  | .functionRecord => none
  | .l2Split => none
  | .launchQueueConfig => none
  | .contextCreate => none
  | .contextDestroy => none
  | .contextHalves => none
  | .makeq => none
  | .makepeer => none
  | .slotBind => none
  | .slotUnbind => none
  | .cxlWindowMap => none
  | .containerLoad => none
  | .loadComplete => none
  | .controlWrite => none
  | .worldctlWrite => none
  | .sliceYield => none
  | .sliceEnd => none
  | .sliceIdle => none
  | .saveRoutines => none
  | .contextSave => none
  | .restoreRoutines => none
  | .tickReady => none
  | .tickDeadline => none
  | .migratePrecopy => none
  | .migrateCancel => none
  | .migrateStop => none
  | .migrateStopped => none
  | .migrateStopTimeout => none
  | .migrateAbort => none
  | .migrateResuming => none
  | .migrateCommit => none
  | .migrateWindowAdvance => none
  | .migrateWindowRead => none
  | .migrateWindowWrite => none
  | .groupConfig => none
  | .chunkArrival => none
  | .slotEmit => none
  | .slotTimeout => none
  | .slotMarkerExpiry => none
  | .resultDelivery => none
  | .linkFlit => none
  | .linkResend => none
  | .mullExchangeSend => none
  | .mullExchangeApply => none
  | .mullAck => none
  | .traceSample => none
  | .traceStopRequest => none
  | .stopComplete => none
  | .traceResume => none
  | .traceReplay => none
  | .tokenVerify => none
  | .verifyDone => none
  | .delayClear => none
  | .freeze => none
  | .freezeread => none
  | .tapBypass => none
  | .tapIdcode => none
  | .tapSamplePreload => none
  | .tapExtest => none
  | .forecastUpdate => none
  | .reqtailWrite => none
  | .hostRequestTake => none
  | .rspheadWrite => none
  | .cxlMemRead => none
  | .cxlMemWrite => none
  | .mctpMessage => none
  | .moduleReset => none
  | .bootStage => none
  | .deviceError => none
  | .functionLevelReset => none
  | .illegalOpcode w => some w.toNat
  | .correctableError => none
  | .lifeCycleChange => none

end Sys2Proof
end

