-- ==== Sys2Proof/Machine/State.lean ====
section
/-! DEFINITION. The whole module's state, as plain data, and the state after reset.
A table is a list of (key, value) pairs with rising keys that lists no default value, so that equal
tables are equal data. Keys: a core is its physical coordinate word (die + 32 × tile + 1024 × role,
the layout of R43); a thread is 8 × core + thread; a pad is 32 × die + tile, or 1024 + 4 × die + k for a
service pad; a quarto is q + 4 × die (R320); a context is its CTXID, or 65,536 + n for the host context
of function n (R259); a channel is 16 × core + k; an access id and a party are counters. -/

namespace Sys2Proof.Machine

/-- A sparse table: rising keys, no default value listed. -/
abbrev Tab (α : Type) := List (Nat × α)

/-- What a party has accessed or received (R47, R50): pairs of a line and an access of that line. -/
abbrev Know := List (Nat × Nat)

/-- Why the machine stops with a fault. -/
inductive Fault where
  /-- Raised by every instruction meaning when the current thread runs no activation. `step` never
  reaches it: it issues only for a running thread. Safe: the hardware issues nothing there. -/
  | noActivation
  deriving DecidableEq, Repr

/-- Why the model gives an instruction no meaning. -/
inductive Refusal where
  /-- Raised by an arm of `exec` whose instruction has no meaning yet. Safe: the hardware goes on. -/
  | notModelled (mnemonic : String)
  deriving DecidableEq, Repr

/-! ### Names and handles (R241 to R245) -/

/-- A node of the tree. The boot-built nodes are those of R242; `priv c` is the private root of
context c (R325); `made i` is a node that NCREATE, MAKEQ, MAKEPEER, the loader, MLCFG or a context
creation made. -/
inductive Node where
  | root | dies | die (d : Nat) | tiles (d : Nat) | tile (d t : Nat) | pad (d t : Nat)
  | copy (d t : Nat) | sem (d t : Nat) | cores (d t : Nat) | core (d t c : Nat)
  | chans (d t c : Nat) | chan (d t c k : Nat) | delay (d t c : Nat)
  | services (d : Nat) | service (d k : Nat) | spad (d k : Nat)
  | hbm (d : Nat) | lpddr (d : Nat) | l2store (d : Nat) | trace (d : Nat)
  | fabric | groups | reduces | group (g : Nat) | reduce (g : Nat) | mulls
  | vfs | vf (n : Nat) | vfctl (n : Nat) | vfmigrate (n : Nat) | launches (n : Nat)
  | launch (n k : Nat) | ctxs (n : Nat) | ctxslot (n k : Nat)
  | host | peers | peer (m : Nat)
  | priv (c : Nat) | made (i : Nat)
  deriving DecidableEq, Repr, Inhabited

/-- First-stage state of one page (R262). `own`: at its object's own frames, as allocated. -/
inductive Page where
  | own | absent | frame (f : Nat) | zone
  deriving DecidableEq, Repr, Inhabited

/-- A made node (R241, R257, R326, R352). KIND is R241's; 8 where there is no such node. -/
structure Made where
  kind : Nat := 8
  tier : Nat := 0
  grant : BitVec 8 := 0
  home : Nat := 0
  /-- Bytes, or the slot size of a queue's ring. -/
  size : Nat := 0
  relaxed : Bool := false
  /-- Function whose memory holds it. -/
  fn : Nat := 0
  /-- First of the object's own frames, guest-physical, 64 KiB units (R261). -/
  base : Nat := 0
  /-- Pages that are not `own`. -/
  pages : Tab Page := []
  /-- A queue's ring: pad and descriptor offset (R326). -/
  qpad : Nat := 0
  qdesc : Nat := 0
  /-- The context whose slot object made the queue, in whose pad its ring lies (R326); 0 for none. -/
  qctx : Nat := 0
  /-- Peer module number (R326). -/
  peer : Nat := 0
  /-- A mull region's number in `State.mull`. -/
  region : Nat := 0
  /-- Code object: current generation, its pages' digests, bytes of older generations (R103, R353). -/
  codeGen : Nat := 0
  digests : List (BitVec 256) := []
  oldCode : Tab (List Byte) := []
  /-- The digests of the generations that a patch has replaced, by the last generation they hold for (R353, R354). -/
  oldDigests : Tab (List (BitVec 256)) := []
  /-- Pages of the object poisoned by CODE_INTEGRITY, and pages already hashed, as
  (die, generation, page) triples (R353). -/
  poisoned : List Nat := []
  hashed : List (Nat × Nat × Nat) := []
  /-- A name still leads to it; without one, it goes with its last handle (R253). -/
  named : Bool := true
  deriving DecidableEq, Repr, Inhabited

/-- One entry of a directory made by NCREATE, the loader, MLCFG or a slot object (R257, R326). -/
structure NameEnt where
  dir : Node
  name : List Byte
  node : Node
  /-- The one context that sees it, for an entry made through a slot object (R326). -/
  only : Option Nat := none
  deriving DecidableEq, Repr, Inhabited

/-- A handle table entry (R243). -/
structure HEntry where
  /-- 0 free, 1 walked, 2 open, 3 retired. -/
  state : Nat := 0
  gen : Nat := 0
  node : Node := .root
  rights : BitVec 8 := 0
  /-- The node's grant as the walk found it (R251). -/
  grant : BitVec 8 := 0
  size : Nat := 0
  /-- The directory and name last walked through (R253). -/
  via : Option (Node × List Byte) := none
  deriving DecidableEq, Repr, Inhabited

/-- A binding (R245, R255, R326). -/
structure Bind where
  point : Node
  src : Node
  shadow : Bool
  rank : Nat
  /-- Made through the slot object, and then the GRANT that narrows it. -/
  bySup : Option (BitVec 8)
  /-- The source node's grant as its handle showed it. -/
  grant : BitVec 8
  deriving DecidableEq, Repr, Inhabited

/-- A bound pointer (R107): its validity tag and 128 bits. `pay` is the hidden mark of b1's payload
pointer (R35): it names the activation's own payload, which no handle names. -/
structure Ptr where
  tag : Bool := false
  raw : Quad := 0
  pay : Bool := false
  deriving DecidableEq, Repr, Inhabited

/-! ### Activation records and threads -/

/-- A message (R26) or a continuation record (R27) on its way or in a channel. -/
structure Rec where
  isMsg : Bool := false
  /-- A message's header. -/
  hdr : BitVec 128 := 0
  payload : List Byte := []
  frame : Ptr := {}
  arg : Word := 0
  genarg : Bool := false
  hidx : Nat := 0
  /-- Channel: a continuation's own, or that of a fault or dispatch fault record (R28). -/
  chan : Nat := 0
  /-- The channel is `chan` whatever the handler entry names. -/
  chanFixed : Bool := false
  ctx : Nat := 0
  /-- Physical core it goes to, and its logical word. -/
  core : Nat := 0
  lcore : Nat := 0
  /-- Delay accounting (R335): key, send time, arrival time. -/
  key : Nat := 0
  sendTs : Nat := 0
  arrTs : Nat := 0
  /-- What the edge carries (R47). -/
  know : Know := []
  /-- The launch it belongs to (R126). -/
  launch : Option Nat := none
  /-- A copy completion's transfer id (R236). -/
  xferid : BitVec 32 := 0
  /-- Where it was sent from, for the order of R274 and R276: die d, 32 + s for switch die s, or for a group's message
  64 + 4096 d and the group's number; and its place in the order of sending. -/
  sdie : Option Nat := none
  flit : Nat := 0
  /-- The party of the activation that sent it, 0 for none, for the order of R167 and R279. -/
  sender : Nat := 0
  deriving DecidableEq, Repr, Inhabited

/-- An input channel (R28, R29). -/
structure Chan where
  mode : BitVec 2 := 0
  backH : BitVec 20 := 0
  backDepth : BitVec 32 := 0
  /-- The context whose handle BACKH is, and the place in the backing object that the next record takes. -/
  backCtx : Nat := 0
  backAt : Nat := 0
  onchip : List Rec := []
  spilled : List Rec := []
  /-- Held in the die's ingress while FULL. -/
  ingress : List Rec := []
  /-- The queues of the channel for whose present episode CHAN_FULL has been posted, by context (R29). -/
  episodes : List Nat := []
  /-- The head that `since`, `readAt` and `boost` speak of. -/
  head : Option Rec := none
  /-- Cycle from which that head has been continuously eligible (R32). -/
  since : Option Nat := none
  /-- Cycle of the last reading of its join cell's waiter priority, and what it read (R317). -/
  readAt : Nat := 0
  boost : Nat := 0
  deriving DecidableEq, Repr, Inhabited

/-- A queue register (R106, R174). -/
structure QReg where
  bound : Bool := false
  prod : Bool := false
  desc : Nat := 0
  start : Nat := 0
  pos : Nat := 0
  left : Nat := 0
  deriving DecidableEq, Repr, Inhabited

/-- What a hardware thread is doing (R37, R111, R162). -/
inductive TStat where
  | free | running
  /-- Parked with FSEQ; `hyp`: on PAGE_FAULT_S2 (R122). -/
  | parked (fseq : Nat) (hyp : Bool)
  /-- Waiting for the tile's special-function unit (R162). -/
  | sfu
  /-- Waiting for a remote access or a port to answer (R139). -/
  | waiting
  deriving DecidableEq, Repr, Inhabited

/-- A hardware thread and the activation on it (R35, R106). -/
structure Thread where
  stat : TStat := .free
  ctx : Nat := 0
  /-- coreid.LCORE: the core's logical word. -/
  lcore : Nat := 0
  hidx : Nat := 0
  /-- Offset of the executing instruction in the code object. -/
  pc : Nat := 0
  /-- The code object, the generation pinned at firing (R103) and CODEH. -/
  code : Node := .root
  codeGen : Nat := 0
  codeH : BitVec 20 := 0
  /-- Generation of CODEH's entry at firing (R108). -/
  codeHGen : Nat := 0
  /-- ENTRY of the handler, for trace records (R338). -/
  entry : Nat := 0
  g : Tab Word := []
  b : Tab Ptr := []
  v : Tab VWord := []
  m : Tab MWord := []
  q : Tab QReg := []
  actinfo : Word := 0
  actstart : Word := 0
  fpflags : BitVec 5 := 0
  rmode : BitVec 3 := 0
  tcause : Word := 0
  taddr : Word := 0
  tepc : Word := 0
  tinfo : Word := 0
  xferid : Word := 0
  /-- coreid.INVEC. -/
  invec : Bool := false
  /-- It runs a save or restore routine (R328). -/
  routine : Bool := false
  /-- Cycle at which the watchdog expires (R38). -/
  wdEnd : Nat := 0
  /-- The payload that b1 reads (R35). -/
  payload : List Byte := []
  chan : Nat := 0
  isMsg : Bool := false
  /-- Effective priority at firing (R317) and the inherited boost k of R168. -/
  eff : Nat := 0
  boost : Nat := 0
  launch : Option Nat := none
  party : Nat := 0
  /-- Delay accounting (R335). -/
  key : Nat := 0
  sendTs : Nat := 0
  arrTs : Nat := 0
  deriving DecidableEq, Repr, Inhabited

/-- One entry of a delay table (R336). -/
structure Delay where
  valid : Bool := false
  key : Nat := 0
  count : Nat := 0
  maxTotal : Nat := 0
  trans : Nat := 0
  wait : Nat := 0
  run : Nat := 0
  deriving DecidableEq, Repr, Inhabited

/-- A context's delay table at one core (R336). -/
structure DelayTab where
  ents : List Delay := []
  over_ : Delay := {}
  extradone : Nat := 0
  deriving DecidableEq, Repr, Inhabited

/-- What a core keeps beside its threads and channels. -/
structure Core where
  /-- HALT's idle (R120). -/
  idle : Bool := false
  /-- Channel that fired last (R32). -/
  last : Nat := 15
  /-- Thread that issued last, and the cycle in which it did (R37). -/
  lastThread : Nat := 7
  issuedAt : Option Nat := none
  /-- Next fault sequence number (R111). -/
  fseq : Nat := 1
  /-- Dispatch fault sequence number of a service core (R34). -/
  dseq : Nat := 1
  /-- SAVEIX and RESTIX pairs of handlers fired during the running slice (R328). -/
  fired : List (Nat × Nat) := []
  /-- Restore routines still to run before any other record fires (R328). -/
  restore : List Nat := []
  /-- Save routines still to run (R328). -/
  save : List Nat := []
  deriving DecidableEq, Repr, Inhabited

/-- Where a byte stands, and the guest-physical 64 KiB unit it belongs to, for dirty tracking (R331). -/
structure Place where
  addr : Nat := 0
  unit : Option (Nat × Nat) := none
  deriving DecidableEq, Repr, Inhabited

/-! ### Parties and races (R45 to R56) -/

/-- A party that still runs: what it knows, what it accessed or received since its last release. -/
structure Party where
  know : Know := []
  sinceRel : List Nat := []
  /-- Lines that it has written (R55). -/
  stored : List Nat := []
  deriving DecidableEq, Repr, Inhabited

/-- The last access of one kind by one party to a line. -/
structure LineAcc where
  party : Nat := 0
  /-- 0 plain read, 1 plain write, 2 atomic read, 3 atomic write. -/
  kind : Nat := 0
  id : Nat := 0
  /-- tinfo's description of the party (R51). -/
  who : BitVec 64 := 0
  deriving DecidableEq, Repr, Inhabited

/-- Where a party lies (R48): a core whose tile, cluster and die it shares from `width` outward: 0 tile,
1 cluster, 2 die, 3 the module, 4 only sys. -/
structure Loc where
  core : Nat := 0
  width : Nat := 4
  deriving DecidableEq, Repr, Inhabited

/-- A release that an acquire of the variable may synchronise with (R46). -/
structure RelHead where
  /-- Where the releaser lies. -/
  loc : Loc := {}
  scope : Nat := 0
  carry : Know := []
  deriving DecidableEq, Repr, Inhabited

/-- A synchronisation variable (R46, R49). -/
structure SyncVar where
  /-- Bytes of the word: 4 or 8. -/
  size : Nat := 0
  /-- The releases that an acquire of the current value synchronises with. -/
  heads : List RelHead := []
  /-- Every release of the word so far: those that a read-modify-write now would follow. -/
  past : List RelHead := []
  /-- The lines that each party has recorded under it (R49). -/
  recorded : Tab (List Nat) := []
  deriving DecidableEq, Repr, Inhabited

/-- A semaphore's or sync word's edges: everything its SEMVs or advances carried (R177, R179). -/
abbrev Carry := Tab Know

/-! ### Tiles -/

/-- A special-function request (R161, R162). -/
structure SfuReq where
  thread : Nat := 0
  /-- 0 VEXP2, 1 VLOG2, 2 VRCP, 3 VRSQ, 4 VSIN, 5 VCOS, 6 VTANH. -/
  op : Nat := 0
  rnd : BitVec 3 := 0
  dst : BitVec 5 := 0
  src : VWord := 0
  mask : MWord := 0
  deriving DecidableEq, Repr, Inhabited

/-- A copy command (R233, R234). -/
structure CopyCmd where
  tmpl : BitVec 512 := 0
  srcTag : Bool := false
  dstTag : Bool := false
  /-- The issuing core, and its coordinate word. -/
  core : Nat := 0
  lword : Nat := 0
  ctx : Nat := 0
  launch : Option Nat := none
  /-- PRIO and BOOSTED of its completion, formed at the start (R168). -/
  prio : Nat := 0
  boosted : Bool := false
  /-- R235's checks have been made. -/
  checked : Bool := false
  /-- Element from which the next beat starts, in traversal order. -/
  next : Nat := 0
  bytes : Nat := 0
  /-- FSEQ and cause of the fault it waits on (R238). -/
  fault : Option (Nat × Nat) := none
  party : Nat := 0
  deriving DecidableEq, Repr, Inhabited

/-- A tile's template table and windows of one context (R231, R237). -/
structure CopyRegs where
  ttab : Word := 0
  win : Tab Word := []
  deriving DecidableEq, Repr, Inhabited

/-! ### Matrix engine (R182 to R229) -/

/-- One accumulator element (R190). -/
structure Acc where
  val : Quad := 0
  inex : Bool := false
  ovf : Bool := false
  spec : BitVec 2 := 0
  deriving DecidableEq, Repr, Inhabited

/-- An accumulator half's own state (R190). -/
structure Half where
  mode : BitVec 3 := 0
  anchor : Int := 0
  sat : Bool := false
  anyInex : Bool := false
  anyOvf : Bool := false
  anySpec : Bool := false
  deriving DecidableEq, Repr, Inhabited

/-- Latched weights (R183, R206): bytes of the sheet and its scale plane as they stood. -/
structure Weights where
  ctx : Nat := 0
  et : BitVec 4 := 0
  nib : Bool := false
  data : List Host.Cell := []
  deriving DecidableEq, Repr, Inhabited

/-- An arrival at the gang barrier (R186, R208). -/
structure Arrival where
  core : Nat := 0
  lcore : Nat := 0
  ctl : Word := 0
  stream : Word := 0
  et : BitVec 4 := 0
  nib : Bool := false
  prio : Nat := 0
  /-- The context's running cycles at the arrival (R188). -/
  at_ : Nat := 0
  hidx : Nat := 0
  actstart : Word := 0
  thread : Nat := 0
  pc : Nat := 0
  launch : Option Nat := none
  deriving DecidableEq, Repr, Inhabited

/-- A butterfly plan (R221). -/
structure Plan where
  n : Nat := 0
  b : Nat := 0
  t : Nat := 0
  inv : Bool := false
  radices : List Nat := []
  deriving DecidableEq, Repr, Inhabited

/-- A requantising table, as read at issue (R214). -/
structure Rq where
  rscol : Nat := 0
  hi : Int := 0
  lo : Int := 0
  zout : Int := 0
  /-- ZB, BIAS, MUL and SHIFT of each column. -/
  cols : List (Int × Int × Int × Nat) := []
  deriving DecidableEq, Repr, Inhabited

/-- A command accepted at a quarto's port and not yet complete (R195). -/
inductive PortCmd where
  | sload (sheet first rows : Nat) (scale : Bool) (p : Ptr) (off : Nat)
  | ssave (sheet first rows : Nat) (scale : Bool) (p : Ptr) (off : Nat)
  | drain (first rows : Nat) (et : BitVec 4) (rnd : Nat) (rq : Option Rq) (p : Ptr) (off : Nat) (dst : Nat)
  | gang (qs : List Nat) (arrs : List Arrival) (ctl : Word)
  | mdrev (dst src : Nat) (plan : Plan)
  | mbfly (dst src : Nat) (plan : Plan) (stage half scale : Nat)
  | mcmul (dst a b t half scale : Nat) (conj : Bool)
  deriving DecidableEq, Repr, Inhabited

/-- A queued port command with its issuer and progress. -/
structure PortOp where
  /-- Its number in acceptance order. -/
  seq : Nat := 0
  cmd : PortCmd := .mdrev 0 0 {}
  /-- The quarto whose port accepted it. -/
  quarto : Nat := 0
  core : Nat := 0
  ctx : Nat := 0
  hidx : Nat := 0
  tag : Nat := 0
  /-- The completion's header, formed at issue (R194, R205). -/
  hdr : BitVec 128 := 0
  launch : Option Nat := none
  /-- Its release publishes to the completion activation (R205, R212). -/
  rel : Bool := false
  party : Nat := 0
  /-- Beats performed. -/
  beat : Nat := 0
  /-- A drain's FSPEC, FOVF, FINEX and FSAT so far (R194). -/
  flags : BitVec 4 := 0
  deriving DecidableEq, Repr, Inhabited

/-- A quarto. Sheet bytes and accumulator elements stand in `State.sheetMem` and `State.acc`. -/
structure Quarto where
  /-- Holder of each sheet (R184). -/
  holder : Tab Nat := []
  halves : Tab Half := []
  weights : Weights := {}
  /-- Barrier state and plan of each context (R186, R221). -/
  barrier : Tab (List Arrival) := []
  plans : Tab Plan := []
  deriving DecidableEq, Repr, Inhabited

/-! ### Launches and the done tree (R39 to R42, R312 to R314) -/

/-- A launch queue's slot: the record's bytes, whether its launch has started, what its write carries. -/
structure LSlot where
  bytes : List Byte := []
  started : Bool := false
  /-- The launch it started. -/
  launch : Option Nat := none
  arrTs : Nat := 0
  know : Know := []
  deriving DecidableEq, Repr, Inhabited

/-- A launch queue (R312). -/
structure LQueue where
  cfg : BitVec 256 := 0
  slots : List LSlot := []
  /-- The launch that the queue last started, until its DONEQ is written (R314). -/
  busy : Option Nat := none
  /-- What the previous launch's done edge carries (R314). -/
  carry : Know := []
  deriving DecidableEq, Repr, Inhabited

/-- A launch under way. -/
structure Launch where
  fn : Nat := 0
  queue : Nat := 0
  ctx : Nat := 0
  lid : Word := 0
  doneq : BitVec 20 := 0
  /-- Generations of the handles that `doneq`, `sig` and `patch` name, as the record was taken (R16). -/
  doneqGen : Nat := 0
  sigGen : Nat := 0
  patchGen : Nat := 0
  /-- Physical cores that participate, with their logical words (R41). -/
  cores : List (Nat × Nat) := []
  root : Nat := 0
  /-- DLIMIT in µs, and the cycle of the done deadline once an activation has been posted. -/
  dlimit : Nat := 0
  deadline : Option Nat := none
  /-- A patch (R354): CONTH. -/
  patch : Option (BitVec 20) := none
  /-- Cores that have contributed. -/
  contributed : List Nat := []
  /-- At each core: combined word and how many of the words it awaits have come, and what they carry. -/
  words : Tab (Word × Nat) := []
  knows : Tab Know := []
  /-- A core's history bits [15:12] (R42). -/
  history : Tab (BitVec 4) := []
  /-- What the words that have reached the root carry (R47). -/
  know : Know := []
  /-- The 16 bytes the root keeps to append (R41). -/
  pending : Option (List Byte) := none
  written : Bool := false
  /-- Signal event word, until it has been raised (R314). -/
  sig : Option (BitVec 20 × Nat) := none
  pins : List (Nat × Nat) := []
  deriving DecidableEq, Repr, Inhabited

/-- A done-tree word on its way: launch, sending core, receiving core. -/
structure DoneMsg where
  launch : Nat := 0
  src : Nat := 0
  dst : Nat := 0
  word : Word := 0
  know : Know := []
  /-- A flag-only word (R42). -/
  dup : Bool := false
  /-- Its place in the order of sending (R274). -/
  flit : Nat := 0
  deriving DecidableEq, Repr, Inhabited

/-! ### Contexts and functions -/

/-- What R328 step 5 saves of one tile: a pad's first `size` bytes with their tags and arming marks, its
semaphores and copy commands, and the ordering state of all of these. Keys are those of the live tables. -/
structure Saved where
  size : Nat := 0
  cells : List Host.Cell := []
  tags : Tab Bool := []
  marks : Tab Bool := []
  sems : Tab Nat := []
  copies : Tab (List CopyCmd) := []
  lines : Tab (List LineAcc) := []
  vars : Tab SyncVar := []
  semCarry : Carry := []
  swCarry : Carry := []
  joinCarry : Carry := []
  deriving DecidableEq, Repr, Inhabited

/-- A context (R325). -/
structure Ctx where
  live : Bool := false
  fn : Nat := 0
  slot : Nat := 0
  priv : Nat := 0
  govern : Nat := 0
  htent : Nat := 0
  hlog : Nat := 0
  /-- HALVES (R325). -/
  halves : BitVec 256 := 0
  handles : Tab HEntry := []
  binds : List Bind := []
  /-- FHIDX and DHIDX are 0xFFFF at reset: no handler (R109). -/
  tvec : Word := 0xFFFF00000000
  tscratch : Word := 0
  hbase : Word := 0
  htsize : Word := 0
  coretab : Word := 0
  routetab : Word := 0
  dvec : Word := 0xFFFF00000000
  /-- The frame handle on each pad (R35). -/
  frames : Tab Nat := []
  /-- Stopped by CODE_INTEGRITY (R353). -/
  stopped : Bool := false
  /-- TTAB and windows of each tile (R231). -/
  copyRegs : Tab CopyRegs := []
  /-- State saved at a slice's end, by tile (R328). -/
  saved : Tab Saved := []
  /-- Restore routines to run on each core when it next holds the tile cores (R328). -/
  restores : Tab (List Nat) := []
  /-- Cycles it has held its quartos, up to the start of the running slice (R188). -/
  ran : Nat := 0
  deriving DecidableEq, Repr, Inhabited

/-- The function record of R321. -/
structure FnRec where
  quartos : BitVec 128 := 0
  slice : Nat := 0
  deadline : Nat := 0
  slotq : Nat := 0
  nameq : Nat := 0
  sheetq : Nat := 0
  copych : BitVec 8 := 0
  maxmoves : Nat := 0
  window : Nat := 0
  zone : Nat := 0
  htlog : Nat := 0
  nctx : Nat := 0
  fuse : Nat := 0
  world : Bool := false
  deriving DecidableEq, Repr, Inhabited

/-- Phase of a partition's slice (R327 to R329). -/
inductive SlicePh where
  | run
  /-- The slice ends: 0 by time, 1 by YIELD, 2 idle, 3 for a migration. Dies on which steps 1 to 3 are done and
  save routines run, dies on which step 5 is done, and dies that have reported READY. -/
  | ending (why : Nat) (saving saved ready : List Nat)
  deriving DecidableEq, Repr, Inhabited

/-- Migration state of a function (R330 to R332). -/
structure Migr where
  /-- 0 RUNNING, 1 PRECOPY, 2 STOPPING, 3 STOPPED, 4 RESUMING, 7 ERROR. -/
  st : Nat := 0
  err : Nat := 0
  /-- 64 KiB units whose dirty bits are clear while tracking; all others are dirty. -/
  clean : List Nat := []
  pass : Nat := 0
  wpos : Nat := 0
  /-- Bytes from WPOS on: formed, or written by the host. -/
  image : List Byte := []
  /-- Every byte of the image so far: formed, or passed by WPOS. -/
  seen : List Byte := []
  /-- PRECOPY: where the sweep goes on. STOPPED: how many records after the last page have been formed. -/
  stage : Nat := 0
  /-- Cycle at which STOPPING times out. -/
  stopAt : Nat := 0
  /-- RESUMING: how many bytes of `seen` have been consumed, and the records, as (TYPE, KEY, body). -/
  eaten : Nat := 0
  recs : List (Nat × Nat × List Byte) := []
  deriving DecidableEq, Repr, Inhabited

/-- A function, its partition, its hypervisor registers and its host port (R320 to R334, R346). -/
structure Fn where
  recd : FnRec := {}
  misscnt : Nat := 0
  hvvec : Word := 0xFFFF00000000
  s2base : Word := 0
  l2limit : Word := 0
  padlimit : Word := 32
  hdvec : Word := 0xFFFF00000000
  /-- hbmcap, l2cap, linkcap, portcap. -/
  hbmcap : Word := 0
  l2cap : Word := 0
  linkcap : Word := 0
  portcap : Word := 0
  l2store : Nat := 0
  lqs : Tab LQueue := []
  everLaunched : Bool := false
  /-- Second stage: 1 for a granule that UNMAP2 unmapped, g + 2 for one that MAP2 or MOVE mapped to
  machine granule g; unlisted ones map as the partition's layout gives them. -/
  s2 : Tab Nat := []
  /-- Cycles of the last moves of each granule (R270). -/
  moves : Tab (List Nat) := []
  /-- Runs of guest frames taken by objects: first frame and count. -/
  runs : List (Nat × Nat) := []
  hostFseq : Nat := 0
  /-- Running context on the tile cores; slice start and tick number (R327, R329). -/
  cur : Nat := 0
  sliceStart : Nat := 0
  phase : SlicePh := .run
  tickStart : Nat := 0
  tick : Nat := 0
  migr : Migr := {}
  /-- The CXL.mem window map (R345). -/
  cxlmap : Tab Quad := []
  reqtail : BitVec 32 := 0
  reqhead : BitVec 32 := 0
  rsptail : BitVec 32 := 0
  rsphead : BitVec 32 := 0
  req : Tab (List Byte) := []
  rsp : Tab (List Byte) := []
  /-- What the last CXL.mem read returned: 64 bytes, or none for poison (R345). -/
  cxlRead : Option (List Byte) := none
  /-- ERRSTAT (R355). -/
  errstat : Word := 0
  /-- MSI-X vectors raised, newest first (R349). -/
  msi : List Nat := []
  /-- The host context's handle table (R259). -/
  hostHandles : Tab HEntry := []
  hostBinds : List Bind := []
  /-- The port's party (R348). -/
  hostParty : Nat := 0
  /-- Edges of results (R352): under the RSPTAIL behind them while the host has not read them, then under the REQTAIL
  from which on its requests follow them. -/
  rspEdges : List (BitVec 32 × Know) := []
  reqEdges : List (BitVec 32 × Know) := []
  /-- The load that the loader has taken, and the number of the first launch that it takes after it (R356). -/
  load : Option (Nat × Nat) := none
  deriving DecidableEq, Repr, Inhabited

/-! ### Transactions (R246 to R260) -/

/-- What a write does when its result is posted: the L2 split of a function (R322), or bytes of a core or route table
(R326). -/
inductive Late where
  | nothing
  | split (fn mib : Nat)
  | table (places : List (Place × Nat)) (bytes : List Byte)
  deriving DecidableEq, Repr, Inhabited

/-- A result of a transaction (R247, R347). -/
structure TxRes where
  status : Nat := 0
  failidx : Nat := 0
  handle : Nat := 0
  gen : Nat := 0
  value : Word := 0
  entry : Quad := 0
  data : List Byte := []
  /-- What a load's result carries to the host that reads it (R352). -/
  know : Know := []
  late : Late := .nothing
  deriving DecidableEq, Repr, Inhabited

/-- A transaction on its way. -/
structure Txn where
  /-- Class 0xC index (R97). -/
  op : Nat := 0
  ctx : Nat := 0
  core : Nat := 0
  /-- Host function, for a host transaction. -/
  host : Option Nat := none
  hidx : Nat := 0
  rtag : Nat := 0
  cell : Option Nat := none
  arg : Nat := 0
  /-- Handles named: index and GEN. -/
  ha : Nat × Nat := (0, 0)
  hb : Option (Nat × Nat) := none
  /-- Object offset of NREAD and NWRITE, and the pad offset. -/
  off : Nat := 0
  padOff : Nat := 0
  spec : Word := 0
  data : List Byte := []
  launch : Option Nat := none
  /-- The result's header, formed at issue (R247). -/
  hdr : BitVec 128 := 0
  party : Nat := 0
  issuer : Nat := 0
  /-- What the port had received before it took a host transaction, and what the transactions that it took before this one
  have accessed and received: what comes before it in the port's program order (R50, R348). -/
  know : Know := []
  /-- Die whose name unit holds it now, and the die it must reach to act. -/
  die : Nat := 0
  home : Nat := 0
  /-- Result once the name unit has acted. -/
  res : Option TxRes := none
  /-- FSEQ of the fault on which the access is held (R268). -/
  held : Option Nat := none
  /-- A control-object write waits for its own step. -/
  ctl : Option Node := none
  /-- A page command's progress has been made and waits to complete (R266): the pages it changed. -/
  paged : Option (List Nat) := none
  /-- An NWALK's progress (R251): begun, the node reached with its grant, components resolved, mount points
  crossed, and the directory and name it came through. -/
  wgo : Bool := false
  wnode : Node := .root
  wgrant : Nat := 0
  wix : Nat := 0
  wcross : Nat := 0
  wvia : Option (Node × List Byte) := none
  deriving DecidableEq, Repr, Inhabited

/-- A page's or granule's translation before a command that is still in flight (R266, R267). -/
structure OldMap where
  txn : Nat := 0
  /-- First stage: made node and page, with its old state. -/
  s1 : Option (Nat × Nat × Page) := none
  /-- Second stage: function and granule, with its old entry in the function's table. -/
  s2 : Option (Nat × Nat × Nat) := none
  deriving DecidableEq, Repr, Inhabited

/-! ### Fabric (R274 to R294) -/

structure Window where
  base : Nat := 0
  w : Nat := 0
  /-- (sequence, chunk) pairs whose result the root has delivered. -/
  delivered : List (Nat × Nat) := []
  /-- Context that reserved it, in which its results are posted. -/
  ctx : Nat := 0
  /-- Slots that each switch die took from the tenant's quota; the rest are the shared pool's (R280). -/
  quota : Tab Nat := []
  deriving DecidableEq, Repr, Inhabited

structure Group where
  cfg : List Byte := []
  nextseq : Nat := 0
  dups : Nat := 0
  windows : List Window := []
  deriving DecidableEq, Repr, Inhabited

/-- A core that pushed (R287). -/
structure Sender where
  ctx : Nat := 0
  core : Nat := 0
  lword : Nat := 0
  launch : Option Nat := none
  deriving DecidableEq, Repr, Inhabited

/-- A chunk with what it carries up the tree. -/
structure Chunk where
  data : VWord := 0
  nv : Bool := false
  ov : Bool := false
  nx : Bool := false
  /-- Lowest-numbered switch that emitted partially, its missing mask; and whether there were more. -/
  part : Option (Nat × Nat) := none
  multi : Bool := false
  know : Know := []
  /-- The cores whose pushes it holds, in order. -/
  senders : List Sender := []
  deriving DecidableEq, Repr, Inhabited

/-- A slot in use (R280); reserved slots with no chunk are counted from the windows. -/
structure Slot where
  sw : Nat := 0
  grp : Nat := 0
  seq : Nat := 0
  chunk : Nat := 0
  /-- 0 filling, 1 emitted, 2 flushed marker, 3 a marker that has expired. -/
  st : Nat := 0
  arr : Tab Chunk := []
  first : Nat := 0
  until_ : Nat := 0
  deriving DecidableEq, Repr, Inhabited

/-- A chunk moving to a switch's port. -/
structure Push where
  sw : Nat := 0
  port : Nat := 0
  grp : Nat := 0
  seq : Nat := 0
  chunk : Nat := 0
  body : Chunk := {}
  /-- Fresh from a core: membership is checked (R287). -/
  leaf : Bool := false
  deriving DecidableEq, Repr, Inhabited

/-- A result at the root on its way to one member (R287). -/
structure Result where
  grp : Nat := 0
  seq : Nat := 0
  chunk : Nat := 0
  body : Chunk := {}
  member : Nat := 0
  ctx : Nat := 0
  party : Nat := 0
  /-- The group's RBUF and RHIDX when the root delivered. -/
  rbuf : Nat := 0
  rhidx : Nat := 0
  /-- The root's switch die, and its place in the order of sending (R276). -/
  sw : Nat := 0
  flit : Nat := 0
  deriving DecidableEq, Repr, Inhabited

/-- A flit held by a link's sender until it is acknowledged (R276). -/
structure Link where
  nextSeq : Nat := 0
  expect : Nat := 0
  /-- Sequence numbers sent and not acknowledged. -/
  held : List Nat := []
  resends : Nat := 0
  failed : Bool := false
  deriving DecidableEq, Repr, Inhabited

/-! ### Mull regions (R296 to R311) -/

structure Stripe where
  s : Tab Int := []
  w : Nat := 4294967296
  spread : BitVec 32 := 0x7F800000
  damaged : Bool := false
  deriving DecidableEq, Repr, Inhabited

/-- An OUT register with its APPLIED and SENDSEQ (R300). -/
structure Out where
  valid : Bool := false
  seq : Nat := 0
  stripe : Nat := 0
  /-- Region slot on this die, 0 to 15. -/
  region : Nat := 0
  hw : Nat := 0
  hs : Tab Int := []
  applied : Nat := 0
  sendseq : Nat := 0
  /-- Next stripe in cyclic order and cycle of the last slot (R298). -/
  cursor : Nat := 0
  slotAt : Nat := 0
  /-- CADENCE as that slot found it: the period now running (R310). -/
  period : Nat := 0
  deriving DecidableEq, Repr, Inhabited

structure Region where
  node : Nat := 0
  live : Bool := false
  members : List Nat := []
  stripes : Nat := 0
  e : Int := 0
  cadence : Nat := 0
  prio : Nat := 0
  ctx : Nat := 0
  fn : Nat := 0
  /-- Replicas that are not as created: key 65,536 × die + stripe. -/
  reps : Tab Stripe := []
  /-- Link engines' registers: key 4 × die + link. -/
  outs : Tab Out := []
  /-- First frame of each die's replica. -/
  frames : Tab (Option Nat) := []
  /-- The region's slot on each member die, 0 to 15 (R300). -/
  slots : Tab Nat := []
  deriving DecidableEq, Repr, Inhabited

/-- A posted MLADD (R302). -/
structure MullAdd where
  party : Nat := 0
  thread : Nat := 0
  region : Nat := 0
  die : Nat := 0
  stripe : Nat := 0
  first : Nat := 0
  /-- Exact addends: integer mass, or the bits of an FP32 estimate. -/
  mass : Bool := false
  rnd : Nat := 0
  vals : List Nat := []
  deriving DecidableEq, Repr, Inhabited

/-! ### Posted accesses -/

/-- A posted store to another home (R139, R55). -/
structure Posted where
  /-- Its place in issue order, among the posted writes of its activation. -/
  seq : Nat := 0
  party : Nat := 0
  ctx : Nat := 0
  handle : BitVec 20 := 0
  gen : Nat := 0
  core : Nat := 0
  /-- The storing core's logical word. -/
  lword : Nat := 0
  node : Node := .root
  off : Nat := 0
  bytes : List Byte := []
  /-- The tag a PST carries. -/
  tag : Bool := false
  pst : Bool := false
  hidx : Nat := 0
  /-- What the writer had accessed or received at issue, and the lines of it not yet released (R47, R49). -/
  know : Know := []
  pub : List Nat := []
  /-- How races describe the writer (R51). -/
  who : BitVec 64 := 0
  /-- Where its lookup at issue found its bytes (R267). -/
  places : List (Place × Nat) := []
  launch : Option Nat := none
  deriving DecidableEq, Repr, Inhabited

/-- A posted JOIN (R172). -/
structure JoinReq where
  /-- Its place in issue order, its activation's party and the generation of its handle. -/
  seq : Nat := 0
  party : Nat := 0
  gen : Nat := 0
  /-- Where its lookup at issue found the cell. -/
  place : Place := {}
  node : Node := .root
  off : Nat := 0
  handle : BitVec 20 := 0
  k : Nat := 0
  ctx : Nat := 0
  core : Nat := 0
  lword : Nat := 0
  know : Know := []
  sendTs : Nat := 0
  launch : Option Nat := none
  deriving DecidableEq, Repr, Inhabited

/-- A posted SEMV to another tile (R177). -/
structure SemReq where
  /-- Its activation's party, context and core, and the handle it went through. -/
  party : Nat := 0
  ctx : Nat := 0
  core : Nat := 0
  handle : BitVec 20 := 0
  gen : Nat := 0
  pad : Nat := 0
  sem : Nat := 0
  amount : Nat := 0
  know : Know := []
  deriving DecidableEq, Repr, Inhabited

/-- A launch entry forwarded to another die's launch unit (R313). -/
structure LForward where
  rec_ : Rec := {}
  die : Nat := 0
  deriving DecidableEq, Repr, Inhabited

/-! ### Debug and trace (R335 to R344) -/

structure Trace where
  ctl : Word := 0
  buf : Word := 0
  wrptr : Nat := 0
  rdptr : Nat := 0
  lost : Nat := 0
  /-- Records dropped since the last record written. -/
  gap : Nat := 0
  trig : Word := 0
  capbuf : Word := 0
  capptr : Nat := 0
  /-- CAPPTR when CAPBUF was written. -/
  capFrom : Nat := 0
  nonce : Word := 0
  token : List Host.Cell := []
  verifying : Option Nat := none
  /-- Context that a supervisor's BUF and CAPBUF handles lie in. -/
  bufCtx : Nat := 0
  capCtx : Nat := 0
  /-- Context stopped or to stop: requested, STOPPED. -/
  stopCtx : Nat := 0
  stopReq : Bool := false
  stopped : Bool := false
  /-- Other contexts whose stop on the die has been requested (false) or is complete (true). -/
  others : List (Nat × Bool) := []
  /-- Next thread to sample at each core, and the cycle after its last sample. -/
  rr : Tab Nat := []
  sampled : Tab Nat := []
  deriving DecidableEq, Repr, Inhabited

/-- The test access port (R342). -/
inductive TapIr where
  | idcode | bypass | sample | extest | freezeread
  deriving DecidableEq, Repr, Inhabited

structure Tap where
  ir : TapIr := .idcode
  data : BitVec 64 := 0
  deriving DecidableEq, Repr, Inhabited

/-- Life-cycle fuses (R343). -/
inductive Life where
  | manufacture | provisioned | deployed | returned
  deriving DecidableEq, Repr, Inhabited

/-! ### The agenda -/

/-- The numbers and bytes that come with a machine step (which unit moves; what the host wrote). -/
structure Arg where
  a : Nat := 0
  b : Nat := 0
  c : Nat := 0
  data : List Byte := []
  deriving DecidableEq, Repr, Inhabited

/-- One slot of the agenda: cycles that pass, then a thread issues or a machine step is taken. -/
inductive What where
  | issue (thread : Nat)
  | event (i : Instr) (arg : Arg)
  deriving DecidableEq, Repr

structure AgSlot where
  dt : Nat
  what : What
  deriving DecidableEq, Repr

/-- The state of the module and of everything on its way in it. -/
structure State where
  /-- Cycles since reset; the timestamp counts one for three (R20). -/
  now : Nat := 0
  agenda : List AgSlot := []
  /-- The thread that issues, and the operands of the machine step taken. -/
  cur : Nat := 0
  arg : Arg := {}
  /-- Counts free values and free choices. -/
  fresh : Nat := 0
  -- cores and records
  threads : Tab Thread := []
  cores : Tab Core := []
  chans : Tab Chan := []
  delays : Tab DelayTab := []
  net : List Rec := []
  -- memory
  mem : List Host.Cell := []
  tags : Tab Bool := []
  marks : Tab Bool := []
  -- names
  made : Tab Made := []
  names : List NameEnt := []
  ctxs : Tab Ctx := []
  fns : Tab Fn := []
  txns : Tab Txn := []
  nextTxn : Nat := 0
  nextNode : Nat := 0
  oldMaps : List OldMap := []
  -- ordering
  parties : Tab Party := []
  nextParty : Nat := 1
  nextAcc : Nat := 1
  lines : Tab (List LineAcc) := []
  vars : Tab SyncVar := []
  semCarry : Carry := []
  swCarry : Carry := []
  /-- What the JOINs on each cell have carried since it was armed (R172). -/
  joinCarry : Carry := []
  posted : List Posted := []
  joins : List JoinReq := []
  semvs : List SemReq := []
  -- tiles
  sems : Tab Nat := []
  sfu : Tab (List SfuReq) := []
  copies : Tab (List CopyCmd) := []
  /-- Each tile's copy channel that moved last, and one more (R232). -/
  copyLast : Tab Nat := []
  -- matrix engine
  quartos : Tab Quarto := []
  /-- Commands accepted at the quartos' ports and not yet complete, in acceptance order (R195). -/
  port : List PortOp := []
  sheetMem : List Host.Cell := []
  acc : Tab Acc := []
  -- launches
  launches : Tab Launch := []
  nextLaunch : Nat := 0
  doneMsgs : List DoneMsg := []
  lforwards : List LForward := []
  lastQueue : Tab Nat := []
  -- fabric
  groups : Tab Group := []
  slots : List Slot := []
  pushes : List Push := []
  results : List Result := []
  portPtr : Tab Nat := []
  /-- Cycle and port of the last reservation that took slots at each switch die (R281). -/
  slotWon : Tab (Nat × Nat) := []
  links : Tab Link := []
  -- mull
  mull : Tab Region := []
  mullAdds : List MullAdd := []
  /-- Exchanges on their way and acknowledgements on their way: region, die and link of the sender. -/
  mullX : List (Nat × Nat × Nat) := []
  mullAcks : List (Nat × Nat × Nat) := []
  -- debug, life cycle, errors, power
  traces : Tab Trace := []
  life : Life := .manufacture
  /-- Features opened by a token until the next reset. -/
  unlocked : BitVec 3 := 0
  identityErased : Bool := false
  tap : Tap := {}
  frozen : Bool := false
  corrected : Tab Nat := []
  /-- Dispatch fault records dropped and counted (R34, R349). -/
  dropped : Nat := 0
  afr : Tab Word := []
  gate : Tab Word := []
  /-- Gates of windows that begin later: the cycle, and every die's word (R319). -/
  gateNext : List (Nat × Tab Word) := []
  /-- The last MCTP reply (R349). -/
  mctp : List Byte := []
  -- boot and module monitors
  smvec : Word := 0xFFFF00000000
  worldctl : Word := 0
  /-- Secure bits of blocks and granules, by KIND × 2^48 + INDEX (R323). -/
  worlds : Tab Bool := []
  bootStage : BitVec 8 := 0
  bootCount : BitVec 32 := 0
  bootDies : BitVec 32 := 0
  deriving DecidableEq, Repr

/-- The module right after reset, before the boot ROM's first stage (R350): no function, no context,
no activation, nothing in memory. -/
def State.reset : State := {}

end Sys2Proof.Machine
end

