-- ==== Sys2Proof/Machine/Basic.lean ====
section
/-! DEFINITION. Sparse tables, memory as a list of cells in one canonical form, and the accessors of
the state's tables. -/

namespace Sys2Proof.Machine

/-! ### Tables -/

/-- The value of `k`, or `d` where the table lists none. -/
def tget {α : Type} (d : α) : Tab α → Nat → α
  | [], _ => d
  | (k', v) :: r, k => if k' = k then v else tget d r k

/-- Puts `v` at `k`, listing nothing where `v` is the default. -/
def tset {α : Type} [DecidableEq α] (d : α) : Tab α → Nat → α → Tab α
  | [], k, v => if v = d then [] else [(k, v)]
  | (k', v') :: r, k, v =>
    if k' < k then (k', v') :: tset d r k v
    else if k' = k then (if v = d then tset d r k v else (k, v) :: r)
    else if v = d then (k', v') :: tset d r k v else (k, v) :: (k', v') :: r

/-- Removes every key that `p` names. -/
def tdrop {α : Type} (p : Nat → Bool) (t : Tab α) : Tab α := t.filter fun e => !p e.1

/-- Changes every value listed, unlisting defaults. -/
def tmap {α : Type} [DecidableEq α] (d : α) (f : Nat → α → α) (t : Tab α) : Tab α :=
  t.filterMap fun e => if f e.1 e.2 = d then none else some (e.1, f e.1 e.2)

/-- Keeps the listed entries that `p` names. -/
def tkeep {α : Type} (p : Nat → α → Bool) (t : Tab α) : Tab α := t.filter fun e => p e.1 e.2

/-- Keys rise and no default is listed. -/
def tabWf {α : Type} [DecidableEq α] (d : α) : Tab α → Bool
  | [] => true
  | (k, v) :: r => v != d && (match r with | [] => true | (k', _) :: _ => decide (k < k')) && tabWf d r

/-! ### Memory -/

/-- What a byte that nothing has written reads as. Boot leaves HBM and LPDDR without stated contents
(R350); a DESIGN CHOICE (log 1). -/
def unwritten : Byte := 0

/-- Canonical form: addresses rise, and no cell holds what an unlisted one reads as. -/
def Memory.wf (m : List Host.Cell) : Bool := tabWf unwritten m

/-- Reads one byte. -/
def readByte (m : List Host.Cell) (a : Nat) : Byte := tget unwritten m a

/-- Writes one byte and keeps the canonical form. -/
def writeByte (m : List Host.Cell) (a : Nat) (b : Byte) : List Host.Cell := tset unwritten m a b

/-- Reads `n` bytes from `a` upward. -/
def readBytes (m : List Host.Cell) (a : Nat) : Nat → List Byte
  | 0 => []
  | n + 1 => readByte m a :: readBytes m (a + 1) n

/-- Writes the bytes from `a` upward. -/
def writeBytes (m : List Host.Cell) (a : Nat) : List Byte → List Host.Cell
  | [] => m
  | b :: bs => writeBytes (writeByte m a b) (a + 1) bs

/-- Makes every byte of [a, a + n) unwritten. -/
def clearRange (m : List Host.Cell) (a n : Nat) : List Host.Cell :=
  tdrop (fun k => decide (a ≤ k) && decide (k < a + n)) m

/-- The cells of [a, a + n), moved to start at offset 0. -/
def takeRange (m : List Host.Cell) (a n : Nat) : List Host.Cell :=
  (m.filter fun c => decide (a ≤ c.1) && decide (c.1 < a + n)).map fun c => (c.1 - a, c.2)

/-- Puts back cells that `takeRange` took, from `a` upward. -/
def putRange (m : List Host.Cell) (a n : Nat) (cs : List Host.Cell) : List Host.Cell :=
  cs.foldl (fun m c => writeByte m (a + c.1) c.2) (clearRange m a n)

/-- The little-endian number of a byte list (R3). -/
def natOfBytes : List Byte → Nat
  | [] => 0
  | b :: bs => b.toNat + 256 * natOfBytes bs

/-- The low `n` bytes of a number, little-endian (R3). -/
def bytesOfNat : Nat → Nat → List Byte
  | 0, _ => []
  | n + 1, x => BitVec.ofNat 8 (x % 256) :: bytesOfNat n (x / 256)

/-- `v` in `n` bits of two's complement. -/
def toBits (n : Nat) (v : Int) : Nat := (v % (2 ^ n : Nat)).toNat

/-- A 64-bit word from a number, wrapping. -/
def w64 (x : Nat) : Word := BitVec.ofNat 64 x

/-- Replaces the `n` bits of `w` from `lo` by `v`. -/
def setBits (w lo n v : Nat) : Nat := w - bits w lo n * 2 ^ lo + v % 2 ^ n * 2 ^ lo

/-- Whether bit `k` of `w` is set. -/
def bitOn (w k : Nat) : Bool := bits w k 1 == 1

/-- Ceiling division. -/
def cdiv (a b : Nat) : Nat := (a + b - 1) / b

/-! ### Physical places -/

def coreDie (c : Nat) : Nat := c % 32
def coreTile (c : Nat) : Nat := c / 32 % 32
def coreRole (c : Nat) : Nat := c / 1024 % 4
def coreOf (die tile role : Nat) : Nat := die + 32 * tile + 1024 * role
/-- The pad that the core's rules speak of (R12). -/
def padOf (c : Nat) : Nat := if coreRole c = 3 then 1024 + 4 * coreDie c + coreTile c else 32 * coreDie c + coreTile c
/-- The quarto q + 4d beside a core (R12). -/
def quartoOf (c : Nat) : Nat := (if coreRole c = 3 then coreTile c else coreTile c / 8) + 4 * coreDie c
def padDie (p : Nat) : Nat := if p < 1024 then p / 32 else (p - 1024) / 4
def padQuarto (p : Nat) : Nat := if p < 1024 then p % 32 / 8 + 4 * (p / 32) else p - 1024
/-- Bytes of a pad (R13). -/
def padBytes (p : Nat) : Nat := if p < 1024 then 2097152 else 524288
/-- The four service cores' and 96 tile cores' words of a die (R12). -/
def dieCores (d : Nat) : List Nat :=
  (List.range 96).map (fun i => coreOf d (i % 32) (i / 32)) ++ (List.range 4).map (fun k => coreOf d k 3)
/-- The service core beside a quarto. -/
def svcOf (q : Nat) : Nat := coreOf (q / 4) (q % 4) 3

/-- Model addresses: machine granules below 2^44, then pads, then objects with storage of their own. -/
def padAddr (p off : Nat) : Nat := 2 ^ 44 + p * 2 ^ 21 + off
def ownAddr (i off : Nat) : Nat := (i + 2) * 2 ^ 44 + off

/-! ### Accessors of the state's tables -/

def State.thread (s : State) (k : Nat) : Thread := tget {} s.threads k
def State.setThread (s : State) (k : Nat) (t : Thread) : State := { s with threads := tset {} s.threads k t }
def State.updThread (s : State) (k : Nat) (f : Thread → Thread) : State := s.setThread k (f (s.thread k))
/-- The issuing thread. -/
def State.t (s : State) : Thread := s.thread s.cur
def State.setT (s : State) (t : Thread) : State := s.setThread s.cur t
def State.updT (s : State) (f : Thread → Thread) : State := s.setT (f s.t)
def State.core (s : State) (k : Nat) : Core := tget {} s.cores k
def State.setCore (s : State) (k : Nat) (c : Core) : State := { s with cores := tset {} s.cores k c }
def State.updCore (s : State) (k : Nat) (f : Core → Core) : State := s.setCore k (f (s.core k))
def State.chan (s : State) (k : Nat) : Chan := tget {} s.chans k
def State.setChan (s : State) (k : Nat) (c : Chan) : State := { s with chans := tset {} s.chans k c }
def State.updChan (s : State) (k : Nat) (f : Chan → Chan) : State := s.setChan k (f (s.chan k))
def State.ctx (s : State) (c : Nat) : Ctx := tget {} s.ctxs c
def State.setCtx (s : State) (c : Nat) (x : Ctx) : State := { s with ctxs := tset {} s.ctxs c x }
def State.updCtx (s : State) (c : Nat) (f : Ctx → Ctx) : State := s.setCtx c (f (s.ctx c))
def State.fn (s : State) (n : Nat) : Fn := tget {} s.fns n
def State.setFn (s : State) (n : Nat) (x : Fn) : State := { s with fns := tset {} s.fns n x }
def State.updFn (s : State) (n : Nat) (f : Fn → Fn) : State := s.setFn n (f (s.fn n))
def State.madeN (s : State) (i : Nat) : Made := tget {} s.made i
def State.setMade (s : State) (i : Nat) (x : Made) : State := { s with made := tset {} s.made i x }
def State.updMade (s : State) (i : Nat) (f : Made → Made) : State := s.setMade i (f (s.madeN i))
def State.quarto (s : State) (q : Nat) : Quarto := tget {} s.quartos q
def State.setQuarto (s : State) (q : Nat) (x : Quarto) : State := { s with quartos := tset {} s.quartos q x }
def State.updQuarto (s : State) (q : Nat) (f : Quarto → Quarto) : State := s.setQuarto q (f (s.quarto q))
def State.launch (s : State) (i : Nat) : Launch := tget {} s.launches i
def State.setLaunch (s : State) (i : Nat) (x : Launch) : State := { s with launches := tset {} s.launches i x }
def State.updLaunch (s : State) (i : Nat) (f : Launch → Launch) : State := s.setLaunch i (f (s.launch i))
def State.party (s : State) (i : Nat) : Party := tget {} s.parties i
def State.setParty (s : State) (i : Nat) (x : Party) : State := { s with parties := tset {} s.parties i x }
def State.txn (s : State) (i : Nat) : Txn := tget {} s.txns i
def State.setTxn (s : State) (i : Nat) (x : Txn) : State := { s with txns := tset {} s.txns i x }
def State.updTxn (s : State) (i : Nat) (f : Txn → Txn) : State := s.setTxn i (f (s.txn i))
def State.group (s : State) (g : Nat) : Group := tget {} s.groups g
def State.setGroup (s : State) (g : Nat) (x : Group) : State := { s with groups := tset {} s.groups g x }
def State.region (s : State) (i : Nat) : Region := tget {} s.mull i
def State.setRegion (s : State) (i : Nat) (x : Region) : State := { s with mull := tset {} s.mull i x }
def State.traceU (s : State) (d : Nat) : Trace := tget {} s.traces d
def State.setTrace (s : State) (d : Nat) (x : Trace) : State := { s with traces := tset {} s.traces d x }
def State.lqueue (s : State) (n k : Nat) : LQueue := tget {} (s.fn n).lqs k
def State.setLQueue (s : State) (n k : Nat) (q : LQueue) : State :=
  s.updFn n fun f => { f with lqs := tset {} f.lqs k q }
def State.copyQ (s : State) (k : Nat) : List CopyCmd := tget [] s.copies k
def State.setCopyQ (s : State) (k : Nat) (q : List CopyCmd) : State := { s with copies := tset [] s.copies k q }

/-- The 1 GHz timestamp (R20; log 12), the same at every die: no skew of up to 4 ns between two dies is shown,
DESIGN CHOICE (log 167). -/
def State.ts (s : State) : Nat := s.now / 3

/-- Writes bytes at a model address: every other write clears the granules' tags and the lines' arming
marks that it touches (R143, R171). -/
def State.poke (s : State) (a : Nat) (bs : List Byte) : State :=
  if bs.isEmpty then s else
  { s with
    mem := writeBytes s.mem a bs
    tags := tdrop (fun k => decide (a / 16 ≤ k) && decide (k ≤ (a + bs.length - 1) / 16)) s.tags
    marks := tdrop (fun k => decide (a / 64 ≤ k) && decide (k ≤ (a + bs.length - 1) / 64)) s.marks }

def State.peek (s : State) (a n : Nat) : List Byte := readBytes s.mem a n
def State.peekN (s : State) (a n : Nat) : Nat := natOfBytes (s.peek a n)
def State.pokeN (s : State) (a n v : Nat) : State := s.poke a (bytesOfNat n v)

/-- Stores 16 bytes with a tag, as PST does (R143). -/
def State.pokeTagged (s : State) (a : Nat) (v : Quad) (tag : Bool) : State :=
  let s := s.pokeN a 16 v.toNat
  { s with tags := tset false s.tags (a / 16) tag }

/-- Clears [a, a + n) with its tags and marks. -/
def State.wipe (s : State) (a n : Nat) : State :=
  { s with
    mem := clearRange s.mem a n
    tags := tdrop (fun k => decide (a ≤ k * 16) && decide (k * 16 < a + n)) s.tags
    marks := tdrop (fun k => decide (a ≤ k * 64) && decide (k * 64 < a + n)) s.marks }

/-- Copies n bytes with their tags and marks from a to b, both multiples of 64. -/
def State.copyRange (s : State) (a b n : Nat) : State :=
  let m := takeRange s.mem a n
  let tg := (s.tags.filter fun e => decide (a ≤ e.1 * 16) && decide (e.1 * 16 < a + n))
  let mk := (s.marks.filter fun e => decide (a ≤ e.1 * 64) && decide (e.1 * 64 < a + n))
  let s := s.wipe b n
  { s with
    mem := putRange s.mem b n m
    tags := tg.foldl (fun t e => tset false t (e.1 - a / 16 + b / 16) e.2) s.tags
    marks := mk.foldl (fun t e => tset false t (e.1 - a / 64 + b / 64) e.2) s.marks }

/-- The world bit of a block or granule (R323). KIND 0 quarto, 1 copy channel, 2 slot pool,
3 name-unit partition, 4 service core, 5 granule. -/
def State.world (s : State) (kind index : Nat) : Bool := tget false s.worlds (kind * 2 ^ 48 + index)

/-- The world of a context: its partition's (R109, R321). -/
def State.ctxWorld (s : State) (c : Nat) : Bool :=
  (s.fn (if c < 65536 then (s.ctx c).fn else c - 65536)).recd.world

/-! ### The torus (R10) -/

/-- The die at the other end of torus link L (R10). -/
def torusTo (d l : Nat) : Nat :=
  let x := d % 8
  let y := d / 8
  match l with
  | 0 => (x + 1) % 8 + 8 * y
  | 1 => (x + 7) % 8 + 8 * y
  | 2 => x + 8 * ((y + 1) % 4)
  | _ => x + 8 * ((y + 3) % 4)

/-- The facing link's number. -/
def torusBack (l : Nat) : Nat := if l % 2 = 0 then l + 1 else l - 1

end Sys2Proof.Machine
end

