-- ==== Sys2Proof/Machine/Nodes.lean ====
section
/-! DEFINITION. The nodes of the tree, their kinds, grants and sizes, handle tables, bindings and the
lookup of one component (R241 to R245, R325). -/

namespace Sys2Proof.Machine

/-! ### Rights, in R107's order -/

def rR : Nat := 1
def rW : Nat := 2
def rX : Nat := 4
def rA : Nat := 8
def rD : Nat := 16
def rM : Nat := 32
def rG : Nat := 64
def rS : Nat := 128

/-- Whether `need` is a subset of `have_`. -/
def hasAll (have_ need : Nat) : Bool := need &&& have_ == need

/-! ### Node kinds (R241) -/

def kDir : Nat := 0
def kMemo : Nat := 1
def kQueue : Nat := 2
def kAper : Nat := 3
def kPeer : Nat := 4
def kCode : Nat := 5
def kMull : Nat := 6
def kCtl : Nat := 7

def State.nodeKind (s : State) : Node → Nat
  | .pad _ _ | .spad _ _ => kMemo
  | .copy _ _ | .sem _ _ | .reduce _ => kAper
  | .chan _ _ _ _ | .delay _ _ _ | .trace _ | .group _ | .vfctl _ | .vfmigrate _ | .ctxslot _ _ => kCtl
  | .launch _ _ => kQueue
  | .peer _ => kPeer
  | .made i => (s.madeN i).kind
  | _ => kDir

/-- Memory tier (R241, R243). -/
def State.nodeTier (s : State) : Node → Nat
  | .made i => if (s.madeN i).kind = kMemo then (s.madeN i).tier else 0
  | _ => 0

/-- The tier a tier directory gives the objects made beneath it (R257). -/
def State.dirTier (s : State) : Node → Option Nat
  | .hbm _ => some 2
  | .lpddr _ => some 3
  | .l2store _ => some 1
  | .host => some 4
  | .made i => if (s.madeN i).kind = kDir ∧ (s.madeN i).tier ≠ 0 then some (s.madeN i).tier else none
  | _ => none

/-- Home die (R242). -/
def State.nodeHome (s : State) : Node → Nat
  | .die d | .tiles d | .tile d _ | .pad d _ | .copy d _ | .sem d _ | .cores d _ | .core d _ _
  | .chans d _ _ | .chan d _ _ _ | .delay d _ _ | .services d | .service d _ | .spad d _ | .hbm d
  | .lpddr d | .l2store d | .trace d => d
  | .made i => (s.madeN i).home
  | _ => 0

def State.nodeRelaxed (s : State) : Node → Bool
  | .made i => (s.madeN i).relaxed
  | _ => false

/-- The quarto that brings a node with it (R320). -/
def nodeQuarto : Node → Option Nat
  | .tile d t | .pad d t | .copy d t | .sem d t | .cores d t | .core d t _ | .chans d t _
  | .chan d t _ _ | .delay d t _ => some (t / 8 + 4 * d)
  | .service d k | .spad d k => some (k + 4 * d)
  | _ => none

/-- The secure block a node is (R109, R323): KIND and INDEX of worldctl. -/
def nodeBlock (home : Nat) : Node → Nat × Nat
  | .service d k | .spad d k => (4, 4 * d + k)
  | n => match nodeQuarto n with
    | some q => (0, q)
    | none => (3, home)

/-- Grant before any context's view (R242). -/
def State.bootGrant (s : State) : Node → Nat
  | .pad _ _ | .spad _ _ => rR + rW + rA + rD + rM + rG + rS
  | .copy _ _ => rR + rW + rG
  | .sem _ _ => rA + rG
  | .chan _ _ _ _ | .delay _ _ _ | .trace _ | .group _ | .vfctl _ | .vfmigrate _ | .ctxslot _ _ => rR + rW
  | .reduce _ => rR + rW + rA
  | .launch _ _ => rW
  | .hbm _ | .lpddr _ | .l2store _ | .host => rX + rW
  | .priv _ => rX + rW
  | .made i => (s.madeN i).grant.toNat
  | _ => rX

/-- Whether function n holds quarto q (R320). -/
def State.holds (s : State) (n q : Nat) : Bool := bitOn (s.fn n).recd.quartos.toNat q

/-- The function that holds quarto q. -/
def State.ownerOf (s : State) (q : Nat) : Option Nat := (s.fns.find? fun e => bitOn e.2.recd.quartos.toNat q).map (·.1)

/-- Quartos the function holds, rising. -/
def State.quartosOf (s : State) (n : Nat) : List Nat := (List.range 128).filter fun q => s.holds n q

/-- Dies on which function n holds a quarto, rising. -/
def State.diesOf (s : State) (n : Nat) : List Nat := (List.range 32).filter fun d => (s.quartosOf n).any fun q => q / 4 == d

/-- The function of a context, host contexts included (R259). -/
def State.ctxFn (s : State) (c : Nat) : Nat := if c < 65536 then (s.ctx c).fn else c - 65536

/-- The privilege level of a context; the host's counts as hypervisor (R259, R264). -/
def State.ctxPriv (s : State) (c : Nat) : Nat := if c < 65536 then (s.ctx c).priv else 2

/-- A made node that lies in its function's quartos (R320): an HBM or L2-store object, code, a queue in a pad, or a
mull region's replicas. -/
def Made.inQuartos (m : Made) : Bool :=
  (m.kind == kMemo && (m.tier == 1 || m.tier == 2)) || m.kind == kCode || m.kind == kQueue || m.kind == kMull

/-- A node that belongs to the quartos of a function that is not context c's (R242, R320). -/
def State.foreign (s : State) (c : Nat) : Node → Bool
  | .made i => (s.madeN i).inQuartos && (s.madeN i).fn != s.ctxFn c
  | n => match (nodeQuarto n).bind s.ownerOf with
    | some f => f != s.ctxFn c
    | none => false

/-- A node's grant as context c sees it: nothing on another partition's quartos (R259, R325), and to a
host context nothing beneath another function's /vf (R259). -/
def State.nodeGrant (s : State) (c : Nat) (n : Node) : Nat :=
  let other := match n with
    | .vf m | .vfctl m | .vfmigrate m | .launches m | .launch m _ | .ctxs m | .ctxslot m _ =>
      decide (65536 ≤ c) && m != c - 65536
    | _ => false
  if s.foreign c n || other then 0 else s.bootGrant n

/-- PADMAX × 64 KiB; the whole pad for the partition's hypervisor context alone, not for its host (R322). -/
def State.padSize (s : State) (c p : Nat) : Nat :=
  if 1024 ≤ p then padBytes p
  else if s.ctxPriv c ≠ 2 ∨ 65536 ≤ c then min 2097152 ((s.fn (s.ctxFn c)).padlimit.toNat % 64 * 65536) else 2097152

/-- Slot size of a launch queue (R312). -/
def State.lqSlot (s : State) (n k : Nat) : Nat := if bitOn (s.lqueue n k).cfg.toNat 3 then 128 else 64

/-- SIZE of a handle entry on the node (R241). -/
def State.nodeSize (s : State) (c : Nat) : Node → Nat
  | .pad d t => s.padSize c (32 * d + t)
  | .spad d k => padBytes (1024 + 4 * d + k)
  | .copy _ _ => 256
  | .sem _ _ => 128
  | .reduce _ => 256
  | .chan _ _ _ _ => 32
  | .delay _ _ _ => 2120
  | .trace _ => 8192
  | .group _ => 592
  | .vfctl _ => 0x5000
  | .vfmigrate _ => 0x200000
  | .ctxslot _ _ => 0x20000 + 64 * 65535
  | .launch n k => s.lqSlot n k
  | .made i => (s.madeN i).size
  | _ => 0

/-- Object identifier, unique on the module (R243). -/
def nodeId : Node → Nat
  | .root => 0
  | .dies => 1
  | .fabric => 2
  | .groups => 3
  | .reduces => 4
  | .mulls => 5
  | .vfs => 6
  | .host => 7
  | .peers => 8
  | .die d => 0x1000 + d
  | .tiles d => 0x1100 + d
  | .services d => 0x1200 + d
  | .hbm d => 0x1300 + d
  | .lpddr d => 0x1400 + d
  | .l2store d => 0x1500 + d
  | .trace d => 0x1600 + d
  | .service d k => 0x1700 + 4 * d + k
  | .spad d k => 0x1800 + 4 * d + k
  | .tile d t => 0x2000 + 32 * d + t
  | .pad d t => 0x2400 + 32 * d + t
  | .copy d t => 0x2800 + 32 * d + t
  | .sem d t => 0x2C00 + 32 * d + t
  | .cores d t => 0x3000 + 32 * d + t
  | .core d t c => 0x4000 + 4 * (32 * d + t) + c
  | .chans d t c => 0x5000 + 4 * (32 * d + t) + c
  | .delay d t c => 0x6000 + 4 * (32 * d + t) + c
  | .chan d t c k => 0x10000 + 64 * (32 * d + t) + 16 * c + k
  | .group g => 0x20000 + g
  | .reduce g => 0x21000 + g
  | .vf n => 0x22000 + n
  | .vfctl n => 0x22100 + n
  | .vfmigrate n => 0x22200 + n
  | .launches n => 0x22300 + n
  | .ctxs n => 0x22400 + n
  | .peer m => 0x23000 + m
  | .launch n k => 0x24000 + 64 * n + k
  | .ctxslot n k => 0x26000 + 16 * n + k
  | .priv c => 0x30000 + c
  | .made i => 0x40000 + i

/-- The pad a pad node names. -/
def nodePad : Node → Option Nat
  | .pad d t => some (32 * d + t)
  | .spad d k => some (1024 + 4 * d + k)
  | _ => none

/-- The pad node of a pad. -/
def padNode (p : Nat) : Node :=
  if p < 1024 then .pad (p / 32) (p % 32) else .spad ((p - 1024) / 4) (p % 4)

/-! ### Components -/

/-- The bytes of a name. -/
def str (x : String) : List Byte := x.toList.map fun c => BitVec.ofNat 8 c.toNat

/-- A decimal number without leading zeros (R242). -/
def parseDec (bs : List Byte) : Option Nat :=
  let digit (b : Byte) : Option Nat :=
    if 48 ≤ b.toNat ∧ b.toNat ≤ 57 then some (b.toNat - 48) else none
  match bs with
  | [] => none
  | b :: r =>
    if b.toNat = 48 ∧ r ≠ [] then none
    else bs.foldl (fun acc b => match acc, digit b with
      | some v, some d => some (v * 10 + d)
      | _, _ => none) (some 0)

/-- A number component below n. -/
def decBelow (n : Nat) (bs : List Byte) : Option Nat :=
  match parseDec bs with
  | some v => if v < n then some v else none
  | none => none

/-- An entry of a boot-built directory (R242). -/
def bootChild (n : Node) (c : List Byte) : Option Node :=
  match n with
  | .root =>
    if c = str "dies" then some .dies else if c = str "fabric" then some .fabric
    else if c = str "mull" then some .mulls else if c = str "vf" then some .vfs
    else if c = str "host" then some .host else if c = str "peers" then some .peers else none
  | .dies => (decBelow 32 c).map .die
  | .die d =>
    if c = str "tiles" then some (.tiles d) else if c = str "service" then some (.services d)
    else if c = str "hbm" then some (.hbm d) else if c = str "lpddr" then some (.lpddr d)
    else if c = str "l2store" then some (.l2store d) else if c = str "trace" then some (.trace d) else none
  | .tiles d => (decBelow 32 c).map (.tile d)
  | .tile d t =>
    if c = str "pad" then some (.pad d t) else if c = str "copy" then some (.copy d t)
    else if c = str "sem" then some (.sem d t) else if c = str "cores" then some (.cores d t) else none
  | .cores d t => (decBelow 3 c).map (.core d t)
  | .core d t k =>
    if c = str "chan" then some (.chans d t k) else if c = str "delay" then some (.delay d t k) else none
  | .chans d t k => (decBelow 16 c).map (.chan d t k)
  | .services d => (decBelow 4 c).map (.service d)
  | .service d k => if c = str "pad" then some (.spad d k) else none
  | .fabric => if c = str "groups" then some .groups else if c = str "reduce" then some .reduces else none
  | .groups => (decBelow 4096 c).map .group
  | .reduces => (decBelow 4096 c).map .reduce
  | .vfs => (decBelow 128 c).map .vf
  | .vf n =>
    if c = str "ctl" then some (.vfctl n) else if c = str "migrate" then some (.vfmigrate n)
    else if c = str "launch" then some (.launches n) else if c = str "ctx" then some (.ctxs n) else none
  | .launches n => (decBelow 64 c).map (.launch n)
  | .ctxs n => (decBelow 16 c).map (.ctxslot n)
  | .peers => (decBelow 64 c).map .peer
  | _ => none

/-- The entry of directory `n` that context c sees under the name (R242, R257, R326). -/
def State.child (s : State) (c : Nat) (n : Node) (name : List Byte) : Option Node :=
  match bootChild n name with
  | some x => some x
  | none => (s.names.find? fun e => e.dir = n && e.name = name && (e.only == none || e.only == some c)).map (·.node)

/-! ### Handle tables (R243, R244) -/

def State.htab (s : State) (c : Nat) : Tab HEntry :=
  if c < 65536 then (s.ctx c).handles else (s.fn (c - 65536)).hostHandles

def State.setHtab (s : State) (c : Nat) (t : Tab HEntry) : State :=
  if c < 65536 then s.updCtx c fun x => { x with handles := t }
  else s.updFn (c - 65536) fun f => { f with hostHandles := t }

/-- Entries of a context's handle table (R243, R259). -/
def State.hcap (s : State) (c : Nat) : Nat := if c < 65536 then 2 ^ (s.ctx c).hlog else 65536

/-- The root directory that entry 0 names (R325, R259). -/
def State.rootOf (s : State) (c : Nat) : Node := if s.ctxPriv c < 2 then .priv c else .root

/-- A handle entry; entry 0 is the context's root, walked until an NOPEN opens it (R244, R252). -/
def State.hent (s : State) (c i : Nat) : HEntry :=
  if i = 0 ∧ (tget {} (s.htab c) 0).state = 0 then
    { state := 1, gen := 0, node := s.rootOf c, rights := BitVec.ofNat 8 (s.nodeGrant c (s.rootOf c)),
      grant := BitVec.ofNat 8 (s.nodeGrant c (s.rootOf c)), size := 0, via := none }
  else tget {} (s.htab c) i

/-- Walked or open (R243). -/
def HEntry.used (h : HEntry) : Bool := h.state == 1 || h.state == 2

def State.setHent (s : State) (c i : Nat) (h : HEntry) : State := s.setHtab c (tset {} (s.htab c) i h)

/-- The entry that index and GEN name, if REVOKED passes (R108). -/
def State.hlook (s : State) (c i gen : Nat) : Option HEntry :=
  if i < s.hcap c ∧ (s.hent c i).used ∧ (s.hent c i).gen = gen then some (s.hent c i) else none

/-- Lowest free entry at or above `i`, walking the rising keys. -/
def lowestFree (i : Nat) : Tab HEntry → Nat
  | [] => i
  | (k, h) :: r => if k = i ∧ h.state ≠ 0 then lowestFree (i + 1) r else if k < i then lowestFree i r else i

/-- Takes the lowest free entry for a handle (R244); `none` where the table is full. -/
def State.takeHandle (s : State) (c : Nat) (h : HEntry) : Option (Nat × State) :=
  let i := lowestFree 1 (s.htab c)
  if i < s.hcap c then some (i, s.setHent c i { h with gen := (s.hent c i).gen }) else none

/-- The context keys that have handle tables. -/
def State.tables (s : State) : List Nat :=
  (s.ctxs.filter (·.2.live)).map (·.1) ++ s.fns.map fun e => 65536 + e.1

/-- How many handles name the node. -/
def State.handlesOn (s : State) (n : Node) : Nat :=
  (s.tables.map fun c => (s.htab c).countP fun e => e.2.used && e.2.node = n).sum

/-! ### Bindings and the view of a directory (R245) -/

def State.bindsOf (s : State) (c : Nat) : List Bind :=
  if c < 65536 then (s.ctx c).binds else (s.fn (c - 65536)).hostBinds

def State.setBinds (s : State) (c : Nat) (b : List Bind) : State :=
  if c < 65536 then s.updCtx c fun x => { x with binds := b }
  else s.updFn (c - 65536) fun f => { f with hostBinds := b }

/-- A binding's grant: the source's, narrowed by a slot object's GRANT (R326). -/
def State.bindGrant (s : State) (c : Nat) (b : Bind) : Nat :=
  b.grant.toNat &&& s.nodeGrant c b.src &&& (match b.bySup with | some g => g.toNat | none => 255)

/-- Drops everything up to and including the last SHADOW, and says what it was. -/
def afterShadow : List Bind → Option Bind × List Bind
  | [] => (none, [])
  | b :: r =>
    match afterShadow r with
    | (some x, l) => (some x, l)
    | (none, l) => if b.shadow then (some b, l) else (none, b :: l)

/-- Puts a member among members of rising rank, behind those of its own rank. -/
def insRank (m : Nat × Node × Nat) : List (Nat × Node × Nat) → List (Nat × Node × Nat)
  | [] => [m]
  | x :: r => if x.1 ≤ m.1 then x :: insRank m r else m :: x :: r

/-- Members by rank; of equal rank, the first listed first. -/
def byRank (l : List (Nat × Node × Nat)) : List (Nat × Node × Nat) := l.foldl (fun acc m => insRank m acc) []

/-- A directory's members in search order, each with its grant, and the mount points crossed; `none`
past 64 (LOOP). -/
def State.view (s : State) (c : Nat) : Nat → Node → Nat → Option (Nat × List (Node × Nat))
  | 0, _, _ => none
  | f + 1, n, g =>
    let bs := (s.bindsOf c).filter fun b => b.point = n
    if bs = [] then some (0, [(n, g)])
    else
      let (sh, merges) := afterShadow bs
      let base : Option (Nat × List (Node × Nat)) :=
        match sh with
        | some b => s.view c f b.src (s.bindGrant c b)
        | none => some (0, [(n, g)])
      match base with
      | none => none
      | some (k, own) =>
        let ms := merges.map fun b => (b.rank, b.src, s.bindGrant c b)
        let low := byRank (ms.filter fun m => m.1 < 128).reverse
        let high := byRank (ms.filter fun m => 128 < m.1).reverse
        some (k + 1, low.map (·.2) ++ own ++ high.map (·.2))

end Sys2Proof.Machine
end

