-- ==== Sys2Proof/Machine/Xlate.lean ====
section
/-! DEFINITION. Pages, frames and granules: where a byte of an object stands (R261 to R267), and the
allocation of an object's own frames. -/

namespace Sys2Proof.Machine

/-! ### A partition's guest-physical layout

The manual leaves guest-physical numbers to the hypervisor (R264). Until MAP2 says otherwise, the
partition's j-th quarto, counted upward, has its HBM share at granules 8,192 j and its share of LPDDR at
2^20 + 32,768 j; the top 256 granules of the HBM share are the save region (R322). DESIGN CHOICE (log 2). -/

/-- A machine granule number (R261). -/
def granule (die tier idx : Nat) : Nat := die + 32 * tier + 64 * idx
def granDie (g : Nat) : Nat := g % 32
def granTier (g : Nat) : Nat := g / 32 % 2

def lpBase : Nat := 2 ^ 20

/-- The granule a guest granule maps to before any MAP2, UNMAP2 or MOVE. -/
def State.layout2 (s : State) (n gg : Nat) : Option Nat :=
  if gg < lpBase then
    match (s.quartosOf n)[gg / 8192]? with
    | some q => if gg % 8192 < 7936 then some (granule (q / 4) 0 (q % 4 * 8192 + gg % 8192)) else none
    | none => none
  else match (s.quartosOf n)[(gg - lpBase) / 32768]? with
    | some q => some (granule (q / 4) 1 (q % 4 * 32768 + (gg - lpBase) % 32768))
    | none => none

/-- What a second-stage table word says. -/
def State.read2 (s : State) (n gg word : Nat) : Option Nat :=
  if word = 0 then s.layout2 n gg else if word = 1 then none else some (word - 2)

/-- Second stage as the tables stand. -/
def State.stage2 (s : State) (n gg : Nat) : Option Nat := s.read2 n gg (tget 0 (s.fn n).s2 gg)

/-- Second stage as a lookup may find it while a command on the granule is in flight (R266, R267). -/
def State.look2 (s : State) (n gg : Nat) : Option Nat :=
  match s.oldMaps.find? fun o => match o.s2 with | some (n', g', _) => n' == n && g' == gg | none => false with
  | some o => match o.s2 with
    | some (_, _, w) => if Config.oldPairing (2 * s.fresh + 1) then s.read2 n gg w else s.stage2 n gg
    | none => s.stage2 n gg
  | none => s.stage2 n gg

/-! ### First stage -/

/-- Size rounded up to 64 KiB (R261). -/
def footprint (size : Nat) : Nat := cdiv size 65536 * 65536

/-- An object's page size (R261). -/
def pageSize (size : Nat) : Nat :=
  if footprint size % 2 ^ 30 = 0 then 2 ^ 30 else if footprint size % 2 ^ 21 = 0 then 2 ^ 21 else 65536

/-- Kinds and tiers that are paged (R261). -/
def Made.paged (m : Made) : Bool :=
  (m.kind == kMemo && (m.tier == 2 || m.tier == 3 || m.tier == 4)) || m.kind == kCode || m.kind == kMull

/-- First stage as a lookup may find it (R266, R267). -/
def State.look1 (s : State) (i p : Nat) : Page :=
  let cur := tget .own (s.madeN i).pages p
  match s.oldMaps.find? fun o => match o.s1 with | some (i', p', _) => i' == i && p' == p | none => false with
  | some o => match o.s1 with
    | some (_, _, old) => if Config.oldPairing (2 * s.fresh) then old else cur
    | none => cur
  | none => cur

/-- Why an access has no place: cause (R110) and tinfo. -/
structure XErr where
  cause : Nat
  tinfo : Nat
  /-- Offset of the first byte of the piece that failed. -/
  off : Nat := 0
  deriving DecidableEq, Repr

def rwInfo (write fetch : Bool) : Nat := (if write then 1 else 0) + (if fetch then 2 else 0)

/-- Where byte `off` of the node's object stands, for an access by context `c`: PAGE_FAULT_S1,
PAGE_FAULT_S2 and WORLD in that order (R113). -/
def State.place (s : State) (c : Nat) (n : Node) (off : Nat) (write fetch : Bool) : Except XErr Place :=
  let sec := s.ctxWorld c
  match n with
  | .made i =>
    let m := s.madeN i
    if m.paged then
      let ps := pageSize m.size
      let p := off / ps
      let atFrame (f : Nat) : Except XErr Place :=
        let ga := f * 65536 + off % ps
        match s.look2 m.fn (ga / 2 ^ 21) with
        | none => .error { cause := 0x19, tinfo := rwInfo write fetch }
        | some g =>
          if s.world 5 g && !sec then .error { cause := 0x1A, tinfo := g }
          else .ok { addr := g * 2 ^ 21 + ga % 2 ^ 21, unit := some (m.fn, ga / 65536) }
      match s.look1 i p with
      | .absent => .error { cause := 0x18, tinfo := rwInfo write fetch }
      | .zone => .error { cause := 0x18, tinfo := rwInfo write fetch + 4 }
      | .frame f => atFrame f
      | .own => if m.kind = kMemo ∧ m.tier = 4 then .ok { addr := ownAddr i off }
                else atFrame (m.base + p * (ps / 65536))
    else .ok { addr := ownAddr i off }
  | _ => match nodePad n with
    | some p =>
      let (k, x) := nodeBlock 0 n
      if s.world k x && !sec then .error { cause := 0x1A, tinfo := x } else .ok { addr := padAddr p off }
    | none => .ok { addr := ownAddr (nodeId n + 2 ^ 40) off }

/-- [off, off + n) cut at 64-byte lines. -/
def segs (off : Nat) : Nat → Nat → List (Nat × Nat)
  | 0, _ => []
  | fuel + 1, n =>
    if n = 0 then [] else
    let k := min n (64 - off % 64)
    (off, k) :: segs (off + k) fuel (n - k)

/-- The lines' pieces of an access. -/
def pieces (off n : Nat) : List (Nat × Nat) := segs off (n / 64 + 2) n

/-- Places of every piece, or the error that R113 takes first: a first-stage fault of any piece, then a second-stage
fault of any, then WORLD (their codes rise in that order), each of the lowest piece that has it. -/
def State.places (s : State) (c : Nat) (n : Node) (write fetch : Bool) :
    List (Nat × Nat) → Except XErr (List (Place × Nat))
  | [] => .ok []
  | (o, k) :: r => match s.place c n o write fetch, s.places c n write fetch r with
    | .ok p, .ok l => .ok ((p, k) :: l)
    | .ok _, .error e => .error e
    | .error e, .ok _ => .error { e with off := o }
    | .error e, .error f => .error (if f.cause < e.cause then f else { e with off := o })

/-- Reads the bytes at the places. -/
def State.peekPlaces (s : State) (l : List (Place × Nat)) : List Byte :=
  l.flatMap fun (p, k) => s.peek p.addr k

/-- Marks a unit dirty where its function tracks writes (R331). -/
def State.dirty (s : State) (u : Option (Nat × Nat)) : State :=
  match u with
  | some (n, x) =>
    let m := (s.fn n).migr
    if 1 ≤ m.st ∧ m.st ≤ 3 ∧ x ∈ m.clean then
      s.updFn n fun f => { f with migr := { f.migr with clean := f.migr.clean.filter (· != x) } }
    else s
  | none => s

/-- Marks `cnt` units from u on dirty (R331). -/
def State.dirtyUnits (s : State) (n u cnt : Nat) : State :=
  let m := (s.fn n).migr
  if 1 ≤ m.st ∧ m.st ≤ 3 then
    s.updFn n fun f => { f with migr := { f.migr with clean := f.migr.clean.filter fun x => !(decide (u ≤ x) && decide (x < u + cnt)) } }
  else s

/-- Writes bytes at the places. -/
def State.pokePlaces (s : State) : List (Place × Nat) → List Byte → State
  | [], _ => s
  | (p, k) :: r, bs => ((s.poke p.addr (bs.take k)).dirty p.unit).pokePlaces r (bs.drop k)

/-- The object address whose 64-byte lines races name (R51): a home line has one. -/
def objAddr (n : Node) (off : Nat) : Nat :=
  match n with
  | .made i => ownAddr i off
  | _ => match nodePad n with
    | some p => padAddr p off
    | none => ownAddr (nodeId n + 2 ^ 40) off

/-! ### Allocation of an object's own frames -/

/-- The function's shares on a die and tier, as first frame and count. -/
def State.shares (s : State) (n die tier : Nat) : List (Nat × Nat) :=
  (s.quartosOf n).zipIdx.filterMap fun (q, j) =>
    if q / 4 = die then
      some (if tier = 3 then ((lpBase + j * 32768) * 32, 32768 * 32) else (j * 8192 * 32, 7936 * 32))
    else none

/-- Lowest aligned run of `cnt` frames free of runs, in one of the function's shares (R257: FULL). -/
def State.findRun (s : State) (n die tier cnt align : Nat) : Option Nat :=
  let runs := (s.fn n).runs
  let up (f : Nat) : Nat := cdiv f align * align
  let cands := (s.shares n die tier).flatMap fun (st, len) =>
    ((up st) :: runs.map fun r => up (r.1 + r.2)).filter fun f =>
      decide (st ≤ f) && decide (f + cnt ≤ st + len)
        && runs.all (fun r => decide (f + cnt ≤ r.1) || decide (r.1 + r.2 ≤ f))
        && (s.fn n).s2.all fun e => decide ((e.1 + 1) * 32 ≤ f) || decide (f + cnt ≤ e.1 * 32)
  cands.foldl (fun best f => match best with
    | some b => some (min b f)
    | none => some f) none

/-- Makes a node with storage for `m.size` bytes. Its bytes read as unwritten ones do, and its units are dirty (R331). -/
def State.make (s : State) (m : Made) (named : Option (Node × List Byte × Option Nat)) : Option (Nat × State) :=
  let i := s.nextNode
  let needs := m.paged && !(m.kind == kMemo && m.tier == 4) && m.kind != kMull
  let cnt := footprint m.size / 65536
  let finish (s : State) (m : Made) : Nat × State :=
    let s := { s with nextNode := i + 1, made := tset {} s.made i m }
    (i, match named with
      | some (d, nm, only) => { s with names := s.names ++ [{ dir := d, name := nm, node := .made i, only := only }] }
      | none => s)
  if needs then
    match s.findRun m.fn m.home m.tier cnt (pageSize m.size / 65536) with
    | none => none
    | some f =>
      let m := { m with base := f }
      let s := s.updFn m.fn fun x => { x with runs := (f, cnt) :: x.runs }
      let s := (List.range (cnt / 32 + 2)).foldl (fun s k =>
        let lo := max f ((f / 32 + k) * 32)
        let hi := min (f + cnt) ((f / 32 + k + 1) * 32)
        match s.stage2 m.fn (f / 32 + k) with
        | some g => if lo < hi then s.wipe (g * 2 ^ 21 + lo % 32 * 65536) ((hi - lo) * 65536) else s
        | none => s) s
      some (finish (s.dirtyUnits m.fn f cnt) m)
  else some (finish s m)

/-- Ends a made object: its frames, names and pages go (R253). -/
def State.unmake (s : State) (i : Nat) : State :=
  let m := s.madeN i
  let s := s.updFn m.fn fun x => { x with runs := x.runs.filter fun r => !(r.1 == m.base && m.paged) }
  let s := s.wipe (ownAddr i 0) (2 ^ 44)
  { s with made := tdrop (· == i) s.made, names := s.names.filter fun e => e.node ≠ .made i,
           lines := tdrop (fun l => decide (ownAddr i 0 ≤ l * 64) && decide (l * 64 < ownAddr (i + 1) 0)) s.lines }

/-- Frees a handle entry (R244): a frame handle is held no more (R35), and an object without a name goes with its last
handle (R253). -/
def State.freeHandle (s : State) (c k : Nat) : State :=
  let h := s.hent c k
  let gone : HEntry := if h.gen + 1 > 0xFFF then { state := 3, gen := h.gen } else { state := 0, gen := h.gen + 1 }
  let s := s.setHent c k gone
  let s := if c < 65536 then s.updCtx c fun x => { x with frames := tkeep (fun _ i => i != k) x.frames } else s
  match h.node with
  | .made i => if !(s.madeN i).named && s.handlesOn h.node == 0 then s.unmake i else s
  | _ => s

end Sys2Proof.Machine
end

