-- ==== Sys2Proof/Machine/Order.lean ====
section
/-! DEFINITION. Parties, edges, publication and race checking (R45 to R56). A line is named by the
64-byte block of its object (`objAddr`), so its home is one. -/

namespace Sys2Proof.Machine

/-! ### Scopes (R48). Codes of R80: 0 tile, 1 clu, 2 die, 3 mod, 4 sys. -/

/-- Whether a party at `b` lies inside scope `lvl` anchored at `a`. -/
def locIn (lvl : Nat) (a b : Loc) : Bool :=
  match lvl with
  | 0 => a.width == 0 && b.width == 0 && padOf a.core == padOf b.core
  | 1 => decide (a.width ≤ 1) && decide (b.width ≤ 1) && quartoOf a.core == quartoOf b.core
  | 2 => decide (a.width ≤ 2) && decide (b.width ≤ 2) && coreDie a.core == coreDie b.core
  | 3 => decide (a.width ≤ 3) && decide (b.width ≤ 3)
  | _ => true

/-! ### Access kinds -/

def aRead : Nat := 0
def aWrite : Nat := 1
def aAtomR : Nat := 2
def aAtomW : Nat := 3

def writes (k : Nat) : Bool := k == aWrite || k == aAtomW
def plain (k : Nat) : Bool := k == aRead || k == aWrite

/-- Two kinds that R51 orders or catches: one writes and one is plain. -/
def clash (a b : Nat) : Bool := (writes a || writes b) && (plain a || plain b)

/-- Lines of [off, off + n) of an object. -/
def linesOf (n : Node) (off len : Nat) : List Nat :=
  if len = 0 then []
  else (List.range ((objAddr n off + len - 1) / 64 - objAddr n off / 64 + 1)).map (objAddr n off / 64 + ·)

/-- The access that a new one by `p`, knowing `k`, races with at the line (R51): a clash that nothing
orders. Where several are such, the most recently recorded one: a DESIGN CHOICE (log 173), as R51 names one partner. -/
def State.raceWith (s : State) (k : Know) (p kind line : Nat) : Option LineAcc :=
  (tget [] s.lines line).find? fun a =>
    a.party != p && clash a.kind kind && !k.contains (line, a.id)

def State.raceAt (s : State) (p kind line : Nat) : Option LineAcc := s.raceWith (s.party p).know p kind line

/-- The first line, from the lowest, at which the access races, with the partner. -/
def State.race (s : State) (p kind : Nat) : List Nat → Option (Nat × LineAcc)
  | [] => none
  | l :: r => match s.raceAt p kind l with
    | some a => some (l, a)
    | none => s.race p kind r

/-- Adds without repeats. -/
def addKnow (k : Know) (new : Know) : Know := new.foldl (fun acc x => if acc.contains x then acc else x :: acc) k
def addLines (k : List Nat) (new : List Nat) : List Nat := new.foldl (fun acc x => if acc.contains x then acc else x :: acc) k

/-- Records an access at one line. A plain write stands for every access ordered before it. -/
def State.touch (s : State) (p : Nat) (who : BitVec 64) (kind line : Nat) : State :=
  let old := tget [] s.lines line
  let a : LineAcc := { party := p, kind := kind, id := s.nextAcc, who := who }
  let rest := if kind = aWrite then [] else old.filter fun x => !(x.party == p && x.kind == kind)
  let q := s.party p
  let gone := (old.filter fun x => x.party == p && x.kind == kind).map fun x => (line, x.id)
  { s with
    nextAcc := s.nextAcc + 1
    lines := tset [] s.lines line (a :: rest)
    parties := tset {} s.parties p
      { know := (line, s.nextAcc) :: q.know.filter (fun x => !gone.contains x)
        sinceRel := addLines q.sinceRel [line]
        stored := if writes kind then addLines q.stored [line] else q.stored } }

def State.touchAll (s : State) (p : Nat) (who : BitVec 64) (kind : Nat) (ls : List Nat) : State :=
  ls.foldl (fun s l => s.touch p who kind l) s

/-- What a full edge carries from a party (R47). -/
def State.carry (s : State) (p : Nat) : Know := (s.party p).know

/-- A party receives what an edge carries (R47, R49). -/
def State.receive (s : State) (p : Nat) (k : Know) : State :=
  if k = [] then s else
  let q := s.party p
  s.setParty p { q with know := addKnow q.know k, sinceRel := addLines q.sinceRel (k.map (·.1)) }

/-- A new party, starting with what its edge carries. -/
def State.newParty (s : State) (k : Know) : Nat × State :=
  (s.nextParty, { s with nextParty := s.nextParty + 1 }.receive s.nextParty k)

/-- A party ends; what it accessed stays in the lines. -/
def State.endParty (s : State) (p : Nat) : State := { s with parties := tdrop (· == p) s.parties }

/-! ### Synchronisation variables (R46, R49) -/

def State.var (s : State) (a : Nat) : SyncVar := tget {} s.vars a
def State.setVar (s : State) (a : Nat) (v : SyncVar) : State := { s with vars := tset {} s.vars a v }

/-- The word after a release by `p`, which has recorded `lines` under it. A store's release is the one that an
acquire may read from then on; a read-modify-write follows every release before it. -/
def SyncVar.released (v : SyncVar) (size p : Nat) (lines : List Nat) (h : RelHead) (rmw : Bool) : SyncVar :=
  { size := size, heads := if rmw then v.past ++ [h] else [h], past := v.past ++ [h],
    recorded := tset [] v.recorded p lines }

/-- A release at the word by `p`, which knows `know` and has not yet released `pub`: it records those lines, and
carries what `p` knows of every line that it has recorded under the word (R49, R50). -/
def State.releaseKnow (s : State) (p : Nat) (loc : Loc) (scope a size : Nat) (rmw : Bool) (know : Know) (pub : List Nat) : State :=
  let v := s.var a
  let lines := addLines (tget [] v.recorded p) pub
  s.setVar a (v.released size p lines { loc := loc, scope := scope, carry := know.filter fun x => lines.contains x.1 } rmw)

/-- A release by the party as it stands. -/
def State.release (s : State) (p : Nat) (loc : Loc) (scope a size : Nat) (rmw : Bool) : State :=
  let q := s.party p
  (s.releaseKnow p loc scope a size rmw q.know q.sinceRel).setParty p { q with sinceRel := [] }

/-- A read-modify-write that is no release: what reads it synchronises with every release before it (R46). -/
def State.rmwVar (s : State) (a : Nat) : State := s.setVar a { s.var a with heads := (s.var a).past }

/-- An acquire by `p` of the word: it receives from each release it synchronises with whose scope and
its own agree (R48). A word is named by its address: an access of 4 bytes at a release of 8 reads the same variable, and
the other way round (DESIGN CHOICE, log 201). -/
def State.acquire (s : State) (p : Nat) (loc : Loc) (scope a : Nat) : State :=
  (s.var a).heads.foldl (fun s h =>
    if locIn h.scope h.loc loc && locIn scope loc h.loc then s.receive p h.carry else s) s

/-- The die that is home of a line. -/
def State.lineDie (s : State) (l : Nat) : Nat :=
  let a := l * 64
  if a < 2 ^ 45 then padDie ((a - 2 ^ 44) / 2 ^ 21) else s.nodeHome (.made (a / 2 ^ 44 - 2))

/-- FFLAG's release (R46, R49, R55): it records every line since the last release, as any release does, and with them
every line that `p` has stored to the flag's die; it carries what is recorded under the flag (DEDUCED, log 175). -/
def State.releaseFlag (s : State) (p : Nat) (loc : Loc) (scope a size die : Nat) : State :=
  let q := s.party p
  let lines := addLines q.sinceRel (q.stored.filter fun l => s.lineDie l == die)
  (s.releaseKnow p loc scope a size false q.know lines).setParty p { q with sinceRel := [] }

/-- A store that is no release ends what acquires of the words it overlaps may synchronise with. -/
def State.overwrite (s : State) (a len : Nat) : State :=
  { s with vars := tmap {} (fun k v =>
      if decide (k < a + len) && decide (a < k + v.size) then { v with heads := [] } else v) s.vars }

/-! ### Descriptions of parties in race records (R51) -/

def whoWord (pstart phidx pkind pcore : Nat) : BitVec 64 :=
  BitVec.ofNat 64 (pstart % 2 ^ 32 * 2 ^ 32 + phidx % 65536 * 65536 + pkind * 4096 + pcore % 4096)

end Sys2Proof.Machine
end

