-- ==== Sys2Proof/Machine/Report.lean ====
section
/-! DEFINITION. What the context's tables say, messages, trace records, fault records and dispatch fault records,
each formed once for every caller (R24 to R27, R34, R43, R111, R337 to R340). -/

namespace Sys2Proof.Machine

/-! ### The tables a context's own registers name (R325, R326) -/

/-- Bytes of an object that a context's handle names, as hardware tables read them; `none` where the
handle or the place is missing. -/
def State.tableRead (s : State) (c handle off n : Nat) : Option (List Byte) :=
  let h := s.hent c handle
  if h.used && decide (off + n ≤ h.size) then
    match s.places c h.node false false (pieces off n) with
    | .ok l => some (s.peekPlaces l)
    | .error _ => none
  else none

/-- The context whose tables map a coordinate word: a host context uses its hypervisor's (R278). -/
def State.hypOf (s : State) (n : Nat) : Option Nat :=
  (s.ctxs.find? fun e => e.2.live && e.2.fn == n && e.2.priv == 2).map (·.1)

/-- The physical core that logical word `w` names under context c's tables; `none` where it is unmapped
(R43, R326). -/
def State.mapCore (s : State) (c w : Nat) : Option Nat :=
  if 4096 ≤ w then none else
  match s.tableRead c (bits (s.ctx c).coretab.toNat 0 20) (2 * w) 2,
        s.tableRead c (bits (s.ctx c).routetab.toNat 0 20) (w % 32) 1 with
  | some cb, some rb =>
    let ce := natOfBytes cb
    let re := natOfBytes rb
    if bitOn ce 15 && bitOn re 7 then
      let p := coreOf (re % 32) (ce % 32) (bits ce 5 2)
      if bits ce 5 2 = 3 ∧ 4 ≤ ce % 32 then none
      else if s.holds (s.ctx c).fn (quartoOf p) then some p else none
    else none
  | _, _ => none

/-- The logical word under which context c names a service core; its physical word where none does. -/
def State.svcWord (s : State) (c core : Nat) : Nat :=
  match (List.range 128).find? fun i => s.mapCore c (i % 32 + 32 * (i / 32) + 3072) == some core with
  | some i => i % 32 + 32 * (i / 32) + 3072
  | none => core

/-- Handler table entry i of a context, 512 bits (R24); `none` at or beyond htsize, and where hbase's handle or the
entry's page cannot be read (DESIGN CHOICE, log 170). -/
def State.handler (s : State) (c i : Nat) : Option Nat :=
  if i < (s.ctx c).htsize.toNat % 65536 then
    (s.tableRead c (bits (s.ctx c).hbase.toNat 0 20) (64 * i) 64).map natOfBytes
  else none

/-! ### Messages (R26, R168) -/

/-- A message header. -/
def mkHdr (prio : Nat) (boosted mcast : Bool) (len hidx src dst ts : Nat) : BitVec 128 :=
  BitVec.ofNat 128 (ts % 2 ^ 64 + dst % 65536 * 2 ^ 64 + src % 65536 * 2 ^ 80 + hidx % 65536 * 2 ^ 96
    + len % 256 * 2 ^ 112 + prio % 8 * 2 ^ 120 + boosted.toNat * 2 ^ 123 + mcast.toNat * 2 ^ 124)

def hdrLen (h : BitVec 128) : Nat := bits h.toNat 112 8
def hdrHidx (h : BitVec 128) : Nat := bits h.toNat 96 16
def hdrPrio (h : BitVec 128) : Nat := bits h.toNat 120 3
def hdrBoosted (h : BitVec 128) : Bool := bitOn h.toNat 123
def hdrSrc (h : BitVec 128) : Nat := bits h.toNat 80 16
def hdrDst (h : BitVec 128) : Nat := bits h.toNat 64 16
def hdrTs (h : BitVec 128) : Nat := bits h.toNat 0 64

/-- PRIO of a handler entry; an index at or beyond htsize gives 0 (R168). -/
def State.hPrio (s : State) (c i : Nat) : Nat := match s.handler c i with
  | some e => bits e 54 3
  | none => 0

/-- A record sets out for its core, and takes its place in the order of sending unless it has one. -/
def State.post (s : State) (r : Rec) : State :=
  { s with nextAcc := s.nextAcc + 1, net := s.net ++ [{ r with flit := if r.flit = 0 then s.nextAcc else r.flit }] }

/-! ### Order on the links (R167, R274, R276, R279) -/

/-- The class in which a record travels: a message's PRIO; continuations that a JOIN posts, which have none, travel in one
class of their own (DESIGN CHOICE, log 189). -/
def Rec.class_ (r : Rec) : Nat := if r.isMsg then hdrPrio r.hdr else 8

/-- The way of what crosses the torus or comes down from a switch die: where it was sent from, the die it goes to, and
its class; none for what stays on its die. Whatever has one way arrives in the order of sending. -/
abbrev Way := Option (Nat × Nat × Nat)

def Rec.way (r : Rec) : Way :=
  r.sdie.bind fun d => if d = coreDie r.core then none else some (d, coreDie r.core, r.class_)

/-- A done word's way, at priority 7 (R41). -/
def State.doneWay (s : State) (m : DoneMsg) : Way :=
  let at_ (w : Nat) : Option Nat := ((s.launch m.launch).cores.find? fun c => c.2 == w).map fun c => coreDie c.1
  match at_ m.src, at_ m.dst with
  | some a, some b => if a = b then none else some (a, b, 7)
  | _, _ => none

/-- A result's way, down from the root's switch die (R276). -/
def State.resultWay (s : State) (x : Result) : Way := (s.mapCore x.ctx x.member).map fun core => (32 + x.sw, coreDie core, 7)

/-- Whether something that was sent the same way before place n is still on it. -/
def State.wayBusy (s : State) (w : Way) (n : Nat) : Bool :=
  w.isSome && (s.net.any (fun x => x.way == w && decide (x.flit < n))
    || s.doneMsgs.any (fun m => s.doneWay m == w && decide (m.flit < n))
    || s.results.any fun x => s.resultWay x == w && decide (x.flit < n))

/-- Whether message x of the same activation to the same core, sent earlier, arrives before record r (R167, R279). -/
def Rec.behind (r x : Rec) : Bool :=
  r.isMsg && x.isMsg && r.sender != 0 && x.sender == r.sender && x.core == r.core && decide (x.flit < r.flit)

/-- Whether record r must wait for one that was sent before it. -/
def State.recWaits (s : State) (r : Rec) : Bool := s.net.any r.behind || s.wayBusy r.way r.flit

/-- A done word sets out (R41, R42). -/
def State.postDone (s : State) (m : DoneMsg) : State :=
  { s with nextAcc := s.nextAcc + 1, doneMsgs := s.doneMsgs ++ [{ m with flit := s.nextAcc }] }

/-! ### Trace records (R337 to R340) -/

/-- Writes one 32-byte record into the die's ring, or drops and counts it where the ring is full, as one of no records
always is, or the slot's page does not translate: WRPTR passes no record that was not written (R338, R339; log 187). -/
def State.traceWrite (s : State) (die rec_ : Nat) : State :=
  let u := s.traceU die
  let n := bits u.buf.toNat 0 32
  if n ≤ u.wrptr - u.rdptr then s.setTrace die { u with lost := min (u.lost + 1) (2 ^ 64 - 1), gap := u.gap + 1 }
  else
    let h := s.hent u.bufCtx (bits u.buf.toNat 44 20)
    let put (s : State) (i v : Nat) : Option State :=
      match s.places u.bufCtx h.node true false (pieces (i % n * 32) 32) with
      | .ok l => some (s.pokePlaces l (bytesOfNat 32 v))
      | .error _ => none
    let drop (s : State) (u : Trace) (gap : Nat) : State :=
      s.setTrace die { u with lost := min (u.lost + 1) (2 ^ 64 - 1), gap := gap }
    if u.gap = 0 then match put s u.wrptr rec_ with
      | some s => s.setTrace die { u with wrptr := u.wrptr + 1 }
      | none => drop s u 1
    else
      let lostRec := s.ts % 2 ^ 64 + 10 * 2 ^ 96 + die * 2 ^ 109 + u.gap % 2 ^ 64 * 2 ^ 192
      match put s u.wrptr lostRec with
      | none => drop s u (u.gap + 1)
      | some s =>
        let u := { u with wrptr := u.wrptr + 1 }
        if n ≤ u.wrptr - u.rdptr then drop s u 1
        else match put s u.wrptr rec_ with
          | some s => s.setTrace die { u with wrptr := u.wrptr + 1, gap := 0 }
          | none => drop s u 1

/-- Brings context c into the STOP word, with what is known of its stop. -/
def Trace.aim (u : Trace) (c : Nat) : Trace :=
  if u.stopCtx = c then u
  else
    let rest := u.others.filter (·.1 != c)
    { u with
      others := if u.stopReq || u.stopped then rest ++ [(u.stopCtx, u.stopped)] else rest
      stopReq := u.others.contains (c, false)
      stopped := u.others.contains (c, true)
      stopCtx := c }

/-- Whether a stop of context c on the die is requested or complete. -/
def Trace.holdsStop (u : Trace) (c : Nat) : Bool :=
  ((u.stopReq || u.stopped) && u.stopCtx == c) || u.others.any (·.1 == c)

/-- Whether context c is stopped on the die. -/
def Trace.isStopped (u : Trace) (c : Nat) : Bool := (u.stopped && u.stopCtx == c) || u.others.contains (c, true)

/-- A stop of context c is requested. -/
def Trace.request (u : Trace) (c : Nat) : Trace :=
  let u := u.aim c
  if u.stopped then u else { u with stopReq := true }

/-- An event of R338: a record if CTL enables it, and a stop request if TRIG matches (R340); a match of a context that
is stopped has no effect (R344). -/
def State.traceEvent (s : State) (core thread event ctx hidx chan entry pc data : Nat) : State :=
  let die := coreDie core
  let u := s.traceU die
  let on := bitOn u.ctl.toNat event && (bits u.ctl.toNat 48 16 == 0xFFFF || bits u.ctl.toNat 48 16 == ctx)
  let r := s.ts % 2 ^ 64 + pc % 2 ^ 32 * 2 ^ 64 + event * 2 ^ 96 + die * 2 ^ 109 + coreTile core * 2 ^ 114
    + coreRole core * 2 ^ 119 + thread % 8 * 2 ^ 121 + hidx % 65536 * 2 ^ 124 + chan % 16 * 2 ^ 140
    + ctx % 65536 * 2 ^ 144 + entry % 2 ^ 32 * 2 ^ 160 + data % 2 ^ 64 * 2 ^ 192
  let s := if on then s.traceWrite die r else s
  let hit := bitOn (bits u.trig.toNat 0 16) event && bits u.trig.toNat 32 16 == ctx
    && (bits u.trig.toNat 48 16 == 0xFFFF || bits u.trig.toNat 48 16 == hidx)
  let u' := s.traceU die
  if hit && !u'.isStopped ctx then s.setTrace die (u'.request ctx) else s

/-- A trace event of a thread's activation. -/
def State.traceThread (s : State) (k event pc data : Nat) : State :=
  let t := s.thread k
  s.traceEvent (k / 8) k event t.ctx t.hidx t.chan t.entry pc data

/-! ### Fault records (R111) -/

/-- The receiving context and its vector register for a context's report: the governing supervisor, or
the partition's hypervisor (R111). -/
def State.faultTarget (s : State) (c : Nat) (hyp : Bool) : Option (Nat × Word) :=
  if hyp then
    match s.hypOf (s.ctxFn c) with
    | some h => some (h, (s.fn (s.ctxFn c)).hvvec)
    | none => none
  else if (s.ctx (s.ctx c).govern).live then some ((s.ctx c).govern, (s.ctx (s.ctx c).govern).tvec) else none

/-- The secure monitor, as the level above the hypervisor: a live context of level 3 with smvec (R109). -/
def State.monitor (s : State) : Option (Nat × Word) :=
  (s.ctxs.find? fun e => e.2.live && e.2.priv == 3).map fun e => (e.1, s.smvec)

/-- Who a kill of R111 is reported to: the supervisor that governs a user context, and a context above user itself,
by its own level's vector (DEDUCED, log 183). -/
def State.killTarget (s : State) (c : Nat) : Option (Nat × Word) :=
  match s.ctxPriv c with
  | 0 => s.faultTarget c false
  | 1 => if (s.ctx c).live then some (c, (s.ctx c).tvec) else none
  | 2 => s.faultTarget c true
  | _ => s.monitor

/-- What a fault record says (R111). -/
structure FaultRec where
  ctx : Nat
  lcore : Nat
  thread : Nat := 0
  hidx : Nat := 0
  actstart : Nat := 0
  cause : Nat
  taddr : Nat := 0
  tinfo : Nat := 0
  tepc : Nat := 0
  fseq : Nat
  killed : Bool := false
  launch : Option Nat := none

def FaultRec.payload (f : FaultRec) : List Byte :=
  bytesOfNat 64 (f.actstart % 2 ^ 64 + f.lcore % 4096 * 2 ^ 64 + f.thread % 8 * 2 ^ 76 + f.hidx % 65536 * 2 ^ 80
    + f.cause % 256 * 2 ^ 96 + f.killed.toNat * 2 ^ 104 + f.ctx % 65536 * 2 ^ 112 + f.tepc % 2 ^ 32 * 2 ^ 128
    + f.fseq % 2 ^ 32 * 2 ^ 160 + f.taddr % 2 ^ 64 * 2 ^ 192 + f.tinfo % 2 ^ 64 * 2 ^ 256)

/-- Posts a fault record to the service core beside `quarto`; nothing where no handler receives it. -/
def State.postFault (s : State) (target : Option (Nat × Word)) (quarto : Nat) (f : FaultRec) : State :=
  match target with
  | none => s
  | some (r, vec) =>
    let fhidx := bits vec.toNat 32 16
    if fhidx = 0xFFFF then s else
    let core := svcOf quarto
    s.post { isMsg := true, hdr := mkHdr 7 false false 16 fhidx f.lcore (s.svcWord r core) s.ts,
             payload := f.payload, hidx := fhidx, chan := bits vec.toNat 48 4, chanFixed := true, ctx := r,
             core := core, lcore := s.svcWord r core, key := 0xD000, sendTs := s.ts, launch := f.launch }

/-- Whether a report to the target starts a handler. -/
def hasHandler : Option (Nat × Word) → Bool
  | some (_, vec) => bits vec.toNat 32 16 != 0xFFFF
  | none => false

/-- The core's next fault sequence number (R111). -/
def State.takeFseq (s : State) (core : Nat) : Nat × State :=
  ((s.core core).fseq, s.updCore core fun c => { c with fseq := (c.fseq + 1) % 2 ^ 32 })

/-! ### Dispatch fault records (R34) -/

/-- Marks the launch's history at a core (R42). Bits of [15:12]: 8 TRAPPED, 4 WATCHDOG, 2 DISPATCH,
1 DUPDONE. -/
def State.history (s : State) (l : Option Nat) (core bit : Nat) : State :=
  match l with
  | some i => s.updLaunch i fun x => { x with history := tset 0 x.history core (tget 0 x.history core ||| BitVec.ofNat 4 bit) }
  | none => s

/-- A dispatch fault record that no handler receives is dropped and counted, with the correctable errors of its
die (R34, R349). -/
def State.dropFault (s : State) (die : Nat) : State :=
  { s with dropped := s.dropped + 1, corrected := tset 0 s.corrected die (tget 0 s.corrected die + 1) }

/-- A dispatch fault: kind, the context concerned, the physical core concerned with its word (the core of
the quarto that receives it), the record's handler and channel, its bytes and INFO, the handler's ENTRY; the launch of
what was refused, to which the record belongs as one that it causes to be posted (R126; DEDUCED, log 228); and the die
that found it, where that may be another. One whose receiving supervisor, or
whose partition's hypervisor, is no live context is dropped and counted too (DESIGN CHOICE, log 202). -/
def State.dispatchFaultOf (s : State) (kind ctx core lcore hidx chan data info entry : Nat) (launch : Option Nat)
    (die : Nat) : State :=
  let s := s.traceEvent core 0 7 ctx hidx chan entry 0 (kind + data % 2 ^ 56 * 256)
  let target : Option (Nat × Word) :=
    if 65536 ≤ ctx then none
    else if (s.ctx ctx).priv = 0 then
      if (s.ctx (s.ctx ctx).govern).live then some ((s.ctx ctx).govern, (s.ctx (s.ctx ctx).govern).dvec) else none
    else if (s.ctx ctx).priv = 1 then (s.hypOf (s.ctx ctx).fn).map fun h => (h, (s.fn (s.ctx ctx).fn).hdvec)
    else none
  match target with
  | none => s.dropFault (coreDie core)
  | some (r, vec) =>
    let hidx := bits vec.toNat 32 16
    if hidx = 0xFFFF then s.dropFault (coreDie core) else
    let sc := svcOf (quartoOf core)
    let dseq := (s.core sc).dseq
    let s := s.updCore sc fun c => { c with dseq := (c.dseq + 1) % 2 ^ 64 }
    let w := s.svcWord r sc
    s.post { isMsg := true, hdr := mkHdr 7 false false 16 hidx lcore w s.ts,
             payload := bytesOfNat 64 (dseq % 2 ^ 64 + lcore % 4096 * 2 ^ 64 + kind % 256 * 2 ^ 96
               + ctx % 65536 * 2 ^ 112 + s.ts % 2 ^ 64 * 2 ^ 256 + info % 2 ^ 64 * 2 ^ 320 + data % 2 ^ 128 * 2 ^ 384),
             hidx := hidx, chan := bits vec.toNat 48 4, chanFixed := true, ctx := r, core := sc, lcore := w,
             key := 0xD000, sendTs := s.ts, launch := launch, sdie := some die }

/-- A dispatch fault of no record of a handler. -/
def State.dispatchFault (s : State) (kind ctx core lcore data info : Nat) (launch : Option Nat) (die : Nat) : State :=
  s.dispatchFaultOf kind ctx core lcore 0 0 data info 0 launch die

end Sys2Proof.Machine
end

