-- ==== Sys2Proof/Machine/Arrive.lean ====
section
/-! DEFINITION. Handler table entries, whose records a core looks at, and a record's arrival at its channel
(R24, R26 to R29, R34, R327, R341). -/

namespace Sys2Proof.Machine

/-! ### Fields of a handler table entry (R24) -/

/-- A handler entry with its reserved fields zero (R7). -/
def keepEntry (e : Nat) : Nat :=
  [(308, 12), (283, 1), (271, 1), (194, 30), (174, 2), (159, 1), (135, 1), (111, 1), (87, 1), (62, 2)].foldl
    (fun e f => setBits e f.1 f.2 0) (e % 2 ^ 384)

def eENTRY (e : Nat) : Nat := bits e 0 32
def eCODEH (e : Nat) : Nat := bits e 32 20
def eROLE (e : Nat) : Nat := bits e 52 2
def ePRIO (e : Nat) : Nat := bits e 54 3
def eWDLOG (e : Nat) : Nat := bits e 57 5
def eFRAMEOFF (e : Nat) : Nat := bits e 256 15
def eFRAMESZ (e : Nat) : Nat := bits e 272 8
def eCTKIND (e : Nat) : Nat := bits e 280 3
def eCHAN (e : Nat) : Nat := bits e 284 4
def eCTHANDLE (e : Nat) : Nat := bits e 288 20
def eCTOFF (e : Nat) : Nat := bits e 320 32
def eSAVEIX (e : Nat) : Nat := bits e 352 16
def eRESTIX (e : Nat) : Nat := bits e 368 16

/-- A declared queue: its q register, its side, its count and its descriptor's pad offset. -/
structure QDecl where
  q : Nat
  prod : Bool
  cnt : Nat
  desc : Nat

/-- C0, C1, P0 and P1, where declared. -/
def qDecls (e : Nat) : List QDecl :=
  [(0, false, 86, 80, 64), (1, false, 110, 104, 88), (2, true, 134, 128, 112), (3, true, 158, 152, 136)].filterMap
    fun (q, prod, en, cnt, desc) =>
      if bitOn e en then some { q := q, prod := prod, cnt := bits e cnt 6, desc := 32 * bits e desc 16 } else none

/-- Cycles of the watchdog budget (R38). -/
def budget (e : Nat) : Nat := if eWDLOG e = 0 then 65536 else 2 ^ eWDLOG e

/-! ### Whose records a core looks at (R327) -/

/-- Whether function n is in FAULTED (R355). -/
def State.faulted (s : State) (n : Nat) : Bool := bitOn (s.fn n).errstat.toNat 0

/-- The context that holds the tile cores of a core's partition. -/
def State.runCtx (s : State) (core : Nat) : Option Nat :=
  (s.ownerOf (quartoOf core)).map fun n => (s.fn n).cur

/-- The queue of a channel that records of context c join: on a tile core each context has its own, saved with it
(R328). -/
def queueAt (core c : Nat) : Nat := if coreRole core = 3 then 0 else c

/-- Whether a record belongs to the queue of context c at a core. -/
def mineAt (core c : Nat) (r : Rec) : Bool := coreRole core == 3 || r.ctx == c

/-- The head of channel key `ch`. -/
def State.headOf (s : State) (ch : Nat) : Option Rec :=
  let core := ch / 16
  match s.runCtx core with
  | none => none
  | some c => (s.chan ch).onchip.find? (mineAt core c)

/-- Restore routines of the function still have to run, or run (R328). -/
def State.restoring (s : State) (n : Nat) : Bool :=
  s.cores.any (fun e => e.2.restore != [] && s.ownerOf (quartoOf e.1) == some n)
    || s.threads.any fun e => e.2.routine && (s.ctx e.2.ctx).fn == n

/-- Whether records of context c may fire at a core now: not stopped, faulted, migrating or between slices
(R327, R328, R331, R340, R353). -/
def State.mayFire (s : State) (core c : Nat) : Bool :=
  let n := (s.ctx c).fn
  let f := s.fn n
  let u := s.traceU (coreDie core)
  (s.ctx c).live && !(s.ctx c).stopped && !s.faulted n && f.migr.st != 3
    && !u.holdsStop c
    && (coreRole core == 3 || (f.cur == c && f.phase == .run && f.migr.st != 2 && !s.restoring n))

/-! ### Arrival (R26, R28, R29, R341) -/

/-- Records of a context's queue on chip, or all of them at a service core. -/
def countMine (core c : Nat) (l : List Rec) : Nat := l.countP (mineAt core c)

/-- A record's first 16 bytes: a message's header, or a continuation's control word and ARG (R27). -/
def Rec.head16 (r : Rec) : Nat :=
  if r.isMsg then r.hdr.toNat
  else r.hidx + r.chan * 2 ^ 16 + r.genarg.toNat * 2 ^ 24 + r.arg.toNat * 2 ^ 64

/-- ENTRY of the handler that a record names; 0 where it names none. -/
def State.entryAt (s : State) (r : Rec) : Nat := (s.handler r.ctx r.hidx).elim 0 eENTRY

/-- A discard at ingress or dispatch (R34, R42), on the channel that the record had joined, or 0. -/
def State.discard (s : State) (r : Rec) (chan kind info : Nat) : State :=
  (s.history r.launch r.core 2).dispatchFaultOf kind r.ctx r.core r.lcore r.hidx chan r.head16 info (s.entryAt r)
    r.launch (coreDie r.core)

/-- How a record stands in a backing object: 256 bytes, a message's header and payload, or a continuation's 32
bytes (R26, R27; DESIGN CHOICE, log 72). -/
def Rec.image (r : Rec) : List Byte :=
  let bytes := bytesOfNat 16 r.head16 ++ if r.isMsg then r.payload else bytesOfNat 16 r.frame.raw.toNat
  (bytes ++ List.replicate (256 - bytes.length) 0).take 256

/-- Where the next record stands in a channel's backing object; `none` where BACKH names no object that holds and
translates the place (DESIGN CHOICE, log 72). -/
def State.backPlaces (s : State) (c : Chan) : Option (List (Place × Nat)) :=
  let h := s.hent c.backCtx c.backH.toNat
  let off := 256 * (c.backAt % c.backDepth.toNat)
  if h.used && decide (off + 256 ≤ h.size) then
    match s.places c.backCtx h.node true false (pieces off 256) with
    | .ok l => some l
    | .error _ => none
  else none

/-- Copies an arriving message of the traced context into the capture ring, or drops and counts it where the ring is full
or the slot's page does not translate (R341; log 187). -/
def State.capture (s : State) (r : Rec) : State :=
  let die := coreDie r.core
  let u := s.traceU die
  let n := bits u.capbuf.toNat 0 32
  let who := bits u.ctl.toNat 48 16
  if !r.isMsg ∨ n = 0 ∨ !(who == r.ctx || who == 0xFFFF) then s
  else if n ≤ u.capptr - u.capFrom then s.setTrace die { u with lost := min (u.lost + 1) (2 ^ 64 - 1) }
  else
    let h := s.hent u.capCtx (bits u.capbuf.toNat 44 20)
    let bytes := bytesOfNat 16 r.hdr.toNat ++ r.payload
    let data := bytes ++ List.replicate (256 - bytes.length) 0
    match s.places u.capCtx h.node true false (pieces (u.capptr % n * 256) 256) with
    | .ok l => (s.pokePlaces l data).setTrace die { u with capptr := u.capptr + 1 }
    | .error _ => s.setTrace die { u with lost := min (u.lost + 1) (2 ^ 64 - 1) }

/-- A record joins a channel that has room for it: on chip, or else in the backing object behind those there
(R29); `none` where there is no room. A message of the traced context is captured as it joins (R341). -/
def State.takeIn (s : State) (ch : Nat) (r : Rec) : Option State :=
  let core := ch / 16
  let c := s.chan ch
  let back := countMine core r.ctx c.spilled
  if back = 0 ∧ countMine core r.ctx c.onchip < 64 then
    some ((s.capture r).setChan ch { c with onchip := c.onchip ++ [r] })
  else if back < c.backDepth.toNat then
    (s.backPlaces c).map fun l =>
      ((s.capture r).pokePlaces l r.image).setChan ch { c with spilled := c.spilled ++ [r], backAt := c.backAt + 1 }
  else none

/-- A record reaches its channel: it joins it, or waits in the ingress behind those that wait. CHAN_FULL's DATA is 0
where the first record held is a continuation, which has no header (DESIGN CHOICE, log 169). -/
def State.join (s : State) (ch : Nat) (r : Rec) : State :=
  let r := { r with arrTs := s.ts }
  let c := s.chan ch
  match if countMine (ch / 16) r.ctx c.ingress = 0 then s.takeIn ch r else none with
  | some s => s
  | none =>
    let q := queueAt (ch / 16) r.ctx
    let full := c.episodes.contains q
    let s := s.setChan ch { c with ingress := c.ingress ++ [r], episodes := if full then c.episodes else q :: c.episodes }
    if full then s
    else s.dispatchFaultOf 5 r.ctx (ch / 16) r.lcore r.hidx (ch % 16) (if r.isMsg then r.hdr.toNat else 0) (ch % 16)
      (s.entryAt r) r.launch (coreDie (ch / 16))

/-- The episodes of queues that hold nothing in the ingress any more are over (R29). -/
def Chan.trim (core : Nat) (c : Chan) : Chan :=
  { c with episodes := c.episodes.filter fun q => c.ingress.any fun r => queueAt core r.ctx == q }

/-- Records of a context's queue return from the backing object, in order, as on-chip places are free (R29). -/
def State.returnBack (s : State) (ch ctx : Nat) : State :=
  let c := s.chan ch
  let mine := mineAt (ch / 16) ctx
  let back := (c.spilled.filter mine).take (64 - c.onchip.countP mine)
  s.setChan ch { c with onchip := c.onchip ++ back, spilled := back.foldl List.erase c.spilled }

/-- Records of a context's queue leave the ingress as the channel has room, in the order of their arrival whatever their
class: R29 gives none among its buffers (DESIGN CHOICE, log 217). -/
def State.fromIngress (s : State) (ch : Nat) : List Rec → State
  | [] => s
  | r :: rs =>
    match s.takeIn ch { r with arrTs := s.ts } with
    | none => s
    | some t => (t.updChan ch fun c => ({ c with ingress := c.ingress.erase r }).trim (ch / 16)).fromIngress ch rs

/-- Waiting records move up while there is room (R29). -/
def State.refill (s : State) (ch ctx : Nat) : State :=
  let s := s.returnBack ch ctx
  s.fromIngress ch ((s.chan ch).ingress.filter (mineAt (ch / 16) ctx))

/-- A channel of the core without the records of context c. -/
def Chan.without (core c : Nat) (e : Chan) : Chan :=
  let kept (l : List Rec) : List Rec := l.filter (·.ctx != c)
  ({ e with onchip := kept e.onchip, spilled := kept e.spilled, ingress := kept e.ingress } : Chan).trim core

/-- The records of context c leave every channel, and those of the same queues that waited move up (R29, R353). -/
def State.dropRecs (s : State) (c : Nat) : State :=
  let keys := (s.chans.filter fun e => (e.2.onchip ++ e.2.spilled ++ e.2.ingress).any (·.ctx == c)).map (·.1)
  keys.foldl (fun s ch => (s.updChan ch (·.without (ch / 16) c)).refill ch c) s

/-- A record arrives at its die's ingress. One for a context that CODE_INTEGRITY has stopped is dropped with no fault,
whatever it is: R16 says so of completions alone (DESIGN CHOICE, log 197). -/
def State.arriveRec (s : State) (r : Rec) : State :=
  if !(s.ctx r.ctx).live || (s.ctx r.ctx).stopped || s.faulted (s.ctx r.ctx).fn then s
  else if r.isMsg && (decide (60 < hdrLen r.hdr) || bits r.hdr.toNat 125 3 != 0) then s.discard r 0 4 0
  else if r.isMsg then
    match s.handler r.ctx r.hidx with
    | none => s.discard r 0 1 r.hidx
    | some e => s.join (16 * r.core + if r.chanFixed then r.chan else eCHAN e) r
  else s.join (16 * r.core + r.chan) r

end Sys2Proof.Machine
end

