-- ==== Sys2Proof/Machine/Ops.lean ====
section
/-! DEFINITION. Queue descriptors, delay accounting, ending an activation, device errors, and taking a trap
(R36, R38, R110 to R114, R119, R173, R174, R335, R336, R353, R355), each once for every caller. -/

namespace Sys2Proof.Machine

/-! ### Queue descriptors (R173, R174) -/

/-- A queue descriptor as its 32 bytes stand. -/
structure Desc where
  base : Nat
  size : Nat
  slotlog : Nat
  head : Nat
  tail : Nat
  cheld : Nat
  pheld : Nat
  deriving DecidableEq, Repr

def descOf (x : Nat) : Desc :=
  { base := bits x 0 21, size := bits x 128 16, slotlog := bits x 144 4, head := bits x 160 32,
    tail := bits x 192 32, cheld := bits x 224 16, pheld := bits x 240 16 }

def State.desc (s : State) (pad off : Nat) : Desc := descOf (s.peekN (padAddr pad off) 32)

def Desc.filled (d : Desc) : Nat := (d.tail + 2 ^ 32 - d.head) % 2 ^ 32
def Desc.free (d : Desc) : Nat := d.size - d.filled
def Desc.slotBytes (d : Desc) : Nat := 2 ^ d.slotlog
/-- The pad offset of slot j of the count. -/
def Desc.slot (d : Desc) (j : Nat) : Nat := d.base + j % 2 ^ 32 % d.size * d.slotBytes

/-- A descriptor that R173 calls faulty, in a pad of the given size. -/
def Desc.faulty (d : Desc) (padsz : Nat) : Bool :=
  d.size == 0 || d.slotlog < 2 || 12 < d.slotlog || d.base % d.slotBytes != 0 || padsz < d.base + d.size * d.slotBytes

/-- Fields of a descriptor in its bytes: HEAD, TAIL, CHELD and PHELD. -/
def oHead : Nat := 20
def oTail : Nat := 24
def oCheld : Nat := 28
def oPheld : Nat := 30

/-- Sets CHELD or PHELD. -/
def State.setHeld (s : State) (pad off : Nat) (prod : Bool) (v : Nat) : State :=
  s.pokeN (padAddr pad (off + if prod then oPheld else oCheld)) 2 v

/-! ### Delay accounting (R335, R336) -/

def addSat64 (a b : Nat) : Nat := min (a + b) (2 ^ 64 - 1)

def Delay.add (d : Delay) (key tr wt run : Nat) : Delay :=
  { valid := true, key := key, count := min (d.count + 1) (2 ^ 32 - 1),
    maxTotal := max d.maxTotal (min (tr + wt + run) (2 ^ 32 - 1)),
    trans := addSat64 d.trans tr, wait := addSat64 d.wait wt, run := addSat64 d.run run }

/-- Updates the entry that holds the key, else the lowest free of 32, else the overflow bucket. -/
def DelayTab.add (d : DelayTab) (key tr wt run : Nat) : DelayTab :=
  match d.ents.findIdx? (·.key == key) with
  | some i => { d with ents := d.ents.modify i (·.add key tr wt run) }
  | none =>
    if d.ents.length < 32 then { d with ents := d.ents ++ [({} : Delay).add key tr wt run] }
    else { d with over_ := d.over_.add 0xFFFF tr wt run }

def delayKey (core ctx : Nat) : Nat := core * 131072 + ctx
def State.delayTab (s : State) (core ctx : Nat) : DelayTab := tget {} s.delays (delayKey core ctx)
def State.setDelayTab (s : State) (core ctx : Nat) (d : DelayTab) : State :=
  { s with delays := tset {} s.delays (delayKey core ctx) d }

/-- Counts an extra done-form END at a core (R42, R336). -/
def State.extraDone (s : State) (core ctx : Nat) : State :=
  let d := s.delayTab core ctx
  s.setDelayTab core ctx { d with extradone := min (d.extradone + 1) (2 ^ 32 - 1) }

/-! ### Ending an activation (R36, R38) -/

/-- The queue sides that an activation holds (R174). -/
def Thread.held (t : Thread) : List QReg :=
  (t.q.filter fun e => e.2.bound && decide (e.1 < 4) && e.2.left != 0).map (·.2)

/-- Who an activation is in a race record (R51). -/
def Thread.who (t : Thread) : BitVec 64 := whoWord t.actstart.toNat t.hidx 0 t.lcore

/-- Ends thread k's activation: queue sides held are returned, each by an atomic update of its descriptor (R173, R174),
its delay entry is updated, its trace record written, with the PC of the END that ended it or 0; its commands and stores
stand. A kill returns the sides whatever it finds there (DESIGN CHOICE, log 227). -/
def State.endActivation (s : State) (k : Nat) (done killed : Bool) : State :=
  let t := s.thread k
  let core := k / 8
  let s := t.held.foldl (fun s q =>
    (s.touchAll t.party t.who aAtomW (linesOf (padNode (padOf core)) q.desc 32)).setHeld (padOf core) q.desc q.prod 0) s
  let d := s.delayTab core t.ctx
  let fire := t.actstart.toNat
  let s := s.setDelayTab core t.ctx (d.add t.key (t.arrTs - t.sendTs) (fire - t.arrTs) (s.ts - fire))
  let s := s.traceThread k 4 (if killed then 0 else t.pc) (done.toNat + 2 * killed.toNat)
  -- an SFU request of the thread is squashed (R162)
  let s := { s with sfu := tmap [] (fun _ q => q.filter fun r => r.thread != k) s.sfu }
  (s.endParty t.party).setThread k {}

/-- Kills thread k's activation with the history bit of R42. -/
def State.kill (s : State) (k bit : Nat) : State :=
  (s.history (s.thread k).launch (k / 8) bit).endActivation k false true

/-- The fault record of thread k's activation, which belongs to its launch as one that it causes to be posted (R126;
DEDUCED, log 228). -/
def State.faultOf (s : State) (k cause addr info fseq : Nat) (killed : Bool) : FaultRec :=
  let t := s.thread k
  { ctx := t.ctx, lcore := t.lcore, thread := k % 8, hidx := t.hidx, actstart := t.actstart.toNat, cause := cause,
    taddr := addr, tinfo := info, tepc := t.pc, fseq := fseq, killed := killed, launch := t.launch }

/-- The trace record of a trap on thread k (R338). -/
def State.traceTrap (s : State) (k cause info : Nat) : State :=
  s.traceThread k 5 (s.thread k).pc (cause * 2 ^ 56 + info % 2 ^ 56)

/-- Kills thread k and posts its record with KILLED set (R111). -/
def State.killNote (s : State) (k cause addr info bit : Nat) : State :=
  let (q, s) := s.takeFseq (k / 8)
  let f := s.faultOf k cause addr info q true
  let tgt := s.killTarget (s.thread k).ctx
  (s.kill k bit).postFault tgt (quartoOf (k / 8)) f

/-- A trap on thread k that kills it (R111). -/
def State.killReport (s : State) (k cause info bit : Nat) : State :=
  (s.traceTrap k cause info).killNote k cause 0 info bit

/-! ### Device errors (R355) -/

/-- Sets ERRSTAT's FAULTED, CAUSE and UNIT and discards everything in flight in the partition. -/
def State.faultFn (s : State) (n cause unit : Nat) : State :=
  let mine (c : Nat) : Bool := s.ctxFn c == n
  let f := s.fn n
  let s := s.setFn n { f with
    errstat := w64 (setBits (setBits (f.errstat.toNat ||| 1) 8 8 cause) 16 16 unit)
    msi := 1 :: f.msi
    migr := if f.migr.st = 1 ∨ f.migr.st = 2 then { f.migr with st := 7 } else f.migr
    load := none
    lqs := tmap {} (fun _ q => { q with slots := [], busy := none }) f.lqs }
  let s := { s with
    threads := tkeep (fun _ t => !mine t.ctx) s.threads
    net := s.net.filter fun r => !mine r.ctx
    posted := s.posted.filter fun p => !mine p.ctx
    joins := s.joins.filter fun p => !mine p.ctx
    semvs := s.semvs.filter fun p => !mine p.ctx
    doneMsgs := s.doneMsgs.filter fun m => (s.launch m.launch).fn != n
    txns := tkeep (fun _ t => !mine t.ctx) s.txns
    launches := tkeep (fun _ l => l.fn != n) s.launches
    lforwards := s.lforwards.filter fun l => !mine l.rec_.ctx
    copies := tmap [] (fun _ q => q.filter fun c => !mine c.ctx) s.copies
    ctxs := tmap {} (fun _ c => if c.fn = n then
      { c with saved := tmap {} (fun _ x => { x with copies := [] }) c.saved } else c) s.ctxs
    port := s.port.filter fun p => !mine p.ctx
    quartos := tmap {} (fun _ q => { q with barrier := tkeep (fun c _ => !mine c) q.barrier }) s.quartos
    groups := tmap {} (fun _ g => { g with windows := g.windows.filter fun w => !mine w.ctx }) s.groups
    slots := s.slots.filter fun x => (s.group x.grp).windows.any fun w =>
      !mine w.ctx && decide ((x.seq + 2 ^ 32 - w.base) % 2 ^ 32 < w.w)
    pushes := s.pushes.filter fun x => !x.body.senders.any fun y => mine y.ctx
    results := s.results.filter fun x => !mine x.ctx
    sfu := tmap [] (fun _ q => q.filter fun r => !mine (s.thread r.thread).ctx) s.sfu
    oldMaps := s.oldMaps.filter fun o => !mine (s.txn o.txn).ctx
    mullAdds := s.mullAdds.filter fun a => (s.region a.region).fn != n
    -- in-flight mull exchanges are discarded and their stripes marked (R303)
    mull := tmap {} (fun _ r => if r.fn = n then
        { r with
          reps := r.outs.foldl (fun t o =>
            -- in flight: the receiver's facing link engine has not applied it (R300)
            let facing := tget {} r.outs (4 * torusTo (o.1 / 4) (o.1 % 4) + torusBack (o.1 % 4))
            if o.2.valid && o.2.seq != facing.applied then
              let key := o.1 / 4 * 65536 + o.2.stripe
              tset {} t key { tget {} t key with damaged := true }
            else t) r.reps
          outs := tmap {} (fun _ o => { o with valid := false }) r.outs }
      else r) s.mull
    mullX := s.mullX.filter fun x => (s.region x.1).fn != n
    mullAcks := s.mullAcks.filter fun x => (s.region x.1).fn != n
    traces := tmap {} (fun _ u =>
      let u := { u with others := u.others.filter fun e => !mine e.1 }
      if mine u.stopCtx then { u with stopped := false, stopReq := false } else u) s.traces }
  s

/-- A device error of a die: every partition that holds a quarto of it (R111). -/
def State.faultDie (s : State) (die cause : Nat) : State :=
  (((List.range 4).filterMap fun q => s.ownerOf (4 * die + q)).eraseDups).foldl (fun s n => s.faultFn n cause die) s

/-! ### Stopping a context (R353) -/

/-- CODE_INTEGRITY at thread k, on a fetch from `addr`: the context stops. -/
def State.stopContext (s : State) (k addr page : Nat) : State :=
  let c := (s.thread k).ctx
  let s := match (s.thread k).code with
    | .made i => s.updMade i fun m => { m with poisoned := page :: m.poisoned }
    | _ => s
  let s := (s.threads.filter fun e => e.2.ctx == c && e.2.stat != .free).foldl (fun s e =>
    s.killNote e.1 0x29 (if e.1 = k then addr else 0) page 8) s
  let s := s.dropRecs c
  let s := s.updCtx c fun x => { x with stopped := true }
  s.updFn (s.ctx c).fn fun f => { f with msi := 2 :: f.msi }

/-! ### Taking a trap (R111, R114) -/

def cWATCHDOG : Nat := 0x28
def cCODE : Nat := 0x29
def cSLICE : Nat := 0x2A
def cBREAK : Nat := 0x31
def cS2 : Nat := 0x19

/-- The vector register of a level (R109). -/
def State.vecOf (s : State) (c : Nat) : Word :=
  match s.ctxPriv c with
  | 1 => (s.ctx c).tvec
  | 2 => (s.fn (s.ctxFn c)).hvvec
  | _ => s.smvec

/-- Parks thread k on its trap and posts the record; with no handler the activation is killed. -/
def State.park (s : State) (k cause addr info : Nat) : State :=
  let t := s.thread k
  let tgt := s.faultTarget t.ctx (cause == cS2)
  if hasHandler tgt then
    let (q, s) := s.takeFseq (k / 8)
    (s.updThread k fun t => { t with stat := .parked q (cause == cS2) }).postFault tgt (quartoOf (k / 8))
      (s.faultOf k cause addr info q false)
  else s.kill k 8

/-- A double trap: the activation is killed and a record goes to the next level up (R111). -/
def State.doubleTrap (s : State) (k cause addr info : Nat) : State :=
  let t := s.thread k
  let (q, s) := s.takeFseq (k / 8)
  let f := s.faultOf k cause addr info q true
  match s.ctxPriv t.ctx with
  | 1 => (s.kill k 8).postFault (s.faultTarget t.ctx true) (quartoOf (k / 8)) f
  | 2 => (s.kill k 8).postFault s.monitor (quartoOf (k / 8)) f
  | _ => (s.kill k 8).faultDie (coreDie (k / 8)) 5

/-- Taking trap `cause` on the issuing thread, with taddr and tinfo: the one operation of R114. -/
def State.trap (s : State) (cause addr info : Nat) : State :=
  let k := s.cur
  let s := s.updT fun t => { t with tcause := w64 cause, taddr := w64 addr, tepc := w64 t.pc, tinfo := w64 info }
  let t := s.t
  if cause = cBREAK then
    (s.traceThread k 2 t.pc info).updT fun t => { t with pc := t.pc + 12 }
  else
    let s := s.traceTrap k cause info
    if cause = cWATCHDOG ∨ cause = cSLICE then s.killNote k cause 0 info (if cause = cWATCHDOG then 4 else 8)
    else if cause = cCODE then s.stopContext k addr info
    else if s.ctxPriv t.ctx = 0 ∨ cause = cS2 then s.park k cause addr info
    else if t.invec then s.doubleTrap k cause addr info
    else s.updT fun t => { t with invec := true, pc := bits (s.vecOf t.ctx).toNat 0 32 }

/-- Return from a trap (R119): where INVEC is set it clears and the thread goes on at tepc; where it is
clear, at the next instruction. -/
def State.trapReturn (s : State) : State :=
  s.updT fun t => if t.invec then { t with invec := false, pc := t.tepc.toNat } else { t with pc := t.pc + 12 }

/-- Trap with FIELD and VALUE of R102. -/
def State.trapOperand (s : State) (field value : Nat) : State := s.trap 0x02 0 (value * 65536 + field)
def State.trapModifier (s : State) (field value : Nat) : State := s.trap 0x03 0 (value * 65536 + field)

end Sys2Proof.Machine
end

