-- ==== Sys2Proof/Machine/Pads.lean ====
section
/-! DEFINITION. The state of a tile that goes with a context when its slice ends (R328, R239), and a ring or
a pad as a context's own accesses find it. -/

namespace Sys2Proof.Machine

/-- Entries with keys in [lo, lo + n). -/
def getKeys {α : Type} (lo n : Nat) (t : List (Nat × α)) : List (Nat × α) :=
  t.filter fun e => decide (lo ≤ e.1) && decide (e.1 < lo + n)

/-- Puts entries in place of those with keys in [lo, lo + n). -/
def putKeys {α : Type} (lo n : Nat) (x t : List (Nat × α)) : List (Nat × α) :=
  t.filter (fun e => decide (e.1 < lo)) ++ x ++ t.filter fun e => decide (lo + n ≤ e.1)

/-- Puts cells in place of those with addresses in [lo, lo + n), in the canonical form. -/
def putCells (lo n : Nat) (x m : List Host.Cell) : List Host.Cell :=
  (getKeys lo n x).foldl (fun m c => writeByte m c.1 c.2) (clearRange m lo n)

/-- What a tile holds, up to `size` bytes of its pad. -/
def State.padImage (s : State) (pad size : Nat) : Saved :=
  let a := padAddr pad 0
  { size := size
    cells := getKeys a size s.mem
    tags := getKeys (a / 16) (size / 16) s.tags
    marks := getKeys (a / 64) (size / 64) s.marks
    sems := getKeys (32 * pad) 32 s.sems
    copies := getKeys (8 * pad) 8 s.copies
    lines := getKeys (a / 64) (size / 64) s.lines
    vars := getKeys a size s.vars
    semCarry := getKeys (32 * pad) 32 s.semCarry
    swCarry := getKeys (2 ^ 22 * pad) (2 ^ 22) s.swCarry
    joinCarry := getKeys (a / 64) (size / 64) s.joinCarry }

/-- Puts an image in the tile's place. -/
def State.setPad (s : State) (pad size : Nat) (x : Saved) : State :=
  let a := padAddr pad 0
  { s with
    mem := putCells a size x.cells s.mem
    tags := putKeys (a / 16) (size / 16) x.tags s.tags
    marks := putKeys (a / 64) (size / 64) x.marks s.marks
    sems := putKeys (32 * pad) 32 x.sems s.sems
    copies := putKeys (8 * pad) 8 x.copies s.copies
    lines := putKeys (a / 64) (size / 64) x.lines s.lines
    vars := putKeys a size x.vars s.vars
    semCarry := putKeys (32 * pad) 32 x.semCarry s.semCarry
    swCarry := putKeys (2 ^ 22 * pad) (2 ^ 22) x.swCarry s.swCarry
    joinCarry := putKeys (a / 64) (size / 64) x.joinCarry s.joinCarry }

/-- PADMAX × 64 KiB of function n (R322). -/
def State.padMax (s : State) (n : Nat) : Nat := (s.fn n).padlimit.toNat % 64 * 65536

/-- The tile's state is saved with context c, and the tile is left empty. -/
def State.padOut (s : State) (n c pad : Nat) : State :=
  let x := s.padImage pad (s.padMax n)
  (s.updCtx c fun y => { y with saved := tset {} y.saved pad x }).setPad pad (s.padMax n) {}

/-- The tile receives what was saved with context c; nothing saved is an empty tile. -/
def State.padIn (s : State) (n c pad : Nat) : State :=
  let x := tget {} (s.ctx c).saved pad
  (s.updCtx c fun y => { y with saved := tset {} y.saved pad {} }).setPad pad (max x.size (s.padMax n)) x

/-- The context whose state function n's tiles hold: none where a migration has saved it (R331). -/
def State.liveCtx (s : State) (n : Nat) : Nat :=
  let f := s.fn n
  if f.migr.st = 3 ∨ f.migr.st = 4 then 0 else f.cur

/-- Acts with context c's state in the pad, wherever that state is (R328). -/
def State.seeing {α : Type} (s : State) (c pad : Nat) (f : State → α × State) : α × State :=
  let n := (s.ctx c).fn
  let live := s.liveCtx n
  if 1024 ≤ pad ∨ c = 0 ∨ 65536 ≤ c ∨ live = c then f s
  else
    let (x, s) := f ((s.padOut n live pad).padIn n c pad)
    (x, (s.padOut n c pad).padIn n live pad)

/-- The context to which a ring made through a slot object belongs, whether or not a name still leads to it (R326). -/
def State.ringOwner (s : State) : Node → Nat
  | .made i => (s.madeN i).qctx
  | _ => 0

/-- Bytes of the pad in which a queue node's ring may lie: as the context has them whose ring it is (R322). -/
def State.ringLim (s : State) (n : Node) (pad : Nat) : Nat :=
  match s.ringOwner n with
  | 0 => padBytes pad
  | c => s.padSize c pad

/-- Acts on a queue node's ring as its context's pad holds it. -/
def State.atRing {α : Type} (s : State) (n : Node) (pad : Nat) (f : State → α × State) : α × State :=
  s.seeing (s.ringOwner n) pad f

end Sys2Proof.Machine
end

