-- ==== Sys2Proof/Machine/Access.lean ====
section
/-! DEFINITION. Access through a bound pointer: the checks of R108 and R113 stage 7, loads and stores at
the home, posted stores, queue appends, sync words and semaphores (R51, R55, R107, R108, R136 to R145,
R173 to R180, R237, R241). -/

namespace Sys2Proof.Machine

/-! ### Fields of a bound pointer (R107) -/

def Ptr.e (p : Ptr) : Nat := bits p.raw.toNat 123 5
def Ptr.bm (p : Ptr) : Nat := bits p.raw.toNat 114 9
def Ptr.tm (p : Ptr) : Nat := bits p.raw.toNat 104 10
def Ptr.perms (p : Ptr) : Nat := bits p.raw.toNat 96 8
def Ptr.gen (p : Ptr) : Nat := bits p.raw.toNat 84 12
def Ptr.hidx (p : Ptr) : Nat := bits p.raw.toNat 64 20
def Ptr.cursor (p : Ptr) : Nat := bits p.raw.toNat 0 64
def Ptr.base (p : Ptr) : Nat := p.bm * 2 ^ p.e
def Ptr.top (p : Ptr) : Nat := p.tm * 2 ^ p.e

/-- A pointer's 128 bits. -/
def ptrRaw (e bm tm perms gen hidx cursor : Nat) : Quad :=
  BitVec.ofNat 128 (cursor % 2 ^ 64 + hidx % 2 ^ 20 * 2 ^ 64 + gen % 4096 * 2 ^ 84 + perms % 256 * 2 ^ 96
    + tm % 1024 * 2 ^ 104 + bm % 512 * 2 ^ 114 + e % 32 * 2 ^ 123)

/-- EncodeBounds from exponent `e` upward, `n` exponents left to try (R115). -/
def encBoundsFrom (base top e : Nat) : Nat → Option (Nat × Nat × Nat)
  | 0 => none
  | n + 1 =>
    if base / 2 ^ e ≤ 511 ∧ cdiv top (2 ^ e) ≤ 1023 then some (e, base / 2 ^ e, cdiv top (2 ^ e))
    else encBoundsFrom base top (e + 1) n

/-- EncodeBounds (R115). -/
def encodeBounds (base top : Nat) : Option (Nat × Nat × Nat) := encBoundsFrom base top 0 32

/-- A pointer over a whole handle, cursor 0 (R121, R252). -/
def mintPtr (perms gen hidx len : Nat) : Ptr :=
  let (e, bm, tm) := (encodeBounds 0 len).getD (31, 0, 1023)
  { tag := true, raw := ptrRaw e bm tm perms gen hidx 0 }

/-- taddr of a pointer and an offset (R109). -/
def addrOf (p : Ptr) (off : Int) : Nat := p.hidx * 2 ^ 44 + toBits 44 off

/-- A trap that an operand's check takes. -/
structure Trp where
  cause : Nat
  addr : Nat := 0
  info : Nat := 0
  deriving DecidableEq, Repr

def State.trapE (s : State) (t : Trp) : State := s.trap t.cause t.addr t.info
def trOperand (field value : Nat) : Trp := ⟨0x02, 0, value * 65536 + field⟩
def trModifier (field value : Nat) : Trp := ⟨0x03, 0, value * 65536 + field⟩

/-- Where an operand must name a particular object, the trap its entry names otherwise (R113). -/
abbrev NodeReq := Node → Option Trp
def anyNode : NodeReq := fun _ => none
/-- The issuing tile's pad, or ILLEGAL_OPERAND in the field (R201, R254). -/
def ownPad (pad field : Nat) : NodeReq := fun n => if nodePad n = some pad then none else some (trOperand field 3)

/-- TAG and REVOKED (R108), in context c. -/
def State.checkHandle (s : State) (c : Nat) (p : Ptr) (bix : Nat) : Except Trp HEntry :=
  if !p.tag then .error ⟨0x13, 0, bix⟩
  else match s.hlook c p.hidx p.gen with
    | some h => .ok h
    | none => .error ⟨0x12, addrOf p 0, (s.hent c p.hidx).gen⟩

/-- SIZE of an entry as it bounds an access: a pad's follows PADMAX, whatever it was at the walk (R322). -/
def State.entrySize (s : State) (c : Nat) (h : HEntry) : Nat :=
  match nodePad h.node with
  | some p => min h.size (s.padSize c p)
  | none => h.size

/-- The payload pointer's bytes (R35): bounds and permission as R108 has them, on the private payload. -/
def State.payload (s : State) (p : Ptr) (disp : Int) (size need : Nat) : Except Trp (List Byte) :=
  let off : Int := (p.cursor : Int) + disp
  if off < p.base ∨ off + size > p.top ∨ off + size > s.t.payload.length then .error ⟨0x10, addrOf p off, size⟩
  else if !hasAll p.perms need then .error ⟨0x11, addrOf p off, need⟩
  else .ok ((s.t.payload.drop off.toNat).take size)

/-- What CheckPtr finds on the payload pointer where no payload access is served (R35, R108): where the checks pass, the
pointer names no handle and counts as revoked (log 32). -/
def State.payloadTrap (s : State) (p : Ptr) (disp : Int) (size need : Nat) (req : NodeReq) : Trp :=
  match req .root with
  | some t => t
  | none => match s.payload p disp size need with
    | .error t => t
    | .ok _ => ⟨0x12, addrOf p 0, 0⟩

/-- CheckPtr (R108, R114) without the alignment and translation that follow: the handle and the offset. -/
def State.checkPtr (s : State) (c : Nat) (p : Ptr) (bix : Nat) (disp : Int) (size need : Nat)
    (req : NodeReq := anyNode) : Except Trp (HEntry × Nat) :=
  if p.pay && p.tag then .error (s.payloadTrap p disp size need req) else
  match s.checkHandle c p bix with
  | .error t => .error t
  | .ok h =>
    match req h.node with
    | some t => .error t
    | none =>
      let off : Int := (p.cursor : Int) + disp
      if off < p.base ∨ off + size > p.top ∨ off + size > s.entrySize c h then .error ⟨0x10, addrOf p off, size⟩
      else if !hasAll p.perms need then .error ⟨0x11, addrOf p off, need⟩
      else .ok (h, off.toNat)

/-- Kinds of pointer access, for the objects that do not support them (R139, R241, R297). -/
inductive AccKind where
  | load | store | atomic
  deriving DecidableEq, Repr

def AccKind.right : AccKind → Nat
  | .load => rR
  | .store => rW
  | .atomic => rA

/-- A copy engine's aperture (R231). -/
def isCopy : Node → Bool
  | .copy _ _ => true
  | _ => false

/-- Whether the object's kind supports ordinary access (R241): memory objects, and loads of code. The copy
aperture passes, and takes ALIGN for what is not an aligned 8-byte LD or ST (R231). -/
def State.kindOk (s : State) (n : Node) (a : AccKind) : Bool :=
  s.nodeKind n == kMemo || (s.nodeKind n == kCode && a == .load) || (isCopy n && a != .atomic)

/-! ### The issuing activation as a party -/

def State.core_ (s : State) : Nat := s.cur / 8
def State.me (s : State) : Nat := s.t.party
def State.myPad (s : State) : Nat := padOf s.core_
/-- A core's place in the scopes (R48). -/
def coreLoc (core : Nat) : Loc := { core := core, width := 0 }
def State.myLoc (s : State) : Loc := coreLoc s.core_
def State.myWho (s : State) : BitVec 64 := whoWord s.t.actstart.toNat s.t.hidx 0 s.t.lcore

/-- The RACE trap (R51): taddr names the line. -/
def raceTrap (p : Ptr) (n : Node) (line : Nat) (a : LineAcc) : Trp :=
  ⟨0x20, addrOf p (line * 64 - objAddr n 0 : Int), a.who.toNat⟩

/-- Race check of the issuing activation over a range; RELAXED objects are never checked (R53). -/
def State.raceCheck (s : State) (p : Ptr) (n : Node) (off len kind : Nat) : Except Trp Unit :=
  if s.nodeRelaxed n then .ok () else
  match s.race s.me kind (linesOf n off len) with
  | some (l, a) => .error (raceTrap p n l a)
  | none => .ok ()

/-- The race check of the updates that return the queue sides which the issuing activation holds, as it ends: where
one finds an unordered plain access, END takes RACE (R51, R173, R174; DEDUCED, log 227). -/
def State.endCheck (s : State) : Except Trp Unit :=
  let n := padNode s.myPad
  match s.t.held.filterMap fun q => s.race s.me aAtomW (linesOf n q.desc 32) with
  | (l, a) :: _ => .error (raceTrap {} n l a)
  | [] => .ok ()

/-- Records the issuing activation's access over a range. -/
def State.note (s : State) (n : Node) (off len kind : Nat) : State :=
  if s.nodeRelaxed n then s else s.touchAll s.me s.myWho kind (linesOf n off len)

/-- An access that has passed R108, alignment and translation. -/
structure Hit where
  node : Node
  off : Nat
  places : List (Place × Nat)

/-- An access to a mull region has PERMISSION with the access's own right, whatever rights the pointer lacks (R297). -/
def State.mullRefused (s : State) (p : Ptr) (a : AccKind) (t : Trp) : Trp :=
  if t.cause == 0x11 && s.nodeKind (s.hent s.t.ctx p.hidx).node == kMull then { t with info := a.right } else t

/-- Every check of stage 7 of R113 but RACE: CheckPtr, the kind's support, ALIGN, then translation. -/
def State.reach (s : State) (p : Ptr) (bix : Nat) (disp : Int) (size need : Nat) (a : AccKind) (align : Nat)
    (req : NodeReq := anyNode) : Except Trp Hit :=
  match s.checkPtr s.t.ctx p bix disp size need req with
  | .error t => .error (s.mullRefused p a t)
  | .ok (h, off) =>
    if !s.kindOk h.node a then .error ⟨0x11, addrOf p off, a.right⟩
    else if off % align ≠ 0 ∨ isCopy h.node then .error ⟨0x14, addrOf p off, size⟩
    else match s.places s.t.ctx h.node (a != .load) false (pieces off size) with
      | .error e => .error ⟨e.cause, addrOf p e.off, e.tinfo⟩
      | .ok l => .ok { node := h.node, off := off, places := l }

/-! ### Sync words (R178, R179) -/

def swKey (pad off : Nat) : Nat := pad * 2 ^ 21 + off

/-- The advances R179 applies: how many, and the word after. Fields: TARGET, COUNT, GEN, ARMED, AUTO. -/
def swAdvance (w : Nat) : Nat × Nat :=
  let target := bits w 0 32
  let count := bits w 32 32
  let gen := bits w 64 32
  if !bitOn w 96 ∨ target = 0 ∨ count < target then (0, w)
  else if bitOn w 97 then
    let k := count / target
    (k, setBits (setBits w 32 32 (count % target)) 64 32 (gen + k))
  else (1, setBits (setBits (setBits w 32 32 (count - target)) 64 32 (gen + 1)) 96 1 0)

/-- Applies R179 to the sync word; each advance is an edge that carries what was counted before it. -/
def State.swApply (s : State) (pad off : Nat) : State :=
  let (k, w) := swAdvance (s.peekN (padAddr pad off) 16)
  if k = 0 then s
  else
    let key := swKey pad off
    let pend := tget [] s.swCarry (2 * key)
    let done := tget [] s.swCarry (2 * key + 1)
    { s.pokeN (padAddr pad off) 16 w with
      swCarry := tset [] (tset [] s.swCarry (2 * key) []) (2 * key + 1) (addKnow done pend) }

/-- Landed bytes add to COUNT (R179), carrying what the beat's party knows. -/
def State.swLand (s : State) (pad off n : Nat) (k : Know) : State :=
  let a := padAddr pad off
  let w := s.peekN a 16
  let key := swKey pad off
  let s := s.pokeN a 16 (setBits w 32 32 (min (bits w 32 32 + n) (2 ^ 32 - 1)))
  { s with swCarry := tset [] s.swCarry (2 * key) (addKnow (tget [] s.swCarry (2 * key)) k) }.swApply pad off

/-- The windows of a tile: those of the context that holds it (R231, R237). -/
def State.tileRegs (s : State) (pad : Nat) : CopyRegs :=
  match s.ownerOf (padQuarto pad) with
  | some n => tget {} (s.ctx (s.liveCtx n)).copyRegs pad
  | none => {}

/-- The sync word that counts a remote write by `core` at the pad's offset: that of the lowest enabled window that
holds the offset (R237). A window whose word lies beyond what the tile's context has of the pad, which it cannot reach
(R322), counts nothing (DESIGN CHOICE, log 229). -/
def State.swWindow (s : State) (core pad off : Nat) : Option Nat :=
  if padOf core = pad ∨ 1024 ≤ pad then none else
  let wins := (List.range 8).map fun i => (tget 0 (s.tileRegs pad).win i).toNat
  let lim := match s.ownerOf (padQuarto pad) with
    | some n => s.padSize (s.liveCtx n) pad
    | none => padBytes pad
  ((wins.find? fun w =>
    bitOn w 48 && decide (bits w 0 15 * 64 ≤ off) && decide (off < (bits w 0 15 + bits w 15 16) * 64)).map fun w =>
      bits w 31 17 * 16).filter fun w => decide (w + 16 ≤ lim)

/-- A remote write by `core` has landed in the pad: its bytes are counted (R237). -/
def State.marked (s : State) (core pad off n : Nat) (k : Know) : State :=
  match s.swWindow core pad off with
  | some w => s.swLand pad w n k
  | none => s

/-- The lines of the sync word that counts a write by `core` to the object: their update is an atomic access of the
writer (R54, R179, R237). -/
def State.markLines (s : State) (core : Nat) (n : Node) (off : Nat) : List Nat :=
  match nodePad n with
  | none => []
  | some pad => match s.swWindow core pad off with
    | some w => linesOf n w 16
    | none => []

/-- Race check of a store by the issuing activation: of its bytes, and of the sync word that counts it. -/
def State.storeCheck (s : State) (p : Ptr) (n : Node) (off len kind : Nat) : Except Trp Unit :=
  match s.raceCheck p n off len kind with
  | .error t => .error t
  | .ok _ => match s.race s.me aAtomW (s.markLines s.core_ n off) with
    | some (l, a) => .error (raceTrap p n l a)
    | none => .ok ()

/-- Records a store by the issuing activation, and the update of the sync word that counts it. -/
def State.noteStore (s : State) (n : Node) (off len kind : Nat) : State :=
  (s.note n off len kind).touchAll s.me s.myWho aAtomW (s.markLines s.core_ n off)

/-! ### Queue rings as shared objects (R241, R173, R174) -/

/-- The ring a queue node names. A launch queue's ring is not in a pad (R312). -/
def State.ringOf (s : State) : Node → Option (Nat × Nat)
  | .made i => if (s.madeN i).kind = kQueue then some ((s.madeN i).qpad, (s.madeN i).qdesc) else none
  | _ => none

/-- What an append or a take of a ring ends in. -/
inductive RingRes where
  | ok | full | faulty | race
  deriving DecidableEq, Repr

/-- The synchronisation variables of a descriptor: its HEAD and TAIL words. -/
def headVar (pad desc : Nat) : Nat := padAddr pad (desc + oHead)
def tailVar (pad desc : Nat) : Nat := padAddr pad (desc + oTail)

/-- An acquire by a party that may have ended: what its knowledge becomes (R48, R49). -/
def State.acquireKnow (s : State) (k : Know) (loc : Loc) (scope a : Nat) : Know :=
  (s.var a).heads.foldl (fun k h =>
    if locIn h.scope h.loc loc && locIn scope loc h.loc then addKnow k h.carry else k) k

/-- Appends one slot (R241) to a ring in the pad's first `lim` bytes, for party `p` at `loc`, whose knowledge is `know` and
whose lines not yet released are `pub`. -/
def State.append (s : State) (pad desc lim : Nat) (bytes : List Byte) (p : Nat) (who : BitVec 64) (loc : Loc)
    (know : Know) (pub : List Nat) : RingRes × State :=
  let d := s.desc pad desc
  if lim < desc + 32 || d.faulty lim then (.faulty, s)
  else if d.free = 0 ∨ d.pheld ≠ 0 then (.full, s)
  else
    let got := s.acquireKnow [] loc 4 (headVar pad desc)
    let k := addKnow know got
    let off := d.slot d.tail
    let n := padNode pad
    let ls := linesOf n off d.slotBytes
    -- the slot's plain write, and the descriptor's atomic update (R173)
    if ls.any (fun l => (s.raceWith k p aWrite l).isSome) || (linesOf n desc 32).any (fun l => (s.raceWith k p aAtomW l).isSome)
    then (.race, s)
    else
      let all := ls ++ linesOf n desc 32
      let since := (s.party p).sinceRel
      let s := s.touchAll p who aWrite ls
      let data := bytes ++ List.replicate (d.slotBytes - bytes.length) 0
      let s := s.poke (padAddr pad off) (data.take d.slotBytes)
      let s := s.pokeN (padAddr pad (desc + oTail)) 4 (d.tail + 1)
      let s := s.touchAll p who aAtomW (linesOf n desc 32)
      let q := s.party p
      let mine := q.know.filter fun x => all.contains x.1
      -- what HEAD gave and what the append accessed are published here, and wait for no later release (R49)
      let s := s.setParty p { q with know := addKnow q.know got, sinceRel := since }
      (.ok, s.releaseKnow p loc 4 (tailVar pad desc) 4 true (addKnow k mine) (addLines pub (got.map (·.1) ++ all)))

/-- Takes the slot at HEAD (R241) of a ring in the pad's first `lim` bytes. -/
def State.take (s : State) (pad desc lim : Nat) (p : Nat) (who : BitVec 64) (loc : Loc) : RingRes × List Byte × State :=
  let d := s.desc pad desc
  if lim < desc + 32 || d.faulty lim then (.faulty, [], s)
  else if d.filled = 0 ∨ d.cheld ≠ 0 then (.full, [], s)
  else
    let s' := s.acquire p loc 4 (tailVar pad desc)
    let off := d.slot d.head
    let n := padNode pad
    let ls := linesOf n off d.slotBytes
    if (s'.race p aRead ls).isSome || (s'.race p aAtomW (linesOf n desc 32)).isSome then (.race, [], s)
    else
      let bytes := s'.peek (padAddr pad off) d.slotBytes
      let s := s'.touchAll p who aRead ls
      let s := s.pokeN (padAddr pad (desc + oHead)) 4 (d.head + 1)
      let s := s.touchAll p who aAtomW (linesOf n desc 32)
      (.ok, bytes, s.release p loc 4 (headVar pad desc) 4 true)

/-! ### Launch queues as rings (R312) -/

/-- Whether the queue's CTXID names a live context. -/
def State.lqLive (s : State) (n k : Nat) : Bool := (s.ctx (bits (s.lqueue n k).cfg.toNat 16 16)).live

/-- Appends a launch record (R241, R312). -/
def State.appendLaunch (s : State) (n k : Nat) (bytes : List Byte) (know : Know) : RingRes × State :=
  if !s.lqLive n k then (.faulty, s)
  else if 64 ≤ (s.lqueue n k).slots.length then (.full, s)
  else
    let sz := s.lqSlot n k
    let q := s.lqueue n k
    let data := (bytes ++ List.replicate (sz - bytes.length) 0).take sz
    (.ok, s.setLQueue n k { q with slots := q.slots ++ [{ bytes := data, arrTs := s.ts, know := know }] })

/-! ### Posted stores (R55, R139) -/

/-- The die whose launch unit serves queue k of function n (R312). -/
def State.homeDie (s : State) (n k : Nat) : Nat :=
  let c := (s.lqueue n k).cfg.toNat
  if bitOn c 13 then bits c 8 5 else ((s.quartosOf n).headD 0) / 4

/-- The die at which a queue is: a ring's pad, or a launch queue's unit. -/
def State.queueDie (s : State) (n : Node) : Nat :=
  match n with
  | .launch f k => s.homeDie f k
  | _ => ((s.ringOf n).map fun x => padDie x.1).getD 0

/-- A refused append: the dispatch fault, and the lines that it would have published are to publish again (R34,
R241). -/
def State.appendBad (s : State) (q : Posted) (kind info : Nat) : State :=
  let a := s.party q.party
  (s.setParty q.party { a with sinceRel := addLines a.sinceRel q.pub }).dispatchFault kind q.ctx q.core q.lword
    (natOfBytes (q.bytes.take 16)) (q.handle.toNat * 2 ^ 44 + info) q.launch (s.queueDie q.node)

/-- Performs a posted store to a queue at its home: the append, or the dispatch fault of its refusal (R34, R241). R34
names QUEUE_RACE for the slot's write and one line: the model refuses in the same way an append whose descriptor's atomic
update finds the race, and names the slot's first line whichever it was (DESIGN CHOICE, log 219). -/
def State.performAppend (s : State) (q : Posted) : State :=
  if q.off ≠ 0 then s.appendBad q 11 (q.off % 2 ^ 44)
  else
    let ((r, line), s) := match q.node with
      | .launch n k =>
        let (r, s) := s.appendLaunch n k q.bytes q.know
        ((r, 0), s)
      | _ => match s.ringOf q.node with
        | some (pad, desc) =>
          s.atRing q.node pad fun s =>
            let d := s.desc pad desc
            let (r, s) := s.append pad desc (s.ringLim q.node pad) q.bytes q.party q.who (coreLoc q.core) q.know q.pub
            ((r, d.slot d.tail / 64 * 64), s)
        | none => ((.faulty, 0), s)
    match r with
    | .ok => s
    | .full => s.appendBad q 10 0
    | .faulty => s.appendBad q 11 (2 ^ 44 - 1)
    | .race => s.appendBad q 12 line

/-- Performs a posted store to bytes, where its lookup at issue found them (R139, R267). -/
def State.performBytes (s : State) (q : Posted) : State :=
  let s := (s.overwrite (objAddr q.node q.off) q.bytes.length).pokePlaces q.places q.bytes
  let s := if q.pst then
      match q.places with
      | (pl, _) :: _ => { s with tags := tset false s.tags (pl.addr / 16) q.tag }
      | [] => s
    else s
  match nodePad q.node with
  | some pad => if q.pst then s else s.marked q.core pad q.off q.bytes.length q.know
  | none => s

/-- Performs one posted store at its home. The home checks the handle again, and discards the store where it has
been revoked (R258); a store that reaches another tile's copy aperture is COPY_REFUSED (R231). R34 gives that record's
tile and not its core: CORE is 0, and it goes to the service core beside the aperture's tile (DESIGN CHOICE, log 220). -/
def State.performPosted (s : State) (q : Posted) : State :=
  if (s.hlook q.ctx q.handle.toNat q.gen).isNone then s
  else if isCopy q.node then
    let home := match q.node with | .copy d t => coreOf d t 0 | _ => q.core
    s.dispatchFault 9 q.ctx home 0 0 (coreTile home * 2 ^ 32 + q.off % 256) q.launch (coreDie home)
  else if s.nodeKind q.node = kQueue then s.performAppend q
  else s.performBytes q

/-! ### Posted JOINs (R55, R172) -/

/-- The die at which an object's accesses are performed. -/
def State.nodeDie (s : State) (n : Node) : Nat :=
  match nodePad n with
  | some pad => padDie pad
  | none => s.nodeHome n

/-- Whether the cell at the place is armed: the bit and the hidden mark. -/
def State.armed (s : State) (a : Nat) : Bool := bitOn (s.peekN a 64) 296 && tget false s.marks (a / 64)

/-- Performs a JOIN at the cell's home, where its lookup at issue found the cell (R172). The home checks the handle
again, and a revoked one is refused: DEDUCED (log 180). -/
def State.joinAt (s : State) (j : JoinReq) : State :=
  let refuse (s : State) : State :=
    s.dispatchFault 7 j.ctx j.core j.lword 0 (j.handle.toNat * 2 ^ 44 + j.off % 2 ^ 44) j.launch (s.nodeDie j.node)
  let a := j.place.addr
  let cell := s.peekN a 64
  let left := bits cell 32 32
  if (s.hlook j.ctx j.handle.toNat j.gen).isNone || !s.armed a || decide (left < j.k) then refuse s
  else
    let key := objAddr j.node j.off / 64
    let know := addKnow (tget [] s.joinCarry key) j.know
    let ftag := tget false s.tags (a / 16 + 1)
    let cell' := setBits (if left = j.k then setBits cell 296 1 0 else cell) 32 32 (left - j.k)
    let s := (s.pokeN a 64 cell').dirty j.place.unit
    let s := { s with tags := tset false s.tags (a / 16 + 1) ftag }
    if left ≠ j.k then
      { s with marks := tset false s.marks (a / 64) true, joinCarry := tset [] s.joinCarry key know }
    else
      let s := { s with joinCarry := tset [] s.joinCarry key [] }
      let c := bits cell 300 16
      let w := bits cell 256 12
      match s.mapCore c w with
      | none => s
      | some core =>
        s.post { frame := { tag := ftag, raw := BitVec.ofNat 128 (bits cell 128 128) }, arg := w64 (bits cell 64 64),
                 genarg := bitOn cell 24, hidx := bits cell 0 16, chan := bits cell 16 4, chanFixed := true, ctx := c,
                 core := core, lcore := w, key := j.lword, sendTs := j.sendTs, know := know, launch := j.launch,
                 sdie := some (s.nodeDie j.node) }

/-- A JOIN as a posted write: of what handle, where and when. -/
def JoinReq.write (j : JoinReq) : Posted :=
  { seq := j.seq, party := j.party, ctx := j.ctx, handle := j.handle, gen := j.gen, core := j.core, node := j.node,
    off := j.off, bytes := List.replicate 64 0, places := [(j.place, 64)] }

/-- Performs the posted JOINs that `p` names, in issue order. -/
def State.performJoins (s : State) (p : Posted → Bool) : State :=
  (s.joins.filter fun j => p j.write).foldl (fun s j => s.joinAt j)
    { s with joins := s.joins.filter fun j => !p j.write }

/-- Performs every posted write that `p` names, in issue order, and keeps the others. -/
def State.flush (s : State) (p : Posted → Bool) : State :=
  let now := s.posted.filter p
  (now.foldl (fun (s : State) q => (s.performJoins fun x => p x && decide (x.seq < q.seq)).performPosted q)
    { s with posted := s.posted.filter fun q => !p q }).performJoins p

/-- Posted writes of one activation through one handle (R55). -/
def Posted.same (a b : Posted) : Bool := a.party == b.party && a.handle == b.handle && a.ctx == b.ctx

/-- The bytes that a posted write is to write, by address and count: an append's are the slot at TAIL and the
descriptor. -/
def State.span (s : State) (q : Posted) : List (Nat × Nat) :=
  match s.ringOf q.node with
  | some (pad, desc) => let d := s.desc pad desc
    [(padAddr pad (d.slot d.tail), d.slotBytes), (padAddr pad desc, 32)]
  | none => if q.places.isEmpty then [] else [(objAddr q.node q.off, q.bytes.length)]

/-- Whether posted writes of one activation, not both appends, are to write a byte in common. -/
def State.meets (s : State) (a b : Posted) : Bool :=
  a.party == b.party && !((s.ringOf a.node).isSome && (s.ringOf b.node).isSome) && (s.span a).any fun x =>
    (s.span b).any fun y => decide (x.1 < y.1 + y.2) && decide (y.1 < x.1 + x.2)

/-- Whether `a` is performed before `b`: issued earlier, through the same handle (R55), or to the same bytes, which
program order orders whatever the handles (R50, R53; DEDUCED, log 204). -/
def State.before (s : State) (a b : Posted) : Bool := decide (a.seq < b.seq) && (a.same b || s.meets a b)

/-- Whether an earlier posted write that must be performed first is still to be performed (R55). -/
def State.waitsFor (s : State) (q : Posted) : Bool :=
  (s.posted.any fun a => s.before a q) || s.joins.any fun j => s.before j.write q

/-! ### Semaphores (R177) -/

def semKey (pad id : Nat) : Nat := pad * 32 + id
def State.sem (s : State) (pad id : Nat) : Nat := tget 0 s.sems (semKey pad id)

/-- SEMV performed at the bank: it adds, saturating, and its edge joins those a later take receives. -/
def State.semAdd (s : State) (pad id a : Nat) (k : Know) : State :=
  if a = 0 then s else
  let key := semKey pad id
  { s with sems := tset 0 s.sems key (min (s.sem pad id + a) (2 ^ 32 - 1)),
           semCarry := tset [] s.semCarry key (addKnow (tget [] s.semCarry key) k) }

/-- A posted SEMV reaches its bank. One of a partition in FAULTED is discarded (R355), and one whose handle has been
revoked on its way too (R258; DEDUCED, log 180). -/
def State.performSemv (s : State) (r : SemReq) : State :=
  if s.faulted (s.ctxFn r.ctx) || (s.hlook r.ctx r.handle.toNat r.gen).isNone then s else s.semAdd r.pad r.sem r.amount r.know

/-- Performs the posted SEMVs that `p` names, and keeps the others. -/
def State.flushSemvs (s : State) (p : SemReq → Bool) : State :=
  (s.semvs.filter p).foldl (fun s r => s.performSemv r) { s with semvs := s.semvs.filter fun r => !p r }

/-! ### What an activation's own accesses find performed (R50, R55) -/

/-- The issuing activation's posted SEMVs: before it reads a count (R50). -/
def State.flushMySemvs (s : State) : State := s.flushSemvs fun r => r.party == s.me

/-- Every posted write of the issuing activation but appends: before an append, which R55 leaves free to overtake one
to another queue. -/
def State.flushStores (s : State) : State :=
  (s.flush fun q => q.party == s.me && s.nodeKind q.node != kQueue).flushMySemvs

/-- Every posted write of the issuing activation, appends too: before it forms an edge (R47, R50). -/
def State.flushMine (s : State) : State := (s.flush fun q => q.party == s.me).flushMySemvs

/-- Whether the activation has posted an append to a ring in the pad, which writes a slot and the descriptor there. -/
def State.appendsTo (s : State) (pad : Nat) (q : Posted) : Bool :=
  q.party == s.me && (s.ringOf q.node).any fun r => r.1 == pad

/-- Own appends to the rings of a pad: before an own access of one (R50). -/
def State.flushAppends (s : State) (pad : Nat) : State := if s.posted.any (s.appendsTo pad) then s.flushMine else s

/-- Own appends to the rings of the pad that an object is, if it is one: before an own store to it (R50). -/
def State.flushOwnPad (s : State) (n : Node) : State :=
  match nodePad n with
  | some pad => s.flushAppends pad
  | none => s

/-- Own posted writes to the range, and own appends to the pad that it lies in: before an own access of it (R50). -/
def State.flushRange (s : State) (n : Node) (off len : Nat) : State :=
  let hit (q : Posted) : Bool :=
    (q.party == s.me && q.node = n && decide (q.off < off + len) && decide (off < q.off + q.bytes.length))
      || (nodePad n).any fun pad => s.appendsTo pad q
  if s.posted.any hit || s.joins.any fun j => hit j.write then s.flushMine else s

/-- Before an atomic through the pointer: every posted write of the activation through the same handle or to the same
object, or every one of its posted writes where one overlaps (R50, R55). -/
def State.flushHandle (s : State) (p : Ptr) (n : Node) (off len : Nat) : State :=
  (s.flushRange n off len).flush fun q =>
    q.party == s.me && q.ctx == s.t.ctx && (q.handle.toNat == p.hidx || (q.node = n && s.nodeKind n != kQueue))

/-- An NWRITE of the issuing activation that is still to be performed. -/
def State.writeComing (s : State) (t : Txn) : Bool :=
  t.op == 4 && t.issuer == s.me && t.ctx == s.t.ctx && t.host.isNone && t.res.isNone

/-- An NWRITE of the activation through the pointer's handle is still to be performed: a later write through it waits
at its issue (R55, R254; DESIGN CHOICE, log 179). -/
def State.awaitsWrite (s : State) (p : Ptr) : Bool := p.tag && s.txns.any fun e => s.writeComing e.2 && e.2.ha.1 == p.hidx

/-- Does the write, or waits with it. -/
def State.after (s : State) (p : Ptr) (t : State) : State := if s.awaitsWrite p then s else t

/-- Homed elsewhere: on another die, or in another tile (R139, R231). -/
def State.remote (s : State) (n : Node) : Bool :=
  match n with
  | .copy d t => 32 * d + t != s.myPad
  | _ => match nodePad n with
    | some p => p != s.myPad
    | none => s.nodeHome n != coreDie s.core_

/-- Posts a write of the issuing activation through the pointer: what it is given says what is written. -/
def State.postWrite (s : State) (p : Ptr) (q : Posted) : State :=
  { s with
    nextAcc := s.nextAcc + 1
    posted := s.posted ++ [{ q with seq := s.nextAcc, party := s.me, ctx := s.t.ctx, handle := BitVec.ofNat 20 p.hidx, gen := p.gen,
                                    core := s.core_, lword := s.t.lcore, hidx := s.t.hidx, know := s.carry s.me, who := s.myWho, launch := s.t.launch }] }

/-- Issues a store that passed its checks: at once at an own home, else posted (R139). -/
def State.storeHit (s : State) (p : Ptr) (h : Hit) (bytes : List Byte) (pst tag : Bool) : State :=
  let s := if pst then s.note h.node h.off bytes.length aWrite else s.noteStore h.node h.off bytes.length aWrite
  if s.remote h.node then s.postWrite p { node := h.node, off := h.off, bytes := bytes, places := h.places, pst := pst, tag := tag }
  else
    let s := s.flushOwnPad h.node
    let s := (s.overwrite (objAddr h.node h.off) bytes.length).pokePlaces h.places bytes
    if pst then match h.places with
      | (pl, _) :: _ => { s with tags := tset false s.tags (pl.addr / 16) tag }
      | [] => s
    else s

end Sys2Proof.Machine
end

