-- ==== Sys2Proof/Machine/Operands.lean ====
section
/-! DEFINITION. The registers of the issuing thread, the guard, and every operand form (R93, R95, R106,
R115, R138, R146, R147). -/

namespace Sys2Proof.Machine

/-! ### Registers (R106) -/

/-- g0 reads zero. -/
def Thread.rdG (t : Thread) (r : GReg) : Word := if r = 0 then 0 else tget 0 t.g r.toNat
/-- Writes of g0 are discarded. -/
def Thread.wrG (t : Thread) (r : GReg) (v : Word) : Thread := if r = 0 then t else { t with g := tset 0 t.g r.toNat v }
def Thread.rdB (t : Thread) (r : BReg) : Ptr := tget {} t.b r.toNat
def Thread.wrB (t : Thread) (r : BReg) (p : Ptr) : Thread := { t with b := tset {} t.b r.toNat p }
def Thread.rdV (t : Thread) (r : VReg) : VWord := tget 0 t.v r.toNat
def Thread.wrV (t : Thread) (r : VReg) (v : VWord) : Thread := { t with v := tset 0 t.v r.toNat v }
/-- m0 reads all ones. -/
def Thread.rdM (t : Thread) (r : MReg) : MWord := if r = 0 then BitVec.allOnes 256 else tget 0 t.m r.toNat
/-- Writes of m0 are discarded. -/
def Thread.wrM (t : Thread) (r : MReg) (v : MWord) : Thread := if r = 0 then t else { t with m := tset 0 t.m r.toNat v }
def Thread.rdQ (t : Thread) (r : BitVec 4) : QReg := tget {} t.q r.toNat
def Thread.wrQ (t : Thread) (r : BitVec 4) (q : QReg) : Thread := { t with q := tset {} t.q r.toNat q }

/-- The next instruction in program order. -/
def Thread.step (t : Thread) : Thread := { t with pc := t.pc + 12 }
def State.next (s : State) : State := s.updT Thread.step

/-! ### The guard and the frame of an instruction (R93) -/

/-- m[GM] bit 0, exclusive-ORed with GN. -/
def Thread.guard (t : Thread) (h : Head) : Bool := (t.rdM h.gm).getLsbD 0 ^^ h.gn

/-- Runs an instruction of the issuing thread: with a false guard it only falls through. -/
def run (h : Head) (s : State) (f : State → State) : Host.Outcome State Fault Refusal :=
  if s.t.stat = .running then .next (if s.t.guard h then f s else s.next) else .fault .noActivation

/-- A checked value, or the trap. -/
def State.try_ {α : Type} (s : State) (x : Except Trp α) (f : α → State) : State :=
  match x with
  | .ok a => f a
  | .error t => s.trapE t

/-- A machine step: it needs no thread. -/
def event (s : State) (f : State → State) : Host.Outcome State Fault Refusal := .next (f s)

/-- Writes g[OD] and goes on. -/
def State.retG (s : State) (d : GReg) (v : Word) : State := s.updT fun t => (t.wrG d v).step
def State.retB (s : State) (d : BReg) (p : Ptr) : State := s.updT fun t => (t.wrB d p).step
def State.retV (s : State) (d : VReg) (v : VWord) : State := s.updT fun t => (t.wrV d v).step
def State.retM (s : State) (d : MReg) (v : MWord) : State := s.updT fun t => (t.wrM d v).step

/-! ### Privilege and role (R98, R109) -/

def State.priv (s : State) : Nat := s.ctxPriv s.t.ctx
def State.role (s : State) : Nat := coreRole s.core_

/-- CheckPriv (R114). -/
def State.atLeast (s : State) (level opc : Nat) (f : State → State) : State :=
  if s.priv < level then s.trap 0x04 0 opc else f s

/-- ROLE at stage 4 of R113. -/
def State.ofRole (s : State) (roles : List Nat) (opc : Nat) (f : State → State) : State :=
  if roles.contains s.role then f s else s.trap 0x05 0 opc

/-- PRIO and BOOSTED of a record that starts handler `hidx` of the issuing context (R168). -/
def State.sendPrio (s : State) (hidx : Nat) (noinh : Bool) : Nat × Bool :=
  let e := s.hPrio s.t.ctx hidx
  if !noinh && decide (e < s.t.boost) then (s.t.boost, true) else (e, false)

/-! ### Scalar operands (R115) -/

/-- An immediate, sign-extended (R95). -/
def immW (i : Imm) : Word := i.signExtend 64

/-- Src: a g register's value or the sign-extended immediate. -/
def Thread.gi (t : Thread) : GI → Word
  | .g r => t.rdG r
  | .i v => immW v

/-- KIND of a g or immediate operand, for tinfo.VALUE (R102). -/
def giKind : GI → Nat
  | .g _ => 1
  | .i _ => 6

/-- Width of an integer ETYPE in bits (R115). -/
def etWidth (et : EType) : Nat := 8 * 2 ^ (et.toNat / 2)
def etSig (et : EType) : Bool := et.toNat % 2 == 0

/-- Ext: an n-bit result extended to 64 bits (R115). -/
def extTo (x : Nat) (et : EType) : Word :=
  if etSig et then BitVec.ofInt 64 (asInt x (etWidth et)) else BitVec.ofNat 64 x

/-- A displacement in bytes (R95). -/
def dispOf (m : MemOp) (unit : Nat) : Int := m.disp.toInt * unit

/-- The pointer, its index, and the displacement of a memory operand. -/
def State.ptr (s : State) (b : BReg) : Ptr := s.t.rdB b

/-! ### Coordinate words (R43) -/

/-- A core that a program names: ILLEGAL_OPERAND for an unmapped word or a set upper bit, PRIVILEGE for
role 3 from a user context. A word that is both gets PRIVILEGE: R113 has both in one stage (DESIGN CHOICE, log 222). -/
def State.coord (s : State) (w : Word) : Except Trp Nat :=
  if 4096 ≤ w.toNat then .error ⟨0x02, 0, w.toNat⟩
  else if w.toNat / 1024 = 3 ∧ s.priv = 0 then .error ⟨0x04, 0, w.toNat⟩
  else match s.mapCore s.t.ctx w.toNat with
    | some c => .ok c
    | none => .error ⟨0x02, 0, w.toNat⟩

/-! ### Queue operands (R138, R174) -/

/-- The pad offset of the slot a queue operand names, after stages 6 and 7 up to BOUNDS: the slot must lie
in what the register still reserves, which is nothing where no queue is bound. An instruction with no active element
(`mem` false) makes no memory check (R164). The race check of the descriptor that ADV updates comes last (advCheck). -/
def State.slotAt (s : State) (o : QOp) (store : Bool) (size : Nat) (mem : Bool := true) : Except Trp Nat :=
  let q := s.t.rdQ o.q
  if !q.bound ∨ q.left ≤ o.c.toNat then
    .error ⟨if store then 0x22 else 0x21, 0, o.q.toNat + (o.c.toNat + 1) * 256⟩
  else
    let d := s.desc s.myPad q.desc
    if mem ∧ (d.size = 0 ∨ d.slotBytes < size) then .error ⟨0x10, 0, size⟩
    else .ok (d.slot (q.start + q.pos + o.c.toNat))

/-- The race check of the descriptor that an operand's ADV updates (R51, R173, R174). -/
def State.advCheck (s : State) (o : QOp) (mem : Bool := true) : Except Trp Unit :=
  if o.adv && mem then s.raceCheck {} (padNode s.myPad) (s.t.rdQ o.q).desc 32 aAtomW else .ok ()

/-- The pad of the issuing tile as its context sees it (R322). -/
def State.myPadSize (s : State) : Nat := s.padSize s.t.ctx s.myPad

/-- Bytes of a slot at a pad offset, checked as any pad access is (R138): BOUNDS, ALIGN, translation and world. -/
def State.padHit (s : State) (off size align : Nat) (store : Bool) : Except Trp Hit :=
  if s.myPadSize < off + size then .error ⟨0x10, off, size⟩
  else if off % align ≠ 0 then .error ⟨0x14, off, size⟩
  else match s.places s.t.ctx (padNode s.myPad) store false (pieces off size) with
    | .error e => .error ⟨e.cause, e.off, e.tinfo⟩
    | .ok l => .ok { node := padNode s.myPad, off := off, places := l }

/-- The slot that a queue operand names; a synchronising access of it is aligned (R136). -/
def State.slotHit (s : State) (o : QOp) (store : Bool) (size align : Nat) : Except Trp Hit :=
  match s.slotAt o store size with
  | .error t => .error t
  | .ok off => match s.padHit off size align store with
    | .error t => .error t
    | .ok h => match s.advCheck o with
      | .error t => .error t
      | .ok _ => .ok h

/-- Advances queue register `r` by `a`: POS, LEFT, the descriptor, and the release at tile scope (R174). -/
def State.advance (s : State) (r : BitVec 4) (a : Nat) : State :=
  let q := s.t.rdQ r
  if a = 0 then s else
  let pad := s.myPad
  let s := s.flushMine
  let d := s.desc pad q.desc
  let s := s.note (padNode pad) q.desc 32 aAtomW
  let s := if q.prod then
      (s.pokeN (padAddr pad (q.desc + oTail)) 4 (d.tail + a)).setHeld pad q.desc true (d.pheld - a)
    else (s.pokeN (padAddr pad (q.desc + oHead)) 4 (d.head + a)).setHeld pad q.desc false (d.cheld - a)
  let s := s.release s.me s.myLoc 0 (if q.prod then tailVar pad q.desc else headVar pad q.desc) 4 true
  s.updT fun t => t.wrQ r { q with pos := q.pos + a, left := q.left - a }

/-- A queue operand's ADV: past the slot it named, by c + 1 (R138). -/
def State.adv (s : State) (o : QOp) : State := if o.adv then s.advance o.q (o.c.toNat + 1) else s

/-! ### Vector elements and masks (R146) -/

/-- Bytes of an element of the ETYPE (R135). -/
def etSize (et : EType) : Nat := etBytes et.toNat
/-- Elements of a register. -/
def lanes (w : Nat) : Nat := 256 / w
/-- El: element i of w bytes. -/
def el (v : VWord) (i w : Nat) : Nat := bits v.toNat (8 * w * i) (8 * w)
/-- Act: whether the mask governs element i. -/
def act (m : MWord) (i w : Nat) : Bool := m.getLsbD (i * w)
/-- A governing mask operand; m0 where there is none. -/
def Thread.om (t : Thread) : Option MReg → MWord
  | some r => t.rdM r
  | none => BitVec.allOnes 256

/-- Joins n fields of k bits, the first lowest. -/
def joinFields (k n : Nat) (f : Nat → Nat) : Nat :=
  (List.range n).foldr (fun i acc => f i % 2 ^ k + 2 ^ k * acc) 0

/-- A register made of elements. -/
def mkV (w : Nat) (f : Nat → Nat) : VWord := BitVec.ofNat 2048 (joinFields (8 * w) (lanes w) f)

/-- Elements where the mask is set, the old register elsewhere (R147). -/
def mapV (old : VWord) (m : MWord) (w : Nat) (f : Nat → Nat) : VWord :=
  mkV w fun i => if act m i w then f i else el old i w

/-- A mask made of element results, each in all bits of its element. -/
def mkM (w : Nat) (f : Nat → Bool) : MWord :=
  BitVec.ofNat 256 (joinFields w (lanes w) fun i => if f i then 2 ^ w - 1 else 0)

/-- Opnd: element i of a vector operand, the low bytes of a scalar one (R147). -/
def Thread.vgi (t : Thread) (o : VGI) (i w : Nat) : Nat :=
  match o with
  | .v r => el (t.rdV r) i w
  | .g r => bits (t.rdG r).toNat 0 (8 * w)
  | .i v => bits (immW v).toNat 0 (8 * w)

def Thread.vg (t : Thread) (o : VG) (i w : Nat) : Nat :=
  match o with
  | .v r => el (t.rdV r) i w
  | .g r => bits (t.rdG r).toNat 0 (8 * w)

/-- The bytes of a register. -/
def vBytes (v : VWord) : List Byte := bytesOfNat 256 v.toNat

end Sys2Proof.Machine
end

