-- ==== Sys2Proof/Machine/Flags.lean ====
section
/-! DEFINITION. The floating-point flags and the rounding mode of the issuing thread (R59, R60). -/

namespace Sys2Proof.Machine

/-- Sticky flags of R60: NV, DZ, OF, UF, NX. -/
structure Fl where
  nv : Bool := false
  dz : Bool := false
  ov : Bool := false
  uf : Bool := false
  nx : Bool := false
  deriving DecidableEq, Repr

def Fl.or (a b : Fl) : Fl :=
  { nv := a.nv || b.nv, dz := a.dz || b.dz, ov := a.ov || b.ov, uf := a.uf || b.uf, nx := a.nx || b.nx }

/-- As they stand in fpflags. -/
def Fl.toBits (f : Fl) : BitVec 5 :=
  BitVec.ofNat 5 (f.nx.toNat + 2 * f.uf.toNat + 4 * f.ov.toNat + 8 * f.dz.toNat + 16 * f.nv.toNat)

/-- RaiseFlags: ORed into fpflags (R60). -/
def Thread.raise (t : Thread) (f : Fl) : Thread := { t with fpflags := t.fpflags ||| f.toBits }

/-- Mode(RND): 111 takes rmode.RM (R59). -/
def Thread.mode (t : Thread) (r : Rnd) : Nat := if r.toNat = 7 then t.rmode.toNat else r.toNat

end Sys2Proof.Machine
end

