-- ==== Sys2Proof/Machine/Groups.lean ====
section
/-! DEFINITION. A group's configuration and its members (R277 to R279). -/

namespace Sys2Proof.Machine

/-- The configuration as one number, byte 0 lowest. -/
def Group.num (g : Group) : Nat := natOfBytes g.cfg
def Group.rhidx (g : Group) : Nat := bits g.num 112 16
def Group.nhidx (g : Group) : Nat := bits g.num 96 16
def Group.rbuf (g : Group) : Nat := bits g.num 64 21
def Group.nchunk (g : Group) : Nat := bits g.num 48 7
def Group.nmemb (g : Group) : Nat := bits g.num 32 9

/-- Switch entry s, 128 bits. -/
def Group.entry (g : Group) (sw : Nat) : Nat := bits g.num (128 * (sw + 1)) 128
def eValid (e : Nat) : Bool := bitOn e 127
def eParent (e : Nat) : Nat := bits e 122 5
def eChild (e : Nat) : Nat := bits e 92 28
def eResult (e : Nat) : Nat := bits e 64 28
def eOp (e : Nat) : Nat := bits e 60 4
def eType (e : Nat) : Nat := bits e 58 2
def eTenant (e : Nat) : Nat := bits e 32 16
def eTimeout (e : Nat) : Nat := bits e 16 16

/-- The switch dies that take part. -/
def Group.valid (g : Group) : List Nat := (List.range 4).filter fun sw => eValid (g.entry sw)
/-- The root's switch die. -/
def Group.root (g : Group) : Option Nat := g.valid.find? fun sw => eParent (g.entry sw) == 31

/-- The member words, as the configuration lists them. -/
def Group.members (g : Group) : List Nat := (List.range g.nmemb).map fun i => bits g.num (640 + 16 * i) 12

/-- The switch that mesh port 8, 9 or 10 of switch sw leads to, and the port leading back (R275). -/
def meshTo (sw port : Nat) : Nat := (sw + port - 7) % 4
def meshBack (port : Nat) : Nat := 18 - port

/-- A VALID entry that is not the root has its parent's CHILD bit, and the way up ends at the root. -/
def Group.toRoot (g : Group) (sw : Nat) : Nat → Bool
  | 0 => false
  | f + 1 =>
    let p := eParent (g.entry sw)
    if p = 31 then true
    else if p < 8 ∨ 10 < p then false
    else
      let up := meshTo sw p
      eValid (g.entry up) && bitOn (eChild (g.entry up)) (meshBack p) && g.toRoot up f

/-- The member cores under context c's tables, each once with the word that names it: a member set holds a core
once, however many of its words do (R169, R279). -/
def State.memberCores (s : State) (c : Nat) (g : Group) : List (Nat × Nat) :=
  g.members.foldl (fun l w => match s.mapCore c w with
    | some core => if l.any fun e => e.1 == core then l else l ++ [(core, w)]
    | none => l) []

/-- Switch dies that results reach from the root. -/
def Group.reached (g : Group) : Nat → List Nat → List Nat
  | 0, l => l
  | f + 1, l => g.reached f ((l ++ l.flatMap fun sw => ([8, 9, 10].filter fun p =>
      bitOn (eResult (g.entry sw)) p && eValid (g.entry (meshTo sw p))).map (meshTo sw)).eraseDups)

/-- The group a group node or an aperture names. -/
def groupOf : Node → Option Nat
  | .group g => some g
  | _ => none
def apertureOf : Node → Option Nat
  | .reduce g => some g
  | _ => none

end Sys2Proof.Machine
end

