-- ==== Sys2Proof/Machine/Copy.lean ====
section
/-! DEFINITION. The copy engine's aperture: channel state, template table, windows, starting a copy and
acting on a faulted one, and the end of a command (R231 to R238). -/

namespace Sys2Proof.Machine

/-- A channel's key: its tile's pad and its number (R323). -/
def chanKey (pad c : Nat) : Nat := 8 * pad + c

/-! ### A template's fields (R234) -/

def CopyCmd.f (c : CopyCmd) (lo n : Nat) : Nat := bits c.tmpl.toNat lo n
def CopyCmd.hidx (c : CopyCmd) : Nat := c.f 464 16
def CopyCmd.xferid (c : CopyCmd) : Nat := c.f 432 32
def CopyCmd.src (c : CopyCmd) : Ptr := { tag := c.srcTag, raw := BitVec.ofNat 128 (c.f 0 128) }
def CopyCmd.dst (c : CopyCmd) : Ptr := { tag := c.dstTag, raw := BitVec.ofNat 128 (c.f 128 128) }

/-- The context holds its partition's tile cores, and its channels on the die still move (R239, R328). -/
def State.onTiles (s : State) (c die : Nat) : Bool :=
  let f := s.fn (s.ctxFn c)
  f.cur == c && (match f.phase with
    | .run => true
    | .ending _ saving _ _ => !saving.contains die) && decide (f.migr.st ≠ 3)

/-- The channel state word (R231). -/
def State.chanWord (s : State) (pad c : Nat) : Word :=
  match s.copyQ (chanKey pad c) with
  | [] => 0
  | q@(h :: _) =>
    let st := if h.fault.isSome then 2 else if s.onTiles h.ctx (padDie pad) then 1 else 3
    w64 (st + min q.length 8 * 256 + h.xferid * 2 ^ 32)

/-- TTAB and the windows of the issuing context on a tile. -/
def State.copyRegs (s : State) (c pad : Nat) : CopyRegs := tget {} (s.ctx c).copyRegs pad
def State.setCopyRegs (s : State) (c pad : Nat) (r : CopyRegs) : State :=
  s.updCtx c fun x => { x with copyRegs := tset {} x.copyRegs pad r }

/-- What an aligned 8-byte load of the aperture reads. -/
def State.copyRead (s : State) (pad off : Nat) : Word :=
  let r := s.copyRegs s.t.ctx pad
  if off < 0x40 then s.chanWord pad (off / 8)
  else if off = 0x40 then r.ttab
  else if 0xC0 ≤ off ∧ off < 0x100 then tget 0 r.win ((off - 0xC0) / 8)
  else 0

/-! ### Ending a command (R236) -/

/-- Posts the completion of a command of channel `key`, from the channel's die, to the core that started it. -/
def State.copyDone (s : State) (c : CopyCmd) (key status bytes : Nat) (know : Know) : State :=
  s.post { isMsg := true, hdr := mkHdr c.prio c.boosted false 4 c.hidx c.lword c.lword s.ts,
           payload := bytesOfNat 16 (bytes % 2 ^ 56 + status * 2 ^ 56 + key % 8 * 2 ^ 64 + c.xferid * 2 ^ 96),
           hidx := c.hidx, ctx := c.ctx, core := c.core, lcore := c.lword, key := 0x9000, sendTs := s.ts,
           launch := c.launch, know := know, xferid := BitVec.ofNat 32 c.xferid,
           sdie := some (padDie (key / 8)) }

/-! ### Starting a copy (R232, R233) -/

/-- A start of template x on channel c by the issuing thread, whose pointer is p: steps 1 to 4, the traps in the order
of R113. -/
def State.copyStart (s : State) (p : Ptr) (pad c x off : Nat) : State :=
  let addr := addrOf p off
  let r := s.copyRegs s.t.ctx pad
  let at_ := bits r.ttab.toNat 16 15 * 64 + 64 * x
  if bits r.ttab.toNat 0 16 ≤ x ∨ s.padSize s.t.ctx pad < at_ + 64 then s.trap 0x10 addr 8
  else if !bitOn (s.fn (s.ctxFn s.t.ctx)).recd.copych.toNat c then s.trap 0x11 addr rW
  else if s.world 1 (chanKey pad c) && !s.ctxWorld s.t.ctx then s.trap 0x1A addr (chanKey pad c)
  else
    let n := padNode pad
    match s.race s.me aRead (linesOf n at_ 64) with
    | some (l, a) => s.trap 0x20 (addrOf p (l * 64 - objAddr n 0 : Int)) a.who.toNat
    | none =>
      let s := s.note n at_ 64 aRead
      let a := padAddr pad at_
      let cmd : CopyCmd :=
        { tmpl := BitVec.ofNat 512 (s.peekN a 64), srcTag := tget false s.tags (a / 16),
          dstTag := tget false s.tags (a / 16 + 1), core := s.core_, lword := s.t.lcore, ctx := s.t.ctx, launch := s.t.launch }
      let (prio, boosted) := s.sendPrio cmd.hidx false
      let cmd := { cmd with prio := prio, boosted := boosted }
      let key := chanKey pad c
      if 8 ≤ (s.copyQ key).length then (s.copyDone cmd key 0x05 0 []).next
      else
        -- with ACQ, the command receives what its issuer has (R56)
        let s := if bitOn cmd.tmpl.toNat 505 || bitOn cmd.tmpl.toNat 501 then s.flushMine else s
        let know := if bitOn cmd.tmpl.toNat 501 then s.carry s.me else []
        let (party, s) := s.newParty know
        (s.setCopyQ key (s.copyQ key ++ [{ cmd with party := party }])).next

/-! ### Fault actions (R238) -/

/-- A channel's queue on the tile, or as saved with a context that does not hold it (R239). -/
def State.copyQAt (s : State) (key : Nat) : Option Nat → List CopyCmd
  | none => s.copyQ key
  | some x => tget [] (tget {} (s.ctx x).saved (key / 8)).copies key

def State.setCopyQAt (s : State) (key : Nat) (q : List CopyCmd) : Option Nat → State
  | none => s.setCopyQ key q
  | some x => s.updCtx x fun y =>
    let old := tget {} y.saved (key / 8)
    { y with saved := tset {} y.saved (key / 8) { old with copies := tset [] old.copies key q } }

/-- Where a head of the channel waits on a fault of the sequence number, among the queues of the issuing context's
function: the queue's place, the fault's cause, the head and what is behind it. -/
def State.copyWaiting (s : State) (key fseq : Nat) : Option (Option Nat × Nat × CopyCmd × List CopyCmd) :=
  let n := s.ctxFn s.t.ctx
  let at_ := none :: (s.ctxs.filter fun e => e.2.live && e.2.fn == n).map fun e => some e.1
  at_.findSome? fun x => match s.copyQAt key x with
    | h :: r => match h.fault with
      | some (q, cause) => if q = fseq then some (x, cause, h, r) else none
      | none => none
    | [] => none

/-- Resume at the faulting beat. -/
def State.copyResume (s : State) (pad c fseq : Nat) : State :=
  match s.copyWaiting (chanKey pad c) fseq with
  | some (x, _, h, r) => s.setCopyQAt (chanKey pad c) ({ h with fault := none } :: r) x
  | none => s

/-- Ends a command at its channel's head, with its release and its completion (R236). -/
def State.copyEndAt (s : State) (key status : Nat) (x : Option Nat) : State :=
  match s.copyQAt key x with
  | h :: r =>
    let know := if bitOn h.tmpl.toNat 505 then s.carry h.party else []
    ((s.setCopyQAt key r x).copyDone h key status h.bytes know).endParty h.party
  | [] => s

/-- Ends the command at the head of a channel of the tile. -/
def State.copyEnd (s : State) (pad c status : Nat) : State := s.copyEndAt (chanKey pad c) status none

/-- End a faulted command with its fault as status. -/
def State.copyAbort (s : State) (pad c fseq : Nat) : State :=
  match s.copyWaiting (chanKey pad c) fseq with
  | some (x, cause, _, _) => s.copyEndAt (chanKey pad c) cause x
  | none => s

/-- A store to CTL[c]. -/
def State.copyCtl (s : State) (pad c : Nat) (v : Word) : State :=
  let q := bits v.toNat 32 32
  match bits v.toNat 0 2 with
  | 1 => s.copyResume pad c q
  | 2 => s.copyAbort pad c q
  | _ => s

/-- TTAB's and WIN's writable bits (R231, R237). -/
def State.copyTtab (s : State) (pad : Nat) (v : Word) : State :=
  s.setCopyRegs s.t.ctx pad { s.copyRegs s.t.ctx pad with ttab := w64 (bits v.toNat 0 31) }
def State.copyWin (s : State) (pad k : Nat) (v : Word) : State :=
  let r := s.copyRegs s.t.ctx pad
  s.setCopyRegs s.t.ctx pad { r with win := tset 0 r.win k (w64 (bits v.toNat 0 49)) }

/-- An aligned 8-byte store to the aperture of the issuing thread's own tile (R231). -/
def State.copyStore (s : State) (p : Ptr) (pad off : Nat) (v : Word) : State :=
  if off < 0x40 then s.copyStart p pad (off / 8) v.toNat off
  else if off = 0x40 then (s.copyTtab pad v).next
  else if off < 0x80 then s.next
  else if off < 0xC0 then
    if s.priv = 0 then s.trap 0x11 (addrOf p off) rW else (s.copyCtl pad ((off - 0x80) / 8) v).next
  else (s.copyWin pad ((off - 0xC0) / 8) v).next

end Sys2Proof.Machine
end

