-- ==== Sys2Proof/Machine/ScalarMem.lean ====
section
/-! DEFINITION. Scalar memory, class 0x4 (R135 to R145), and what loads and stores share with vector
memory. -/

namespace Sys2Proof.Machine

/-! ### ORDER codes of R80 -/

def oACQ : Nat := 1
def oREL : Nat := 2
def oAR : Nat := 3
def oSC : Nat := 4
/-- The access acquires, or releases (R46, R137). -/
def acquires (od : Nat) : Bool := od == oACQ || od == oAR || od == oSC
def releases (od : Nat) : Bool := od == oREL || od == oAR || od == oSC
/-- A synchronising ORDER needs S as well (R136). -/
def withS (need od : Nat) : Nat := if od = 0 then need else need + rS

/-! ### Reads and writes of places that passed stage 7 up to RACE -/

/-- A read of the given kind: RACE, then the bytes; an acquire receives (R46, R49, R51). -/
def State.readAs (s : State) (kind : Nat) (p : Ptr) (h : Hit) (n od sc : Nat) : Except Trp (List Byte × State) :=
  match s.raceCheck p h.node h.off n kind with
  | .error t => .error t
  | .ok _ =>
    let s := s.flushRange h.node h.off n
    let bytes := s.peekPlaces h.places
    let s := s.note h.node h.off n kind
    .ok (bytes, if acquires od then s.acquire s.me s.myLoc sc (objAddr h.node h.off) else s)

/-- A load's read: plain, or synchronising and then atomic (R45, R46). -/
def State.readHit (s : State) (p : Ptr) (h : Hit) (n od sc : Nat) : Except Trp (List Byte × State) :=
  s.readAs (if od = 0 then aRead else aAtomR) p h n od sc

/-- A plain store, posted where the home is elsewhere, or a release, performed after every earlier store. -/
def State.writeHit (s : State) (p : Ptr) (h : Hit) (bytes : List Byte) (od sc : Nat) : Except Trp State :=
  match s.storeCheck p h.node h.off bytes.length (if od = 0 then aWrite else aAtomW) with
  | .error t => .error t
  | .ok _ =>
    if od = 0 then .ok (s.storeHit p h bytes false false)
    else
      let s := s.flushMine
      let s := (s.overwrite (objAddr h.node h.off) bytes.length).pokePlaces h.places bytes
      let s := s.noteStore h.node h.off bytes.length aAtomW
      let s := match nodePad h.node with
        | some pad => s.marked s.core_ pad h.off bytes.length (s.carry s.me)
        | none => s
      .ok (s.release s.me s.myLoc sc (objAddr h.node h.off) bytes.length false)

/-- A store through a queue node: it appends at the home, in issue order, and carries what its issuer has
accessed or received since its last release (R55, R139, R241). -/
def State.storeQueue (s : State) (p : Ptr) (n : Node) (off : Nat) (bytes : List Byte) : State :=
  let s := s.flushStores
  let a := s.party s.me
  (s.postWrite p { node := n, off := off, bytes := bytes, pub := a.sinceRel }).setParty s.me { a with sinceRel := [] }

/-- The aperture of the issuing tile. -/
def State.ownCopy (s : State) (n : Node) : Bool :=
  match n with
  | .copy d t => 32 * d + t == s.myPad
  | _ => false

/-! ### LD and ST (R137) -/

/-- LD through a pointer. -/
def State.loadPtr (s : State) (p : Ptr) (bix : Nat) (disp : Int) (size od sc : Nat) : Except Trp (Nat × State) :=
  let need := withS rR od
  if p.pay && p.tag then (s.payload p disp size need).map fun b => (natOfBytes b, s)
  else match s.checkPtr s.t.ctx p bix disp size need with
    | .error t => .error (s.mullRefused p .load t)
    | .ok (h, off) =>
      if isCopy h.node then
        if size ≠ 8 ∨ off % 8 ≠ 0 then .error ⟨0x14, addrOf p off, size⟩
        else if !s.ownCopy h.node then .error ⟨0x11, addrOf p off, rR⟩
        else .ok ((s.copyRead s.myPad off).toNat, s)
      else match s.reach p bix disp size need .load (if od = 0 then 1 else size) with
        | .error t => .error t
        | .ok hit => (s.readHit p hit size od sc).map fun (b, s) => (natOfBytes b, s)

/-- LD of a queue slot (R138). A synchronising ORDER needs no S, as a slot is reached through no pointer: DESIGN CHOICE
(log 200). -/
def State.loadQueue (s : State) (o : QOp) (size od sc : Nat) : Except Trp (Nat × State) :=
  match s.slotHit o false size (if od = 0 then 1 else size) with
  | .error t => .error t
  | .ok hit => (s.readHit {} hit size od sc).map fun (b, s) => (natOfBytes b, s.adv o)

/-- A loaded value in a g register: extended for integer ETYPEs, zero-extended for others. -/
def loaded (et : EType) (x : Nat) : Word := if et.toNat ≤ 7 then extTo x et else w64 x

def execLd (h : Head) (et : EType) (od : Ord3) (sc : Scope3) (d : GReg) (a : MQ) (s : State) : Host.Outcome State Fault Refusal :=
  run h s fun s =>
    let size := etSize et
    s.try_ (match a with
      | .mem m => s.loadPtr (s.ptr m.b) m.b.toNat (dispOf m size) size od.toNat sc.toNat
      | .que o => s.loadQueue o size od.toNat sc.toNat) fun (x, s) => s.retG d (loaded et x)

/-- ST through a pointer. The state that comes back has moved on. -/
def State.storePtr (s : State) (p : Ptr) (bix : Nat) (disp : Int) (bytes : List Byte) (od sc : Nat) : Except Trp State :=
  let size := bytes.length
  let need := withS rW od
  if p.pay && p.tag then (s.payload p disp size need).map fun _ => s.next
  else match s.checkPtr s.t.ctx p bix disp size need with
    | .error t => .error (s.mullRefused p .store t)
    | .ok (h, off) =>
      if isCopy h.node then
        if size ≠ 8 ∨ off % 8 ≠ 0 then .error ⟨0x14, addrOf p off, size⟩
        else if s.ownCopy h.node then .ok (s.copyStore p s.myPad off (w64 (natOfBytes bytes)))
        else .ok (s.storeHit p { node := h.node, off := off, places := [] } bytes false false).next
      else if od ≠ 0 ∧ off % size ≠ 0 ∧ s.nodeKind h.node = kQueue then .error ⟨0x14, addrOf p off, size⟩
      else if s.nodeKind h.node = kQueue then .ok (s.storeQueue p h.node off bytes).next
      else match s.reach p bix disp size need .store (if od = 0 then 1 else size) with
        | .error t => .error t
        | .ok hit => (s.writeHit p hit bytes od sc).map State.next

/-- ST to a queue slot (R138). -/
def State.storeSlot (s : State) (o : QOp) (bytes : List Byte) (od sc : Nat) : Except Trp State :=
  match s.slotHit o true bytes.length (if od = 0 then 1 else bytes.length) with
  | .error t => .error t
  | .ok hit => (s.writeHit {} hit bytes od sc).map fun s => (s.adv o).next

/-- ST's effect for the issuing thread. -/
def State.store (s : State) (et : EType) (od : Ord3) (sc : Scope3) (d : MQ) (a : GI) : State :=
  let size := etSize et
  let bytes := bytesOfNat size (s.t.gi a).toNat
  s.try_ (match d with
    | .mem m => s.storePtr (s.ptr m.b) m.b.toNat (dispOf m size) bytes od.toNat sc.toNat
    | .que o => s.storeSlot o bytes od.toNat sc.toNat) id

/-- The pointer that a store goes through: none for a queue slot. -/
def State.through (s : State) : MQ → Ptr
  | .mem m => s.ptr m.b
  | .que _ => {}

def execSt (h : Head) (et : EType) (od : Ord3) (sc : Scope3) (d : MQ) (a : GI) (s : State) : Host.Outcome State Fault Refusal :=
  run h s fun s => s.after (s.through d) (s.store et od sc d a)

/-! ### ATOM and CAS (R140) -/

/-- A read-modify-write at the home: `f` gives the new value, or none where nothing is written. -/
def State.rmw (s : State) (m : MemOp) (size od sc : Nat) (f : Nat → Option Nat) : Except Trp (Nat × State) :=
  let p := s.ptr m.b
  match s.reach p m.b.toNat (dispOf m size) size (withS rA od) .atomic size with
  | .error t => .error t
  | .ok h =>
    let s := s.flushHandle p h.node h.off size
    let old := natOfBytes (s.peekPlaces h.places)
    match f old with
    | none =>
      -- an atomic load that keeps only the acquire half
      s.readAs aAtomR p h size (if acquires od then oACQ else 0) sc |>.map fun (b, s) => (natOfBytes b, s)
    | some new =>
      match s.raceCheck p h.node h.off size aAtomW with
      | .error t => .error t
      | .ok _ =>
        let s := if releases od then s.flushMine else s
        let a := objAddr h.node h.off
        let s := s.pokePlaces h.places (bytesOfNat size new)
        let s := s.note h.node h.off size aAtomW
        let s := if acquires od then s.acquire s.me s.myLoc sc a else s
        .ok (old, if releases od then s.release s.me s.myLoc sc a size true else s.rmwVar a)

/-- ATOM's operations. -/
def atomOp (op : Nat) (et : EType) (old v : Nat) : Nat :=
  match op with
  | 0 => old + v
  | 1 => old &&& v
  | 2 => old ||| v
  | 3 => old ^^^ v
  | 4 => v
  | 5 => if etSig et then (if asInt old (etWidth et) ≤ asInt v (etWidth et) then old else v) else Nat.min old v
  | _ => if etSig et then (if asInt old (etWidth et) ≤ asInt v (etWidth et) then v else old) else Nat.max old v

def execAtom (h : Head) (et : EType) (od : Ord3) (sc : Scope3) (op : BitVec 3) (d : GReg) (a : MemOp) (b : GI) (s : State) : Host.Outcome State Fault Refusal :=
  run h s fun s => s.after (s.ptr a.b) <|
    let v := bits (s.t.gi b).toNat 0 (etWidth et)
    s.try_ (s.rmw a (etSize et) od.toNat sc.toNat fun old => some (atomOp op.toNat et old v))
      fun (x, s) => s.retG d (extTo x et)

def execCas (h : Head) (et : EType) (od : Ord3) (sc : Scope3) (d : GReg) (a : MemOp) (b : GReg) (s : State) : Host.Outcome State Fault Refusal :=
  run h s fun s => s.after (s.ptr a.b) <|
    let want := bits (s.t.rdG d).toNat 0 (etWidth et)
    let new := bits (s.t.rdG b).toNat 0 (etWidth et)
    s.try_ (s.rmw a (etSize et) od.toNat sc.toNat fun old => if old = want then some new else none)
      fun (x, s) => s.retG d (extTo x et)

/-! ### FENCE and FFLAG (R141, R142) -/

/-- A pad's place among the scopes. -/
def padLoc (pad : Nat) : Loc :=
  coreLoc (if pad < 1024 then coreOf (pad / 32) (pad % 32) 0 else coreOf (padDie pad) (pad % 4) 3)

/-- Where a node's home lies among the scopes: a queue's is the tile of its ring (R241). -/
def State.homeLoc (s : State) (n : Node) : Loc :=
  match n with
  | .copy d t | .sem d t => padLoc (32 * d + t)
  | _ => match nodePad n, s.ringOf n with
    | some pad, _ => padLoc pad
    | none, some (pad, _) => padLoc pad
    | none, none => { core := coreOf (s.nodeHome n) 0 0, width := 2 }

/-- The writes issued before a FENCE with a release half, to homes inside its scope, are performed, posted JOINs and
SEMVs among them; every earlier load has returned in any case. -/
def State.fence (s : State) (od sc : Nat) : State :=
  if releases od then
    (s.flush fun q => q.party == s.me && locIn sc s.myLoc (s.homeLoc q.node)).flushSemvs fun r =>
      r.party == s.me && locIn sc s.myLoc (padLoc r.pad)
  else s

/-- Whether an NWRITE that such a FENCE orders is still to be performed: the FENCE waits for it at its issue (R141, R254;
DESIGN CHOICE, log 179). -/
def State.fenceWaits (s : State) (od sc : Nat) : Bool :=
  releases od && s.txns.any fun e =>
    s.writeComing e.2 && locIn sc s.myLoc (s.homeLoc (s.hent s.t.ctx e.2.ha.1).node)

def execFence (h : Head) (od : Ord3) (sc : Scope3) (s : State) : Host.Outcome State Fault Refusal :=
  run h s fun s => if s.fenceWaits od.toNat sc.toNat then s else (s.fence od.toNat sc.toNat).next

/-- FFLAG (R55, R142): the stores to the flag's die are performed first, and with them, as it is a release, every other
posted write of the activation (R49). -/
def State.fflag (s : State) (m : MemOp) (size sc v : Nat) : Except Trp State :=
  let p := s.ptr m.b
  match s.reach p m.b.toNat (dispOf m size) size (rW + rS) .store size with
  | .error t => .error t
  | .ok h =>
    match s.raceCheck p h.node h.off size aAtomW with
    | .error t => .error t
    | .ok _ =>
      let die := s.nodeHome h.node
      let s := s.flushMine.flush fun q => q.party == s.me && s.nodeHome q.node == die
      let s := s.pokePlaces h.places (bytesOfNat size v)
      let s := s.overwrite (objAddr h.node h.off) size
      let s := s.note h.node h.off size aAtomW
      .ok (s.releaseFlag s.me s.myLoc sc (objAddr h.node h.off) size die)

def execFflag (h : Head) (et : EType) (sc : Scope3) (d : MemOp) (a : GI) (s : State) : Host.Outcome State Fault Refusal :=
  run h s fun s => s.after (s.ptr d.b) (s.try_ (s.fflag d (etSize et) sc.toNat (s.t.gi a).toNat) State.next)

/-! ### Pointers in memory, and PREF (R143, R144) -/

/-- PLD: the granule's bits and its tag. -/
def State.pld (s : State) (m : MemOp) : Except Trp (Ptr × State) :=
  let p := s.ptr m.b
  if p.pay && p.tag then
    match s.payload p (dispOf m 16) 16 rR with
    | .error t => .error t
    | .ok b => if (p.cursor + (dispOf m 16).toNat) % 16 ≠ 0 then .error ⟨0x14, addrOf p (p.cursor + dispOf m 16), 16⟩
               else .ok ({ raw := BitVec.ofNat 128 (natOfBytes b) }, s)
  else match s.reach p m.b.toNat (dispOf m 16) 16 rR .load 16 with
    | .error t => .error t
    | .ok h => (s.readHit p h 16 0 0).map fun (b, s) =>
        ({ tag := h.places.any fun (pl, _) => tget false s.tags (pl.addr / 16), raw := BitVec.ofNat 128 (natOfBytes b) }, s)

def execPld (h : Head) (d : BReg) (a : MemOp) (s : State) : Host.Outcome State Fault Refusal :=
  run h s fun s => s.try_ (s.pld a) fun (p, s) => s.retB d p

/-- PST: a pointer without G goes only to the issuing tile's pad. -/
def State.pst (s : State) (m : MemOp) (v : Ptr) : Except Trp State :=
  let p := s.ptr m.b
  if p.pay && p.tag then (s.payload p (dispOf m 16) 16 rW).map fun _ => s
  else match s.checkPtr s.t.ctx p m.b.toNat (dispOf m 16) 16 rW with
    | .error t => .error (s.mullRefused p .store t)
    | .ok (h, off) =>
      if !hasAll v.perms rG && nodePad h.node != some s.myPad && s.nodeKind h.node != kMull then .error ⟨0x11, addrOf p off, rG⟩
      else match s.reach p m.b.toNat (dispOf m 16) 16 rW .store 16 with
        | .error t => .error t
        | .ok hit =>
          match s.raceCheck p hit.node hit.off 16 aWrite with
          | .error t => .error t
          | .ok _ => .ok (s.storeHit p hit (bytesOfNat 16 v.raw.toNat) true v.tag)

def execPst (h : Head) (d : MemOp) (a : BReg) (s : State) : Host.Outcome State Fault Refusal :=
  run h s fun s => s.after (s.ptr d.b) (s.try_ (s.pst d (s.t.rdB a)) State.next)

/-- PREF asks for a line and changes nothing (R144). -/
def execPref (h : Head) (_wr : Bool) (_d : MemOp) (s : State) : Host.Outcome State Fault Refusal :=
  run h s State.next

end Sys2Proof.Machine
end

