-- ==== Sys2Proof/Machine/Message.lean ====
section
/-! DEFINITION. Messaging, queues, semaphores and sync words, class 0x9 (R166 to R181). -/

namespace Sys2Proof.Machine

/-! ### SEND and SENDM (R167 to R169) -/

/-- Plain reads of `n` bytes through b register `b`, aligned to 4, as a payload is read at issue. -/
def State.readPayload (s : State) (b : BReg) (n : Nat) : Except Trp (List Byte × State) :=
  let p := s.ptr b
  let off : Int := p.cursor
  if p.pay && p.tag then
    match s.payload p 0 n rR with
    | .error t => .error t
    | .ok x => if off % 4 ≠ 0 then .error ⟨0x14, addrOf p off, 4⟩ else .ok (x, s)
  else match s.checkPtr s.t.ctx p b.toNat 0 n rR with
    | .error t => .error t
    | .ok (_, o) =>
      if o % 4 ≠ 0 then .error ⟨0x14, addrOf p o, 4⟩
      else match s.reach p b.toNat 0 n rR .load 1 with
        | .error t => .error t
        | .ok h => s.readHit p h n 0 0

/-- A message's payload: none for LEN 0. LEN and OB must agree. -/
def State.sendPayload (s : State) (len : BitVec 6) (b : Option BReg) : Except Trp (List Byte × State) :=
  match b with
  | none => if len = 0 then .ok ([], s) else .error (trOperand 3 0)
  | some r => if len = 0 then .error (trOperand 3 3) else s.readPayload r (4 * len.toNat)

/-- The message that the issuing activation forms, for physical core `core` with word `w`. -/
def State.message (s : State) (len : BitVec 6) (noinh mcast : Bool) (hidx : Nat) (pl : List Byte) (core w : Nat) : Rec :=
  let (prio, boosted) := s.sendPrio hidx noinh
  { isMsg := true, hdr := mkHdr prio boosted mcast len.toNat hidx s.t.lcore w s.ts, payload := pl, hidx := hidx,
    ctx := s.t.ctx, core := core, lcore := w, key := s.t.lcore, sendTs := s.ts, know := s.carry s.me, launch := s.t.launch,
    sdie := if mcast then none else some (coreDie s.core_), sender := s.me }

def execSend (h : Head) (len : BitVec 6) (noinh : Bool) (d : GReg) (a : GI) (b : Option BReg) (s : State) : Host.Outcome State Fault Refusal :=
  run h s fun s =>
    let w := s.t.rdG d
    s.try_ (s.coord w) fun core =>
      s.try_ (s.sendPayload len b) fun (pl, s) =>
        let s := s.flushMine
        (s.post (s.message len noinh false (bits (s.t.gi a).toNat 0 16) pl core w.toNat)).next

/-- The group that a SENDM names, after its checks. -/
def State.groupPtr (s : State) (b : BReg) : Except Trp Nat :=
  let p := s.ptr b
  match s.checkPtr s.t.ctx p b.toNat 0 1 rW with
  | .error t => .error t
  | .ok (e, off) => match groupOf e.node with
    | some g => .ok g
    | none => .error ⟨0x11, addrOf p off, rW⟩

/-- One copy to each member core, under the issuing context's tables; a group with no switch entry delivers
nothing (R279). -/
def State.multicast (s : State) (g : Group) (f : Nat → Nat → Rec) : State :=
  let reach := g.reached 4 (g.valid.filter fun sw => eParent (g.entry sw) == 31)
  (s.memberCores s.t.ctx g).foldl (fun s m =>
    if reach.contains (coreDie m.1 / 8) && bitOn (eResult (g.entry (coreDie m.1 / 8))) (coreDie m.1 % 8)
    then s.post (f m.1 m.2) else s) s

def execSendm (h : Head) (len : BitVec 6) (noinh : Bool) (d : BReg) (a : GI) (b : Option BReg) (s : State) : Host.Outcome State Fault Refusal :=
  run h s fun s =>
    if len = 0 ∧ b.isSome then s.trapOperand 3 3
    else if len ≠ 0 ∧ b.isNone then s.trapOperand 3 0
    else s.try_ (s.groupPtr d) fun g =>
      s.try_ (s.sendPayload len b) fun (pl, s) =>
        let s := s.flushMine
        (s.multicast (s.group g) fun core w =>
          { s.message len noinh true (bits (s.t.gi a).toNat 0 16) pl core w with
            sdie := some (64 + 4096 * coreDie s.core_ + g) }).next

/-! ### POST and JOIN (R170 to R172) -/

/-- A join cell's bytes as one number. -/
def cellNum (rec_ dst ctx wprio armed : Nat) : Nat :=
  rec_ + dst * 2 ^ 256 + armed * 2 ^ 296 + wprio * 2 ^ 297 + ctx * 2 ^ 300

/-- A continuation record of R27. -/
def contNum (hidx chan jc : Nat) (genarg : Bool) (arg : Word) (frame : Quad) : Nat :=
  hidx + chan * 2 ^ 16 + genarg.toNat * 2 ^ 24 + jc * 2 ^ 32 + arg.toNat * 2 ^ 64 + frame.toNat * 2 ^ 128

/-- The join cell that b register `b` names: 64 bytes, aligned. -/
def State.joinCell (s : State) (b : BReg) (need : Nat) : Except Trp Hit :=
  s.reach (s.ptr b) b.toNat 0 64 need .atomic 64

/-- The activation's continuation record for its own core, whose channel it joins at once (R170). -/
def State.contRec (s : State) (ctl arg : Word) (frame : Ptr) : Rec :=
  { frame := frame, arg := arg, genarg := bitOn ctl.toNat 24, hidx := bits ctl.toNat 0 16, chan := bits ctl.toNat 16 4,
    chanFixed := true, ctx := s.t.ctx, core := s.core_, lcore := s.t.lcore, key := s.t.lcore, sendTs := s.ts,
    know := s.carry s.me, launch := s.t.launch }

/-- Whether the channel that a POST's control word names is bound to its pool (R28). -/
def State.poolBound (s : State) (ctl : Word) : Bool := (s.chan (16 * s.core_ + bits ctl.toNat 16 4)).mode == 1

/-- Arms a join cell (R170), unless it is armed already. -/
def State.arm (s : State) (b : BReg) (ctl arg : Word) (frame : Ptr) : Except Trp State :=
  let p := s.ptr b
  match s.checkPtr s.t.ctx p b.toNat 0 64 (rW + rA) with
  | .error t => .error (s.mullRefused p .atomic t)
  | .ok (e, off) =>
    let noG : Bool := s.kindOk e.node .atomic && frame.tag && !hasAll frame.perms rG
    if noG && s.poolBound ctl then .error ⟨0x11, 0, rG⟩
    else if noG && nodePad e.node != some s.myPad then .error ⟨0x11, addrOf p off, rG⟩
    else match s.joinCell b (rW + rA) with
      | .error t => .error t
      | .ok h =>
        match s.raceCheck p h.node h.off 64 aAtomW with
        | .error t => .error t
        | .ok _ =>
          let s := s.flushHandle p h.node h.off 64
          let a := (h.places.headD ({ addr := 0 }, 0)).1.addr
          if s.armed a then .error (trOperand 1 3)
          else
            let c := contNum (bits ctl.toNat 0 16) (bits ctl.toNat 16 4) (bits ctl.toNat 32 32) (bitOn ctl.toNat 24) arg frame.raw
            let s := s.pokePlaces h.places (bytesOfNat 64 (cellNum c s.t.lcore s.t.ctx (min 7 s.t.eff) 1))
            let s := s.note h.node h.off 64 aAtomW
            .ok { s with tags := tset false s.tags (a / 16 + 1) frame.tag, marks := tset false s.marks (a / 64) true,
                         joinCarry := tset [] s.joinCarry (objAddr h.node h.off / 64) [] }

def execPost (h : Head) (d : Option BReg) (a : GReg) (b : Option BReg) (s : State) : Host.Outcome State Fault Refusal :=
  run h s fun s =>
    if a.toNat % 2 ≠ 0 then s.trapOperand 2 1
    else
      let ctl := s.t.rdG a
      let arg := s.t.rdG (a + 1)
      let jc := bits ctl.toNat 32 32
      let frame : Ptr := match b with | some r => s.t.rdB r | none => {}
      match d with
      | none =>
        if jc ≠ 0 then s.trapOperand 1 0
        else if frame.tag && !hasAll frame.perms rG && s.poolBound ctl then s.trap 0x11 0 rG
        else
          let s := s.flushMine
          (s.arriveRec (s.contRec ctl arg frame)).next
      | some c => if jc = 0 then s.trapOperand 1 3 else s.after (s.ptr c) (s.try_ (s.arm c ctl arg frame) State.next)

/-- JOIN's issue: the checks, then the posted request, performed at once at an own home. -/
def State.joinIssue (s : State) (b : BReg) (k : Nat) : Except Trp State :=
  let p := s.ptr b
  match s.joinCell b rA with
  | .error t => .error t
  | .ok h =>
    match s.raceCheck p h.node h.off 64 aAtomW with
    | .error t => .error t
    | .ok _ =>
      let s := s.flushMine
      let s := s.note h.node h.off 64 aAtomW
      let j : JoinReq :=
        { seq := s.nextAcc, party := s.me, gen := p.gen, place := (h.places.headD ({}, 0)).1, node := h.node, off := h.off,
          handle := BitVec.ofNat 20 p.hidx, k := k, ctx := s.t.ctx, core := s.core_, lword := s.t.lcore, know := s.carry s.me,
          sendTs := s.ts, launch := s.t.launch }
      let s := { s with nextAcc := s.nextAcc + 1 }
      .ok (if s.remote h.node then { s with joins := s.joins ++ [j] } else s.joinAt j)

def execJoin (h : Head) (d : BReg) (a : GI) (s : State) : Host.Outcome State Fault Refusal :=
  run h s fun s =>
    let k := (s.t.gi a).toNat
    if k = 0 ∨ 2 ^ 32 ≤ k then s.trapOperand 2 (giKind a) else s.after (s.ptr d) (s.try_ (s.joinIssue d k) State.next)

/-! ### Queue registers (R175, R176) -/

def execQadv (h : Head) (d : QOp) (s : State) : Host.Outcome State Fault Refusal :=
  run h s fun s =>
    let q := s.t.rdQ d.q
    let n := d.c.toNat
    if d.adv ∨ !q.bound then s.trapOperand 1 4
    else if n = 0 then s.next
    else if q.left < n then s.trap (if q.prod then 0x22 else 0x21) 0 (d.q.toNat + n * 256)
    else s.try_ (s.raceCheck {} (padNode s.myPad) q.desc 32 aAtomW) fun _ => (s.advance d.q n).next

/-- QSTAT's word. -/
def qstatWord (q : QReg) (d : Desc) : Word :=
  w64 (q.left % 256 + q.pos % 256 * 2 ^ 8 + 2 ^ 16 + q.prod.toNat * 2 ^ 17 + min d.filled 0xFFFF * 2 ^ 32
    + (d.size - d.filled) % 65536 * 2 ^ 48)

def execQstat (h : Head) (d : GReg) (a : QOp) (s : State) : Host.Outcome State Fault Refusal :=
  run h s fun s =>
    let q := s.t.rdQ a.q
    if a.adv ∨ a.c ≠ 0 then s.trapOperand 2 4
    else if !q.bound then s.retG d 0
    else s.try_ (s.raceCheck {} (padNode s.myPad) q.desc 32 aAtomR) fun _ =>
      let s := s.flushAppends s.myPad
      (s.note (padNode s.myPad) q.desc 32 aAtomR).retG d (qstatWord q (s.desc s.myPad q.desc))

/-- QBIND's checks: the descriptor's offset, or the trap. -/
def State.bindOff (s : State) (d : QOp) (a : GI) : Except Trp Nat :=
  let off := bits (s.t.gi a).toNat 0 21
  if d.adv ∨ d.c ≠ 0 ∨ d.q.toNat < 4 then .error (trOperand 1 4)
  else if off % 32 ≠ 0 ∨ s.myPadSize < off + 32 then .error (trOperand 2 (giKind a))
  else .ok off

/-- Binds a register with no reservation. -/
def State.qbind (s : State) (d : QOp) (off : Nat) : State :=
  s.updT fun t => (t.wrQ d.q { bound := true, desc := off }).step

def execQbind (h : Head) (d : QOp) (a : GI) (s : State) : Host.Outcome State Fault Refusal :=
  run h s fun s => s.try_ (s.bindOff d a) fun off => s.qbind d off

/-- The descriptor that INIT writes: BASE, SIZE and SLOTLOG of g[OB]. -/
def initDesc (w : Nat) : Nat := bits w 20 21 + bits w 4 16 * 2 ^ 128 + bits w 0 4 * 2 ^ 144

/-- QBIND.init. Its write of HEAD and TAIL is taken for a read-modify-write: acquires of them still meet the releases
before it (DESIGN CHOICE, log 206). -/
def execQbindInit (h : Head) (d : QOp) (a : GI) (b : GReg) (s : State) : Host.Outcome State Fault Refusal :=
  run h s fun s => s.try_ (s.bindOff d a) fun off =>
    let x := initDesc (s.t.rdG b).toNat
    let n := padNode s.myPad
    if (descOf x).faulty s.myPadSize then s.trapOperand 3 1
    else s.try_ (s.raceCheck {} n off 32 aAtomW) fun _ =>
      let s := s.flushAppends s.myPad
      let old := s.desc s.myPad off
      if old.cheld ≠ 0 ∨ old.pheld ≠ 0 then s.trapOperand 2 1
      else ((s.pokeN (padAddr s.myPad off) 32 x).note n off 32 aAtomW).qbind d off

/-! ### Semaphores (R177) -/

/-- WORLD where a non-secure thread reaches a secure block (R109). -/
def State.reachBlock (s : State) (block : Nat × Nat) (addr : Nat) : Except Trp Unit :=
  if s.world block.1 block.2 && !s.ctxWorld s.t.ctx then .error ⟨0x1A, addr, block.2⟩ else .ok ()

/-- The bank that an OB operand names: the issuing tile's, or that of the pointer's object. -/
def State.semBank (s : State) (b : Option BReg) (id : Nat) : Except Trp Nat :=
  match b with
  | none => match s.reachBlock (nodeBlock 0 (padNode s.myPad)) 0 with
    | .error t => .error t
    | .ok _ => .ok s.myPad
  | some r =>
    let p := s.ptr r
    match s.checkPtr s.t.ctx p r.toNat (id * 4) 4 rA with
    | .error t => .error t
    | .ok (e, off) => match e.node with
      | .sem d t => match s.reachBlock (nodeBlock d e.node) (addrOf p off) with
        | .error t => .error t
        | .ok _ => .ok (32 * d + t)
      | _ => .error ⟨0x11, addrOf p off, rA⟩

def execSemv (h : Head) (d a : GI) (b : Option BReg) (s : State) : Host.Outcome State Fault Refusal :=
  run h s fun s =>
    let id := bits (s.t.gi d).toNat 0 5
    let n := (s.t.gi a).toNat
    s.try_ (s.semBank b id) fun pad =>
      if n = 0 then s.next
      else
        let s := s.flushMine
        let p : Ptr := match b with | some r => s.ptr r | none => {}
        let r : SemReq :=
          { party := s.me, ctx := s.t.ctx, core := s.core_, handle := BitVec.ofNat 20 p.hidx, gen := p.gen, pad := pad,
            sem := id, amount := n, know := s.carry s.me }
        (if pad = s.myPad then s.semAdd pad id n r.know else { s with semvs := s.semvs ++ [r] }).next

def execSemq (h : Head) (d : GReg) (a : GI) (b : Option BReg) (s : State) : Host.Outcome State Fault Refusal :=
  run h s fun s =>
    let id := bits (s.t.gi a).toNat 0 5
    s.try_ (s.semBank b id) fun pad =>
      let s := s.flushMySemvs
      s.retG d (w64 (s.sem pad id))

/-! ### Sync words (R178 to R180) -/

/-- A sync word's pad offset, or the trap in the field that carries it. -/
def State.swOff (s : State) (x : GI) (field : Nat) : Except Trp Nat :=
  let off := bits (s.t.gi x).toNat 0 21
  if off % 16 ≠ 0 ∨ s.myPadSize < off + 16 then .error (trOperand field (giKind x)) else .ok off

/-- The word after SWSET's writes, before R179: TARGET, control bits, COUNT and GEN. -/
def swWord (w target ctl : Nat) (keep bump : Bool) : Nat :=
  let w := setBits w 0 32 target
  let w := if keep then w else setBits w 32 32 0
  let w := if bump then setBits w 64 32 (bits w 64 32 + 1) else w
  setBits (setBits (setBits w 96 1 (bits ctl 0 1)) 97 1 (bits ctl 1 1)) 104 8 (bits ctl 8 8)

/-- SWSET at the bank. Only a SWSET that bumps GEN is the source of an edge; where one without BUMP lets R179 advance GEN,
that advance carries what was counted before it alone (DESIGN CHOICE, log 205). -/
def State.swSet (s : State) (off target ctl : Nat) (keep bump : Bool) : State :=
  let pad := s.myPad
  let a := padAddr pad off
  let s := if bump then s.flushMine else s.flushAppends pad
  let s := (s.pokeN a 16 (swWord (s.peekN a 16) target ctl keep bump)).note (padNode pad) off 16 aAtomW
  let key := swKey pad off
  let full := addKnow (addKnow (tget [] s.swCarry (2 * key + 1)) (tget [] s.swCarry (2 * key))) (s.carry s.me)
  let s := if bump then { s with swCarry := tset [] (tset [] s.swCarry (2 * key) []) (2 * key + 1) full } else s
  s.swApply pad off

def execSwset (h : Head) (keep bump : Bool) (d : GI) (a : GReg) (b : GI) (s : State) : Host.Outcome State Fault Refusal :=
  run h s fun s =>
    let target := bits (s.t.rdG a).toNat 0 32
    s.try_ (s.swOff d 1) fun off =>
      if target = 0 then s.trapOperand 2 1
      else s.try_ (s.raceCheck {} (padNode s.myPad) off 16 aAtomW) fun _ =>
        (s.swSet off target (s.t.gi b).toNat keep bump).next

def execSwread (h : Head) (hi : Bool) (d : GReg) (a : GI) (s : State) : Host.Outcome State Fault Refusal :=
  run h s fun s => s.try_ (s.swOff a 2) fun off =>
    s.try_ (s.raceCheck {} (padNode s.myPad) off 16 aAtomR) fun _ =>
      let s := s.flushAppends s.myPad
      let w := s.peekN (padAddr s.myPad off) 16
      (s.note (padNode s.myPad) off 16 aAtomR).retG d
        -- reserved bits of the word read as zero (R7), and a WPRIO above 7 as 7 (R178)
        (w64 (if hi then bits w 64 34 + min 7 (bits w 104 8) * 2 ^ 40 else bits w 64 32 + bits w 32 32 * 2 ^ 32))

end Sys2Proof.Machine
end

