-- ==== Sys2Proof/Machine/DoneTree.lean ====
section
/-! DEFINITION. The done tree: contributions, forwarding, and the write to DONEQ (R41, R42, R314). -/

namespace Sys2Proof.Machine

/-! ### Shape of the tree (R41), over logical words -/

def wDie (w : Nat) : Nat := w % 32
def wTile (w : Nat) : Nat := w / 32 % 32
def wRole (w : Nat) : Nat := w / 1024
/-- A service core is a tile of its own, ordered after its cluster's tiles. -/
def wTileKey (w : Nat) : Nat := if wRole w = 3 then 32 + wTile w else wTile w
def wQuarto (w : Nat) : Nat := if wRole w = 3 then wTile w else wTile w / 8

/-- The member of the group with the lowest rank, or the root where it lies in the group. -/
def leader (root : Nat) (rank : Nat → Nat) (group : List Nat) : Nat :=
  if root ∈ group then root
  else group.foldl (fun best w => if rank w < rank best then w else best) (group.headD root)

/-- Leaders of levels 1 to 4: of a tile, a cluster, a die, a torus row. -/
def leader1 (root : Nat) (ws : List Nat) (w : Nat) : Nat :=
  leader root wRole (ws.filter fun x => wDie x == wDie w && wTileKey x == wTileKey w)
def leader2 (root : Nat) (ws : List Nat) (w : Nat) : Nat :=
  leader root wTileKey ((ws.filter fun x => wDie x == wDie w && wQuarto x == wQuarto w).map (leader1 root ws))
def leader3 (root : Nat) (ws : List Nat) (w : Nat) : Nat :=
  leader root wQuarto ((ws.filter fun x => wDie x == wDie w).map (leader2 root ws))
def leader4 (root : Nat) (ws : List Nat) (w : Nat) : Nat :=
  leader root wDie ((ws.filter fun x => wDie x / 8 == wDie w / 8).map (leader3 root ws))

/-- The parent of participating word `w`; the root has none. -/
def doneParent (root : Nat) (ws : List Nat) (w : Nat) : Option Nat :=
  if w = root then none
  else if leader1 root ws w ≠ w then some (leader1 root ws w)
  else if leader2 root ws w ≠ w then some (leader2 root ws w)
  else if leader3 root ws w ≠ w then some (leader3 root ws w)
  else if leader4 root ws w ≠ w then some (leader4 root ws w)
  else some root

/-! ### Status words (R42) -/

/-- Combines two words: the bits ORed, COUNT summed and saturated, FIRSTERR of the lowest core. -/
def combineDone (a b : Word) : Word :=
  let x := a.toNat
  let y := b.toNat
  let ex := bits x 16 16
  let ey := bits y 16 16
  let pickX : Bool := ex != 0 && (ey == 0 || decide (bits x 32 12 ≤ bits y 32 12))
  let z := if pickX then x else y
  w64 ((bits x 0 16 ||| bits y 0 16) + bits z 16 28 * 2 ^ 16 + min (bits x 48 16 + bits y 48 16) 65535 * 2 ^ 48)

/-- The word a core contributes (R126): from g[OD], its own word and its history. -/
def ownDone (g : Word) (lcore : Nat) (hist : BitVec 4) : Word :=
  let err := bits g.toNat 16 16
  w64 (bits g.toNat 0 12 + hist.toNat * 2 ^ 12 + err * 2 ^ 16 + (if err = 0 then 0 else lcore * 2 ^ 32) + 2 ^ 48)

/-! ### Writing DONEQ -/

/-- The launch unit's place in the scopes: inside its die. -/
def dieLoc (d : Nat) : Loc := { core := coreOf d 0 0, width := 2 }

/-- Adds 1 to a launch's signal word, as a release with scope sys (R314). Where the handle has been revoked (R16), or
the addition finds an unordered plain access of the line, and so reaches it second (R51), it is not performed: DESIGN
CHOICE (log 207). Where the word's page does not translate, the addition waits, and DONEQ_RETRY tries it again: DESIGN
CHOICE (log 182). -/
def State.signal (s : State) (i : Nat) : State :=
  let l := s.launch i
  match l.sig with
  | none => s
  | some (h, off) => match s.hlook l.ctx h.toNat l.sigGen with
    | none => s.updLaunch i fun x => { x with sig := none }
    | some e => match s.place l.ctx e.node off true false with
    | .error _ => s
    | .ok p =>
      let (party, s) := s.newParty l.know
      let a := objAddr e.node off
      if (s.race party aAtomW (linesOf e.node off 8)).isSome then
        (s.endParty party).updLaunch i fun x => { x with sig := none }
      else
      let s := s.touchAll party (whoWord 0 0 6 0) aAtomW (linesOf e.node off 8)
      let s := (s.pokeN p.addr 8 (s.peekN p.addr 8 + 1)).dirty p.unit
      let s := (s.release party (dieLoc (s.homeDie l.fn l.queue)) 4 a 8 true).endParty party
      s.updLaunch i fun x => { x with sig := none }

/-- A refused launch places nothing and is no patch. -/
def Launch.refused (l : Launch) : Bool := l.cores.isEmpty && l.patch.isNone

/-- After DONEQ is written: the queue goes on, and the signal rises (R312, R314). -/
def State.launchDone (s : State) (i : Nat) : State :=
  let l := s.launch i
  let s := s.updLaunch i fun x => { x with written := true, pending := none }
  let q := s.lqueue l.fn l.queue
  let s := if q.busy = some i then s.setLQueue l.fn l.queue { q with busy := none, carry := l.know } else s
  s.signal i

/-- The ring that a launch's DONEQ names, with its node: none where the handle has been revoked since (R16). -/
def State.doneqRing (s : State) (l : Launch) : Option (Node × Nat × Nat) :=
  (s.hlook l.ctx l.doneq.toNat l.doneqGen).bind fun e => (s.ringOf e.node).map fun x => (e.node, x)

/-- Appends LID and the word to DONEQ, or keeps them for the next try (R41). R41 speaks of a ring that is full or held
alone: where the descriptor is faulty, the append would race, or the handle names no ring any more, the root keeps the
bytes and tries again with no fault, DESIGN CHOICE (log 221). A race record would name the append as R51's PKIND 6 with
no handler and no core: DESIGN CHOICE (log 174). -/
def State.tryDoneq (s : State) (i : Nat) : State :=
  let l := s.launch i
  match l.pending with
  | none => s
  | some bytes =>
    let (party, s) := s.newParty l.know
    let loc := match l.cores.find? fun c => c.2 == l.root with
      | some c => coreLoc c.1
      | none => dieLoc (s.homeDie l.fn l.queue)
    match s.doneqRing l with
    | none => s.endParty party
    | some (node, pad, desc) =>
      let (r, s) := s.atRing node pad fun s =>
        s.append pad desc (s.ringLim node pad) bytes party (whoWord 0 0 6 0) loc l.know (l.know.map (·.1)).eraseDups
      let s := s.endParty party
      if r = .ok then s.launchDone i else s

/-- The root has its final word. -/
def State.writeDone (s : State) (i : Nat) (w : Word) : State :=
  let l := s.launch i
  (s.setLaunch i { l with pending := some (bytesOfNat 8 l.lid.toNat ++ bytesOfNat 8 w.toNat) }).tryDoneq i

/-- Whether the final word has been formed. A contribution that reaches the root while its append is still refused is
late, like one after the write: DESIGN CHOICE (log 171). -/
def Launch.closed (l : Launch) : Bool := l.written || l.pending.isSome

/-- Whether `a` stands above `w` in the tree, or is it. -/
def above (root : Nat) (ws : List Nat) (a : Nat) : Nat → Nat → Bool
  | 0, w => a == w
  | n + 1, w => a == w || (match doneParent root ws w with
    | some p => above root ws a n p
    | none => false)

/-- Cores whose contributions a word sent by `src` to `w` combines. -/
def State.contributors (s : State) (i w src : Nat) : List (Nat × Nat) :=
  let l := s.launch i
  l.cores.filter fun c => if w = src then c.2 == src else above l.root (l.cores.map (·.2)) src 5 c.2

/-- A word reaches the node of logical word `w`: combined, with what it carries, and both forwarded when all have come.
Only what reaches the root belongs to the done edge (R47). Contributions
that reach the root after its final word are discarded, each counted at the core that made it. -/
def State.doneAt (s : State) (i w src : Nat) (word : Word) (k : Know) : State :=
  let l := s.launch i
  let ws := l.cores.map (·.2)
  if w = l.root ∧ l.closed then
    (s.contributors i w src).foldl (fun s c => s.extraDone c.1 l.ctx) s
  else
    let (acc, n) := tget ((0 : Word), 0) l.words w
    let acc := combineDone acc word
    let want := (ws.countP fun x => doneParent l.root ws x == some w) + 1
    let know := addKnow (tget [] l.knows w) k
    let s := s.setLaunch i { l with words := tset (0, 0) l.words w (acc, n + 1), knows := tset [] l.knows w know,
                                    know := if w = l.root then know else l.know }
    if n + 1 < want then s
    else match doneParent l.root ws w with
      | none => s.writeDone i acc
      | some p => s.postDone { launch := i, src := w, dst := p, word := acc, know := know }

/-- A core executes the done form of END (R41, R42, R126): its first contribution enters the tree; a later
one sends a flag-only word to the root. -/
def State.contribute (s : State) (i core lcore ctx : Nat) (g : Word) (k : Know) : State :=
  let l := s.launch i
  match l.cores.find? fun c => c.1 == core with
  | none => s
  | some (_, w) =>
    if l.contributed.contains core then
      (s.extraDone core ctx).postDone { launch := i, src := w, dst := l.root, word := w64 4096, know := [], dup := true }
    else
      let s := s.setLaunch i { l with contributed := core :: l.contributed }
      s.doneAt i w w (ownDone g lcore (tget 0 l.history core)) k

end Sys2Proof.Machine
end

