-- ==== Sys2Proof/Machine/Numbers.lean ====
section
/-! DEFINITION. Number formats, rounding, conversion, and the exact arithmetic beneath them (R57 to R66,
R71, R73). -/

namespace Sys2Proof.Machine

/-! ### Formats (R57) -/

/-- A floating-point format: mantissa and exponent bits, bias, and whether it has infinities. -/
structure Fmt where
  m : Nat
  e : Nat
  bias : Nat
  infs : Bool
  deriving DecidableEq, Repr

/-- The format an ETYPE names; FP32 for codes that name none. -/
def fmt (et : Nat) : Fmt :=
  match et with
  | 8 => ⟨10, 5, 15, true⟩
  | 9 => ⟨7, 8, 127, true⟩
  | 11 => ⟨3, 4, 7, false⟩
  | 12 => ⟨2, 5, 15, true⟩
  | 13 => ⟨1, 2, 1, false⟩
  | _ => ⟨23, 8, 127, true⟩

def fp32 : Fmt := fmt 10
def bf16 : Fmt := fmt 9

def Fmt.bits (f : Fmt) : Nat := 1 + f.e + f.m
/-- The sign bit's weight. -/
def Fmt.sgn (f : Fmt) : Nat := 2 ^ (f.e + f.m)
/-- Magnitude codes: infinity's (or the code past the largest), the largest finite, the canonical NaN. -/
def Fmt.infCode (f : Fmt) : Nat := (2 ^ f.e - 1) * 2 ^ f.m
def Fmt.maxCode (f : Fmt) : Nat := if f.infs then f.infCode - 1 else if f.m = 3 then 0x7E else 7
def Fmt.nanCode (f : Fmt) : Nat := if f.infs then f.infCode + 2 ^ (f.m - 1) else 0x7F
/-- Exponent of the smallest subnormal. -/
def Fmt.qmin (f : Fmt) : Int := 1 - f.bias - f.m

/-- A decoded value: a NaN, an infinity, or (−1)^neg × mant × 2^exp exactly. -/
inductive Fp where
  | nan (sig : Bool)
  | inf (neg : Bool)
  | num (neg : Bool) (mant : Nat) (exp : Int)
  deriving DecidableEq, Repr, Inhabited

/-- Decode (R57, R73). -/
def decodeFp (f : Fmt) (x : Nat) : Fp :=
  let neg := bitOn x (f.e + f.m)
  let mag := x % f.sgn
  let ex := mag / 2 ^ f.m
  let ma := mag % 2 ^ f.m
  if f.infs ∧ f.infCode ≤ mag then (if ma = 0 then .inf neg else .nan (ma < 2 ^ (f.m - 1)))
  else if !f.infs ∧ f.m = 3 ∧ mag = 0x7F then .nan false
  else if ex = 0 then .num neg ma f.qmin
  else .num neg (ma + 2 ^ f.m) (f.qmin + ex - 1)

/-! ### Rounding (R59)

A real is given as (mant + d) × 2^exp with d = 0, or, where `sticky` is set, some d strictly between 0
and 1; a sticky real is given with more bits than any format keeps. -/

/-- Bits of a natural number. -/
def bitLen (n : Nat) : Nat := if n = 0 then 0 else Nat.log2 n + 1

/-- Whether the truncated magnitude is raised: the mode, the sign, the last bit kept, what was cut against
its half, and what lies beneath. -/
def roundUp (mode : Nat) (neg : Bool) (odd : Bool) (cut half : Nat) (sticky : Bool) : Bool :=
  let some_ := cut != 0 || sticky
  match mode with
  | 1 => false
  | 2 => neg && some_
  | 3 => !neg && some_
  | 4 => decide (half ≤ cut) && decide (0 < half)
  | _ => decide (half < cut) || (cut == half && decide (0 < half) && (sticky || odd))

/-- The magnitude in units of 2^q, and whether it is exact. -/
def roundAt (mode : Nat) (neg : Bool) (mant : Nat) (exp : Int) (sticky : Bool) (q : Int) : Nat × Bool :=
  if q ≤ exp then
    (mant * 2 ^ (exp - q).toNat + (roundUp mode neg false 0 0 sticky).toNat, !sticky)
  else
    let sh := (q - exp).toNat
    let kept := mant / 2 ^ sh
    let cut := mant % 2 ^ sh
    (kept + (roundUp mode neg (kept % 2 == 1) cut (2 ^ (sh - 1)) sticky).toNat, cut == 0 && !sticky)

/-- Tiny: rounded with an unbounded exponent range, the magnitude lies below the smallest normal (R59). -/
def tinyFp (f : Fmt) (mode : Nat) (neg : Bool) (mant : Nat) (exp : Int) (sticky : Bool) : Bool :=
  let q := exp + bitLen mant - (f.m + 1)
  mant == 0 || decide (q + 1 < f.qmin)
    || (decide (q + 1 = f.qmin) && decide ((roundAt mode neg mant exp sticky q).1 < 2 ^ (f.m + 1)))

/-- Round: the magnitude code in the format extended upward, whether exact, and whether tiny. For E2M1 a real is tiny
where the code it rounds to lies below the smallest normal, as R61's row for −0.75 has it: DEDUCED (log 52). -/
def roundFp (f : Fmt) (mode : Nat) (neg : Bool) (mant : Nat) (exp : Int) (sticky : Bool) : Nat × Bool × Bool :=
  if mant = 0 ∧ !sticky then (0, true, false) else
  let q := max (exp + bitLen mant - (f.m + 1)) f.qmin
  let (k, exact) := roundAt mode neg mant exp sticky q
  let code := (q - f.qmin).toNat * 2 ^ f.m + k
  (code, exact, if f.m = 1 then decide (code < 2 ^ f.m) else tinyFp f mode neg mant exp sticky)

/-- RoundInt: to an integer under the mode, and whether exact. -/
def roundInt (mode : Nat) (neg : Bool) (mant : Nat) (exp : Int) : Int × Bool :=
  let (k, exact) := roundAt mode neg mant exp false 0
  (if neg then -(k : Int) else k, exact)

/-! ### Encode (R61, R73) -/

def signed (f : Fmt) (neg : Bool) (code : Nat) : Nat := code + if neg then f.sgn else 0

/-- Encode of a NaN or an infinity. -/
def encodeSpecial (f : Fmt) (sat : Bool) : Fp → Nat × Fl
  | .nan sig =>
    if !f.infs ∧ f.m = 1 then (0, { nv := true }) else (f.nanCode, { nv := sig })
  | .inf neg =>
    if f.infs then (signed f neg f.infCode, {})
    else if f.m = 3 ∧ !sat then (f.nanCode, { nv := true })
    else (signed f neg f.maxCode, { nx := true })
  | .num neg _ _ => (signed f neg 0, {})

/-- Encode of a real. -/
def encodeReal (f : Fmt) (mode : Nat) (sat : Bool) (neg : Bool) (mant : Nat) (exp : Int) (sticky : Bool) : Nat × Fl :=
  let (code, exact, tiny) := roundFp f mode neg mant exp sticky
  if f.maxCode < code then
    let clamp := sat || (!f.infs && f.m == 1) || mode == 1 || (mode == 2 && !neg) || (mode == 3 && neg)
    (if clamp then signed f neg f.maxCode else if f.infs then signed f neg f.infCode else f.nanCode,
      { ov := true, nx := true })
  else (signed f neg code, { nx := !exact, uf := !exact && tiny })

/-- Encode (R73). -/
def encodeFp (f : Fmt) (mode : Nat) (sat : Bool) (x : Fp) : Nat × Fl :=
  match x with
  | .num neg mant exp => encodeReal f mode sat neg mant exp false
  | x => encodeSpecial f sat x

/-! ### Exact arithmetic (R58, R153) -/

def Fp.neg : Fp → Fp
  | .nan s => .nan s
  | .inf n => .inf !n
  | .num n m e => .num (!n) m e

def Fp.isNan : Fp → Bool
  | .nan _ => true
  | _ => false
def Fp.isSig : Fp → Bool
  | .nan s => s
  | _ => false

/-- The signed mantissa at exponent e, which is not above the value's own. -/
def Fp.atExp (neg : Bool) (m : Nat) (x e : Int) : Int :=
  let v : Int := m * 2 ^ (x - e).toNat
  if neg then -v else v

/-- An exact sum; an exact zero of unlike signs is −0 under RDN and +0 otherwise. -/
def fpAdd (mode : Nat) (x y : Fp) : Fp × Fl :=
  match x, y with
  | .nan a, .nan b => (.nan false, { nv := a || b })
  | .nan a, _ => (.nan false, { nv := a })
  | _, .nan b => (.nan false, { nv := b })
  | .inf a, .inf b => if a = b then (.inf a, {}) else (.nan false, { nv := true })
  | .inf a, _ => (.inf a, {})
  | _, .inf b => (.inf b, {})
  | .num na ma ea, .num nb mb eb =>
    let e := min ea eb
    let v := Fp.atExp na ma ea e + Fp.atExp nb mb eb e
    if v = 0 then (.num (if na = nb then na else mode == 2) 0 e, {})
    else (.num (decide (v < 0)) v.natAbs e, {})

/-- An exact product. -/
def fpMul (x y : Fp) : Fp × Fl :=
  match x, y with
  | .nan a, .nan b => (.nan false, { nv := a || b })
  | .nan a, .inf _ => (.nan false, { nv := a })
  | .nan a, .num _ _ _ => (.nan false, { nv := a })
  | .inf _, .nan b => (.nan false, { nv := b })
  | .num _ _ _, .nan b => (.nan false, { nv := b })
  | .inf a, .inf b => (.inf (a != b), {})
  | .inf a, .num b m _ => if m = 0 then (.nan false, { nv := true }) else (.inf (a != b), {})
  | .num a m _, .inf b => if m = 0 then (.nan false, { nv := true }) else (.inf (a != b), {})
  | .num a m e, .num b n f => (.num (a != b) (m * n) (e + f), {})

/-- One rounding at the end, the flags of every step together. -/
def encWith (f : Fmt) (mode : Nat) (r : Fp × Fl) : Nat × Fl :=
  let (c, fl) := encodeFp f mode false r.1
  (c, r.2.or fl)

def fAdd (f : Fmt) (mode a b : Nat) : Nat × Fl := encWith f mode (fpAdd mode (decodeFp f a) (decodeFp f b))
def fSub (f : Fmt) (mode a b : Nat) : Nat × Fl := encWith f mode (fpAdd mode (decodeFp f a) (decodeFp f b).neg)
def fMul (f : Fmt) (mode a b : Nat) : Nat × Fl := encWith f mode (fpMul (decodeFp f a) (decodeFp f b))

/-- a × b + c, with the product or c negated first. -/
def fMulAdd (f : Fmt) (mode : Nat) (negProd negC : Bool) (a b c : Nat) : Nat × Fl :=
  let (p, fl) := fpMul (decodeFp f a) (decodeFp f b)
  let p := if negProd then p.neg else p
  let c := if negC then (decodeFp f c).neg else decodeFp f c
  let (r, fl') := fpAdd mode p c
  let (code, fl'') := encodeFp f mode false r
  (code, (fl.or fl').or fl'')

/-- VFABS and VFNEG: the sign cleared or inverted; a NaN becomes canonical (R153). -/
def fSign (f : Fmt) (g : Bool → Bool) (a : Nat) : Nat × Fl :=
  match decodeFp f a with
  | .nan s => (f.nanCode, { nv := s })
  | _ => (signed f (g (bitOn a (f.e + f.m))) (a % f.sgn), {})

/-! ### Comparison (R154) -/

/-- x < y as real numbers; a NaN is not. Zeros are equal. -/
def fpLt (x y : Fp) : Bool :=
  match x, y with
  | .nan _, _ => false
  | _, .nan _ => false
  | .inf a, .inf b => a && !b
  | .inf a, .num _ _ _ => a
  | .num _ _ _, .inf b => !b
  | .num na ma ea, .num nb mb eb =>
    decide (Fp.atExp na ma ea (min ea eb) < Fp.atExp nb mb eb (min ea eb))

def fpEq (x y : Fp) : Bool := !x.isNan && !y.isNan && !fpLt x y && !fpLt y x

/-- VFCMP's predicates and NV. -/
def fCmp (f : Fmt) (cond a b : Nat) : Bool × Fl :=
  let x := decodeFp f a
  let y := decodeFp f b
  let nan := x.isNan || y.isNan
  let sig := x.isSig || y.isSig
  match cond with
  | 0 => (fpEq x y, { nv := sig })
  | 1 => (!fpEq x y, { nv := sig })
  | 2 => (fpLt x y, { nv := nan })
  | 3 => (fpLt x y || fpEq x y, { nv := nan })
  | 4 => (fpLt y x, { nv := nan })
  | 5 => (fpLt y x || fpEq x y, { nv := nan })
  | 6 => (nan, { nv := sig })
  | _ => (!nan, { nv := sig })

/-- Whether a is ordered before b, −0 before +0. -/
def fBefore (f : Fmt) (a b : Nat) : Bool :=
  let x := decodeFp f a
  let y := decodeFp f b
  fpLt x y || (fpEq x y && bitOn a (f.e + f.m) && !bitOn b (f.e + f.m))

/-- VFMIN and VFMAX. -/
def fMinMax (f : Fmt) (max : Bool) (a b : Nat) : Nat × Fl :=
  let x := decodeFp f a
  let y := decodeFp f b
  let fl : Fl := { nv := x.isSig || y.isSig }
  if x.isNan && y.isNan then (f.nanCode, fl)
  else if x.isNan then (b, fl)
  else if y.isNan then (a, fl)
  else (if max == fBefore f a b then b else a, fl)

/-- VFCLASS's bit. -/
def fClass (f : Fmt) (a : Nat) : Nat :=
  let neg := bitOn a (f.e + f.m)
  match decodeFp f a with
  | .nan s => if s then 2 ^ 8 else 2 ^ 9
  | .inf n => if n then 1 else 2 ^ 7
  | .num _ m _ =>
    if m = 0 then (if neg then 2 ^ 3 else 2 ^ 4)
    else if m < 2 ^ f.m then (if neg then 2 ^ 2 else 2 ^ 5)
    else (if neg then 2 else 2 ^ 6)

/-! ### PairTree (R71, R73) -/

/-- One level: neighbours combined. -/
def pairUp (op : Nat → Nat → Nat × Fl) : List Nat → List Nat × Fl
  | a :: b :: r =>
    let (x, fl) := op a b
    let (xs, fl') := pairUp op r
    (x :: xs, fl.or fl')
  | l => (l, {})

/-- `levels` levels of the tree. -/
def pairTree (op : Nat → Nat → Nat × Fl) : Nat → List Nat → Nat × Fl
  | 0, l => (l.headD 0, {})
  | n + 1, l =>
    let (l', fl) := pairUp op l
    let (x, fl') := pairTree op n l'
    (x, fl.or fl')

/-! ### Conversion (R61 to R63, R157) -/

def isInt (et : Nat) : Bool := decide (et ≤ 7)
def intBits (et : Nat) : Nat := 8 * 2 ^ (et / 2)
def intVal (et x : Nat) : Int := if et % 2 = 0 then asInt x (intBits et) else x
def intLo (et : Nat) : Int := if et % 2 = 0 then -((2 ^ (intBits et - 1) : Nat) : Int) else 0
def intHi (et : Nat) : Int := if et % 2 = 0 then (2 ^ (intBits et - 1) - 1 : Nat) else (2 ^ intBits et - 1 : Nat)

/-- R63. -/
def toInt (et mode : Nat) (x : Fp) : Nat × Fl :=
  match x with
  | .nan _ => (0, { nv := true })
  | .inf n => (toBits (intBits et) (if n then intLo et else intHi et), { nv := true })
  | .num n m e =>
    let (v, exact) := roundInt mode n m e
    if v < intLo et then (toBits (intBits et) (intLo et), { nv := true })
    else if intHi et < v then (toBits (intBits et) (intHi et), { nv := true })
    else (toBits (intBits et) v, { nx := !exact })

/-- An integer as a value. -/
def ofInt (v : Int) : Fp := .num (decide (v < 0)) v.natAbs 0

/-- Cvt (R157): from format `src` to format `dst`. -/
def cvt (src dst mode : Nat) (sat : Bool) (x : Nat) : Nat × Fl :=
  if isInt src then
    let v := intVal src x
    if isInt dst then (toBits (intBits dst) (if sat then max (intLo dst) (min (intHi dst) v) else v), {})
    else encodeFp (fmt dst) mode sat (ofInt v)
  else if isInt dst then toInt dst mode (decodeFp (fmt src) x)
  else encodeFp (fmt dst) mode sat (decodeFp (fmt src) x)

/-! ### Four-bit blocks (R64, R65) -/

/-- CodeValue: the code's value as sign, numerator and power of two. -/
def codeValue (t code : Nat) : Fp :=
  let k := code % 8
  let neg := bitOn code 3
  match t with
  | 0 => ofInt (asInt (code % 16) 4)
  | 1 => decodeFp (fmt 13) (code % 16)
  | 2 => if k = 0 then .num neg 0 0 else .num neg 1 (k - 4 : Int)
  | _ => .num neg ([0, 1, 2, 3, 4, 6, 8, 12].getD k 0) 0

/-- DecodeB4 (R73). A NaN block's elements are quiet. -/
def decodeB4 (scale code : Nat) : Fp :=
  if scale % 64 = 63 then .nan false
  else match codeValue (scale / 64 % 4) code with
    | .num n m e => .num n m (e + scale % 64 - 32)
    | x => x

/-- The magnitudes of types 01, 10 and 11 by magnitude index, in eighths (R65). -/
def b4Eighths (t : Nat) : List Nat :=
  match t with
  | 1 => [0, 4, 8, 12, 16, 24, 32, 48]
  | 2 => [0, 1, 2, 4, 8, 16, 32, 64]
  | _ => [0, 8, 16, 24, 32, 48, 64, 96]

/-- The largest magnitude of type T, in eighths (R66); the signed integers reach one further below. -/
def b4Max (t : Nat) (neg : Bool) : Nat := if t = 0 then (if neg then 64 else 56) else (b4Eighths t).getLastD 0

/-- mant × 2^exp in eighths, over a denominator. -/
def inEighths (mant : Nat) (exp : Int) : Nat × Nat := (mant * 2 ^ (exp + 3).toNat, 2 ^ (-(exp + 3)).toNat)

/-- A magnitude rounded to its neighbours in type T (R59, R66): the index, or for T = 00 the integer, of the one taken,
and whether it is exact. A tie goes to the even one under RNE. -/
def roundB4 (mode t : Nat) (neg : Bool) (mant : Nat) (exp : Int) : Nat × Bool :=
  if t = 0 then roundAt mode neg mant exp false 0
  else
    let (a, d) := inEighths mant exp
    let ms := b4Eighths t
    let k := ms.countP (fun m => decide (m * d ≤ a)) - 1
    let lo := ms.getD k 0 * d
    (k + (roundUp mode neg (k % 2 == 1) (2 * (a - lo)) (ms.getD (k + 1) 0 * d - lo) false).toNat, a == lo)

/-- The code of a magnitude's index, or for T = 00 its integer, with its sign. -/
def signB4 (t : Nat) (neg : Bool) (k : Nat) : Nat :=
  if t = 0 then (if neg then (16 - k % 16) % 16 else k) else k + 8 * neg.toNat

/-- A value encoded into a block with this scale byte (R66): its code, and its flags. A value beyond the largest magnitude
before it is rounded, an infinity among them, is clamped (DEDUCED, log 230). -/
def encodeB4 (mode scale : Nat) (v : Fp) : Nat × Fl :=
  let t := scale / 64 % 4
  let top (neg : Bool) : Nat × Fl := (signB4 t neg (if t = 0 then b4Max 0 neg / 8 else 7), { ov := true, nx := true })
  match v with
  | .nan _ => (0, { nv := true })
  | .inf neg => top neg
  | .num neg mant exp =>
    let exp := exp + 32 - (scale % 64 : Nat)
    let (a, d) := inEighths mant exp
    if b4Max t neg * d < a then top neg
    else
      let (k, exact) := roundB4 mode t neg mant exp
      (signB4 t neg k, { nx := !exact, uf := !exact && k == 0 })

/-- Whether a value, if it is finite, is at most the largest magnitude of T at exponent X (R66). -/
def fitsB4 (t x : Nat) : Fp → Bool
  | .num _ mant exp =>
    let (a, d) := inEighths mant (exp + 32 - x)
    decide (a ≤ b4Max t false * d)
  | _ => true

/-- AutoX (R66). -/
def autoX (vs : List Fp) (t : Nat) : Nat := ((List.range 63).find? fun x => vs.all (fitsB4 t x)).getD 62

/-- A block of type T: its scale byte at AutoX, its codes, and the flags of every element together (R64, R66). -/
def encodeBlock (mode t : Nat) (vs : List Fp) : Nat × List (Nat × Fl) :=
  let scale := 64 * t + autoX vs t
  (scale, vs.map (encodeB4 mode scale))

/-! ### Fixed point, for the special functions (R161)

A non-negative real is a natural number in units of 2^−P. Each operation rounds down; P leaves far more
bits than any distance between an exact value and an FP32 neighbour. -/

def fxP : Nat := 640
def fxOne : Nat := 2 ^ fxP
def fxMul (a b : Nat) : Nat := a * b / fxOne
def fxDiv (a b : Nat) : Nat := a * fxOne / b

/-- The number of a dyadic value below 2^64. -/
def fxOf (mant : Nat) (exp : Int) : Nat :=
  if 0 ≤ exp + fxP then mant * 2 ^ (exp + fxP).toNat else mant / 2 ^ (-(exp + fxP)).toNat

/-- Σ z^k / k! for k from i, given the term z^i / i!. -/
def fxExpFrom (z : Nat) : Nat → Nat → Nat → Nat
  | 0, _, _ => 0
  | n + 1, i, term => term + fxExpFrom z n (i + 1) (fxMul term z / (i + 1))

/-- e^z for z below 1. -/
def fxExp (z : Nat) : Nat := fxExpFrom z 130 0 fxOne

/-- Σ z^(2k+1) / (2k+1) given the power. -/
def fxAtanhFrom (z2 : Nat) : Nat → Nat → Nat → Nat
  | 0, _, _ => 0
  | n + 1, i, pow => pow / (2 * i + 1) + fxAtanhFrom z2 n (i + 1) (fxMul pow z2)

/-- ln of (1 + z) / (1 − z), z at most 1/3. -/
def fxLnRatio (z : Nat) : Nat := 2 * fxAtanhFrom (fxMul z z) 210 0 z

/-- ln 2. -/
def fxLn2 : Nat := fxLnRatio (fxOne / 3)

/-- Σ (−1)^k z^(2k+1) / (2k+1)!, positive and negative terms apart. -/
def fxSinFrom (z2 : Nat) : Nat → Nat → Nat → Nat × Nat
  | 0, _, _ => (0, 0)
  | n + 1, i, term =>
    let (p, q) := fxSinFrom z2 n (i + 2) (fxMul term z2 / ((i + 1) * (i + 2)))
    (term + q, p)

/-- sin z for z below 2. -/
def fxSin (z : Nat) : Nat :=
  let (p, q) := fxSinFrom (fxMul z z) 80 1 z
  p - q

/-- Σ (−1)^k z^(2k+1) / (2k+1). -/
def fxAtanFrom (z2 : Nat) : Nat → Nat → Nat → Nat × Nat
  | 0, _, _ => (0, 0)
  | n + 1, i, pow =>
    let (p, q) := fxAtanFrom z2 n (i + 2) (fxMul pow z2)
    (pow / i + q, p)

/-- arctan of 1 / k. -/
def fxAtanInv (k : Nat) : Nat :=
  let (p, q) := fxAtanFrom (fxOne / (k * k)) 140 1 (fxOne / k)
  p - q

/-- π, by Machin's formula. -/
def fxPi : Nat := 16 * fxAtanInv 5 - 4 * fxAtanInv 239

/-- The integer square root, bit by bit. -/
def isqrtFrom (n : Nat) : Nat → Nat → Nat
  | 0, r => r
  | b + 1, r => if (r + 2 ^ b) * (r + 2 ^ b) ≤ n then isqrtFrom n b (r + 2 ^ b) else isqrtFrom n b r
def isqrt (n : Nat) : Nat := isqrtFrom n (bitLen n / 2 + 1) 0

/-! ### The special functions (R161) -/

/-- A faithful result: the exact value where FP32 holds it, else the neighbour that the part's fixed choice
takes. `sticky` marks a value that no finite binary fraction equals. -/
def faithful (op x : Nat) (neg : Bool) (mant : Nat) (exp : Int) (sticky : Bool) : Nat × Fl :=
  let (code, exact, _) := roundFp fp32 1 neg mant exp sticky
  if exact then (signed fp32 neg code, {})
  else
    let c := if Config.upperNeighbour op (BitVec.ofNat 32 x) != neg then code + 1 else code
    if fp32.maxCode < c then (signed fp32 neg fp32.infCode, { ov := true, nx := true })
    else (signed fp32 neg c, { nx := true, uf := decide (c < 2 ^ 23) })

def nan32 : Nat := fp32.nanCode
def one32 : Nat := 0x3F800000

/-- VRCP. -/
def sfRcp (mode x : Nat) : Nat × Fl :=
  match decodeFp fp32 x with
  | .nan s => (nan32, { nv := s })
  | .inf n => (signed fp32 n 0, {})
  | .num n m e =>
    if m = 0 then (signed fp32 n fp32.infCode, { dz := true })
    else
      let k := bitLen m + 64
      encodeReal fp32 mode false n (2 ^ k / m) (-e - k) (2 ^ k % m != 0)

/-- VRSQ. -/
def sfRsq (mode x : Nat) : Nat × Fl :=
  match decodeFp fp32 x with
  | .nan s => (nan32, { nv := s })
  | .inf n => if n then (nan32, { nv := true }) else (0, {})
  | .num n m e =>
    if m = 0 then (signed fp32 n fp32.infCode, { dz := true })
    else if n then (nan32, { nv := true })
    else
      let odd := e % 2 ≠ 0
      let m := if odd then 2 * m else m
      let e := if odd then e - 1 else e
      let k := bitLen m + 64
      let r := isqrt (2 ^ (2 * k) / m)
      encodeReal fp32 mode false false r (-(e / 2) - k) (r * r * m != 2 ^ (2 * k))

/-- VEXP2. -/
def sfExp2 (x : Nat) : Nat × Fl :=
  match decodeFp fp32 x with
  | .nan s => (nan32, { nv := s })
  | .inf n => if n then (0, {}) else (fp32.infCode, {})
  | .num n m e =>
    if m = 0 then (one32, {})
    else
      -- floor and fraction of the argument, in units of 2^-149
      let v : Int := Fp.atExp n m e (-149)
      let k : Int := v / (2 ^ 149 : Nat)
      let f : Nat := (v % (2 ^ 149 : Nat)).toNat
      if 128 ≤ k then (fp32.infCode, { ov := true, nx := true })
      else if f = 0 then faithful 0 x false 1 k false
      else if k < -200 then faithful 0 x false 1 (-200) true
      else faithful 0 x false (fxExp (fxMul (fxOf f (-149)) fxLn2)) (k - fxP) true

/-- VLOG2. -/
def sfLog2 (x : Nat) : Nat × Fl :=
  match decodeFp fp32 x with
  | .nan s => (nan32, { nv := s })
  | .inf n => if n then (nan32, { nv := true }) else (fp32.infCode, {})
  | .num n m e =>
    if m = 0 then (signed fp32 true fp32.infCode, { dz := true })
    else if n then (nan32, { nv := true })
    else
      let b := bitLen m - 1
      let ex : Int := e + b
      let frac := m - 2 ^ b
      if frac = 0 then faithful 1 x (decide (ex < 0)) ex.natAbs 0 false
      else
        -- mantissa 1 + f: z = f / (2 + f)
        let ln := fxLnRatio (fxDiv (fxOf frac (-(b : Int))) (fxOf (2 ^ (b + 1) + frac) (-(b : Int))))
        let v : Int := ex * fxOne + fxDiv ln fxLn2
        faithful 1 x (decide (v < 0)) v.natAbs (-fxP) true

/-- sin(π r) for the argument |x| = r, as quadrant-folded sign and value; `half` adds 1/2 for the cosine. -/
def sinPi (op x : Nat) (neg : Bool) (m : Nat) (e : Int) (half : Bool) : Nat × Fl :=
  -- the angle in half-turns, modulo 2, in units of 2^-150
  let u : Int := Fp.atExp neg m e (-150) + if half then (2 ^ 149 : Nat) else 0
  let r : Nat := (u % (2 ^ 151 : Nat)).toNat
  let sneg := decide (2 ^ 150 < r)
  let r := if 2 ^ 150 ≤ r then r - 2 ^ 150 else r
  let r := if 2 ^ 149 < r then 2 ^ 150 - r else r
  if r = 0 then (0, {})
  else if r = 2 ^ 149 then (signed fp32 sneg one32, {})
  else faithful op x sneg (fxSin (fxMul (fxOf r (-150)) fxPi)) (-fxP) true

/-- VSIN and VCOS. -/
def sfSin (x : Nat) : Nat × Fl :=
  match decodeFp fp32 x with
  | .nan s => (nan32, { nv := s })
  | .inf _ => (nan32, { nv := true })
  | .num n m e => if m = 0 then (x, {}) else sinPi 2 x n m e false
def sfCos (x : Nat) : Nat × Fl :=
  match decodeFp fp32 x with
  | .nan s => (nan32, { nv := s })
  | .inf _ => (nan32, { nv := true })
  | .num n m e => if m = 0 then (one32, {}) else sinPi 3 x n m e true

/-- u squared k times over. -/
def fxSquare : Nat → Nat → Nat
  | 0, u => u
  | n + 1, u => fxSquare n (fxMul u u)

/-- VTANH: (1 − u) / (1 + u) with u = e^(−2|x|). -/
def sfTanh (x : Nat) : Nat × Fl :=
  match decodeFp fp32 x with
  | .nan s => (nan32, { nv := s })
  | .inf n => (signed fp32 n one32, {})
  | .num n m e =>
    if m = 0 then (x, {})
    else if 16 ≤ (Fp.atExp false m e (-149)) / (2 ^ 149 : Nat) then faithful 4 x n (2 ^ 64 - 1) (-64) true
    else
      -- e^(2|x|/64), squared six times
      let g := fxSquare 6 (fxExp (fxOf m (e + 1 - 6)))
      faithful 4 x n (fxDiv (g - fxOne) (g + fxOne)) (-fxP) true

end Sys2Proof.Machine
end

