-- ==== Sys2Proof/Machine/MullCalc.lean ====
section
/-! DEFINITION. What MLADD does to a stripe, and what an exchange computes (R296 to R307). -/

namespace Sys2Proof.Machine

def Region.rep (r : Region) (die k : Nat) : Stripe := tget {} r.reps (die * 65536 + k)
def Region.setRep (r : Region) (die k : Nat) (x : Stripe) : Region := { r with reps := tset {} r.reps (die * 65536 + k) x }
def Region.out (r : Region) (die l : Nat) : Out := tget {} r.outs (4 * die + l)
def Region.setOut (r : Region) (die l : Nat) (x : Out) : Region := { r with outs := tset {} r.outs (4 * die + l) x }
def State.updRegion (s : State) (i : Nat) (f : Region → Region) : State := s.setRegion i (f (s.region i))

/-- Saturates to INT64, and whether it did. -/
def sat64 (x : Int) : Int × Bool :=
  if x < -(2 ^ 63) then (-(2 ^ 63), true) else if 2 ^ 63 - 1 < x then (2 ^ 63 - 1, true) else (x, false)

/-- num / den × 2^e, rounded to FP32. -/
def ratFp (mode : Nat) (neg : Bool) (num den : Nat) (e : Int) : Nat × Fl :=
  let k := bitLen den + 96
  encodeReal fp32 mode false neg (num * 2 ^ k / den) (e - k) (num * 2 ^ k % den != 0)

/-! ### MLADD (R306) -/

/-- The integer that one addend adds: none for a NaN or an infinity. -/
def addend (mass : Bool) (mode x w : Nat) (e : Int) : Option Int × Fl :=
  if mass then (some (asInt x 64), {})
  else match decodeFp fp32 x with
    | .num n m ex =>
      let (v, exact) := roundInt mode n (m * w) (ex - e)
      (some v, { nx := !exact })
    | _ => (none, { nv := true })

/-- Adds to element i onward. -/
def addMass (mass : Bool) (mode : Nat) (e : Int) : Nat → List Nat → Stripe → Stripe × Fl
  | _, [], x => (x, {})
  | i, v :: r, x =>
    let (a, fl) := addend mass mode v x.w e
    match a with
    | none =>
      let (x, fl') := addMass mass mode e (i + 1) r x
      (x, fl.or fl')
    | some a =>
      let (t, sat) := sat64 (tget 0 x.s i + a)
      let (x, fl') := addMass mass mode e (i + 1) r { x with s := tset 0 x.s i t, damaged := x.damaged || sat }
      (x, (fl.or { ov := sat && !mass }).or fl')

/-- Performs a posted MLADD; its flags go to its activation while that runs. -/
def State.performAdd (s : State) (a : MullAdd) : State :=
  let r := s.region a.region
  if !r.live then s
  else
    let (x, fl) := addMass a.mass a.rnd r.e a.first a.vals (r.rep a.die a.stripe)
    let s := s.setRegion a.region (r.setRep a.die a.stripe x)
    if (s.thread a.thread).party = a.party then s.updThread a.thread fun t => t.raise fl else s

/-- Performs those posted additions that `p` names, in issue order. -/
def State.flushAdds (s : State) (p : MullAdd → Bool) : State :=
  let now := s.mullAdds.filter p
  now.foldl State.performAdd { s with mullAdds := s.mullAdds.filter fun a => !p a }

/-- Addition i is performed, after earlier ones of its activation to the stripe. -/
def State.performAddAt (s : State) (i : Nat) : State :=
  match s.mullAdds[i]? with
  | none => s
  | some a =>
    if (s.mullAdds.take i).any fun b => b.party == a.party && b.region == a.region && b.stripe == a.stripe then s
    else { s with mullAdds := s.mullAdds.eraseIdx i }.performAdd a

/-! ### Exchanges (R299) -/

/-- |s / w − hs / hw| × 2^e. -/
def spreadOf (e : Int) (x : Stripe) (hw : Nat) (hs : Tab Int) (i : Nat) : Nat :=
  (ratFp 0 false (tget 0 x.s i * hw - tget 0 hs i * x.w).natAbs (x.w * hw) e).1

/-- Step 2 on the receiver's stripe. -/
def applyHalf (e : Int) (x : Stripe) (hw : Nat) (hs : Tab Int) : Stripe :=
  let sp := ((List.range 512).map (spreadOf e x hw hs)).foldl max 0
  let y := hs.foldl (fun (y : Stripe) h =>
    let (t, sat) := sat64 (tget 0 y.s h.1 + h.2)
    { y with s := tset 0 y.s h.1 t, damaged := y.damaged || sat }) x
  { y with w := x.w + hw, spread := BitVec.ofNat 32 sp }

end Sys2Proof.Machine
end

