-- ==== Sys2Proof/Machine/Fetch.lean ====
section
/-! DEFINITION. Fetching an instruction (R95, R103, R104, R113, R353), the passing of time (R38), and
the parts of a step. -/

namespace Sys2Proof.Machine

/-! ### Control-register indices (R95, R109) -/

/-- Indices that a register occupies. -/
def crOccupied (i : Nat) : Bool :=
  decide (i ≤ 0x00A) || (decide (0x040 ≤ i) && decide (i ≤ 0x048)) || (decide (0x100 ≤ i) && decide (i ≤ 0x105))
    || (decide (0x110 ≤ i) && decide (i ≤ 0x113)) || i == 0x118 || i == 0x119 || i == 0x1C0 || i == 0x1C1

/-- One past the highest index of a level (R109). -/
def crLimit (priv : Nat) : Nat := if priv = 0 then 0x040 else if priv = 1 then 0x100 else if priv = 2 then 0x1C0 else 0x200

/-- An index within the level's range is judged at the encoding stage; one above is not (R95). -/
def crOk (priv i : Nat) : Bool := decide (crLimit priv ≤ i) || crOccupied i

/-! ### Fetch (R103, R104) -/

/-- The bytes of a code object at a generation (R103): the oldest kept image not older, or the object. -/
def State.codeImage (s : State) (i gen : Nat) : Option (List Byte) :=
  ((s.madeN i).oldCode.find? fun e => decide (gen ≤ e.1)).map (·.2)

/-- The page digests of a code object at a generation (R353, R354). -/
def State.digestsOf (s : State) (i gen : Nat) : List (BitVec 256) :=
  (((s.madeN i).oldDigests.find? fun e => decide (gen ≤ e.1)).map (·.2)).getD (s.madeN i).digests

/-- Hashes a page at its first fetch on the die in the generation (R353). -/
def State.pageOk (s : State) (i gen die page : Nat) (bytes : List Byte) : Bool :=
  let m := s.madeN i
  !m.poisoned.contains page &&
    (m.hashed.contains (die, gen, page) || match (s.digestsOf i gen)[page]? with
      | some d => Config.shake256 bytes == d
      | none => true)

/-- The 64 KiB page's bytes, zero-padded (R351). -/
def State.pageBytes (s : State) (c i gen page : Nat) : List Byte :=
  match s.codeImage i gen with
  | some b => ((b.drop (page * 65536)).take 65536) ++ List.replicate (65536 - ((b.drop (page * 65536)).take 65536).length) 0
  | none => match s.place c (.made i) (page * 65536) false true with
    | .ok p => s.peek p.addr 65536
    | .error _ => []

/-- The instruction word at the thread's pc, or the fetch's trap: REVOKED, BOUNDS and PERMISSION of CODEH's entry
(R108), then what R113 lists. -/
def State.fetch (s : State) : Except Trp (Nat × State) :=
  let t := s.t
  let h := s.hent t.ctx t.codeH.toNat
  let at_ : Nat := t.codeH.toNat * 2 ^ 44 + t.pc % 2 ^ 44
  if (s.hlook t.ctx t.codeH.toNat t.codeHGen).isNone then .error ⟨0x12, t.codeH.toNat * 2 ^ 44, h.gen⟩ else
  match t.code with
  | .made i =>
    let m := s.madeN i
    if m.size < t.pc + 12 then .error ⟨0x10, at_, 12⟩
    else if !hasAll h.rights.toNat rX then .error ⟨0x11, at_, rX⟩
    else
      let word : Except Trp Nat := match s.codeImage i t.codeGen with
        | some b => .ok (natOfBytes ((b.drop t.pc).take 12))
        | none => match s.places t.ctx t.code false true (pieces t.pc 12) with
          | .ok l => .ok (natOfBytes (s.peekPlaces l))
          | .error e => .error ⟨e.cause, t.codeH.toNat * 2 ^ 44 + e.off, e.tinfo⟩
      match word with
      | .error e => .error e
      | .ok w =>
        let die := coreDie s.core_
        let pages := if t.pc / 65536 = (t.pc + 11) / 65536 then [t.pc / 65536] else [t.pc / 65536, (t.pc + 11) / 65536]
        match pages.find? fun p => !(m.hashed.contains (die, t.codeGen, p) && !m.poisoned.contains p) &&
            !s.pageOk i t.codeGen die p (s.pageBytes t.ctx i t.codeGen p) with
        | some p => .error ⟨0x29, at_, p⟩
        | none =>
          let new := (pages.map fun p => (die, t.codeGen, p)).filter fun x => !m.hashed.contains x
          .ok (w, if new = [] then s else s.updMade i fun m => { m with hashed := new ++ m.hashed })
  | _ => .error ⟨0x10, at_, 12⟩

/-- Decodes at the executing thread's level (R95). -/
def decodeAt (priv w : Nat) : Except EncErr Instr := decodeWith (fun i => crOk priv i) w

/-- The instruction that running thread k would issue next, with the state as k's issue finds it. -/
def State.nextInstr (s : State) (k : Nat) : Option (Instr × State) :=
  let s := { s with cur := k }
  if s.t.stat = .running then
    match s.fetch with
    | .error _ => none
    | .ok (w, s) => match decodeAt s.priv w with
      | .error _ => none
      | .ok i => some (i, s)
  else none

/-! ### Time -/

/-- The running thread of a core that comes next, round-robin after the one that issued last (R37). -/
def State.nextThread (s : State) (core : Nat) : Nat :=
  let l := (s.core core).lastThread
  (((List.range 8).map fun i => 8 * core + (l + 1 + i) % 8).find? fun k => decide ((s.thread k).stat = .running)).getD (8 * core)

/-! ### Which constructors are steps of the machine itself -/

/-- The rows from RECORD_ARRIVAL on. -/
def isMachineStep (i : Instr) : Bool := decide (Instr.recordArrival.ctorIdx ≤ i.ctorIdx)

/-- The machine steps that nothing outside has to supply bytes for, by number. -/
def machineSteps : List Instr :=
  [.recordArrival, .headCheck, .fire, .watchdog, .specialFunctionResult, .launchServe, .launchForward,
   .patchComplete, .doneWord, .doneqRetry, .doneDeadline, .dupdoneWord, .remoteAccess, .queueAppend, .joinPerform,
   .remoteSemv, .gangComplete, .gangStale, .sheetMoveBeat, .drainBeat, .butterflyComplete, .copyHeadCheck,
   .copyBeat, .nameMove, .nameResult]
  ++ [.pageMap, .pageUnmap, .pageCompress, .pageExpand, .pageDemote, .pageMap2, .pageUnmap2, .pageMove,
      .pageQuery, .pageAbort, .pageBadop, .pageCommandDone, .functionRecord, .l2Split, .launchQueueConfig,
      .contextCreate, .contextDestroy, .contextHalves, .makeq, .makepeer, .slotBind, .slotUnbind, .cxlWindowMap,
      .containerLoad, .loadComplete, .controlWrite]
  ++ [.sliceEnd, .sliceIdle, .saveRoutines, .contextSave, .restoreRoutines, .tickReady, .tickDeadline,
      .migratePrecopy, .migrateCancel, .migrateStop, .migrateStopped, .migrateStopTimeout, .migrateAbort,
      .migrateResuming, .migrateCommit, .migrateWindowAdvance, .migrateWindowRead, .migrateWindowWrite,
      .groupConfig, .chunkArrival, .slotEmit, .slotTimeout, .slotMarkerExpiry, .resultDelivery, .linkFlit,
      .linkResend, .mullExchangeSend, .mullExchangeApply, .mullAck]
  ++ [.traceSample, .traceStopRequest, .stopComplete, .traceResume, .traceReplay, .tokenVerify, .verifyDone,
      .delayClear, .forecastUpdate, .hostRequestTake, .bootStage]

end Sys2Proof.Machine
end

