-- ==== Sys2Proof/Machine/Sheets.lean ====
section
/-! DEFINITION. Sheets, accumulator elements, fusion, holding, and what a port command reads and writes
(R182, R184, R185, R190, R195, R197, R203, R218). -/

namespace Sys2Proof.Machine

/-! ### Sheet bytes: 32 KiB of data and the 2 KiB scale plane (R184) -/

def sheetBytes : Nat := 34816
def sheetBase (q sheet : Nat) : Nat := (128 * q + sheet) * 2 ^ 16
/-- Offset in the sheet of the scale plane of a row. -/
def scaleOff (row : Nat) : Nat := 32768 + 16 * row

/-- The n bytes from a that sorted cells give. -/
def cellBytes : Nat → Nat → List Host.Cell → List Byte
  | 0, _, _ => []
  | n + 1, a, [] => unwritten :: cellBytes n (a + 1) []
  | n + 1, a, (k, v) :: r => if k = a then v :: cellBytes n (a + 1) r else unwritten :: cellBytes n (a + 1) ((k, v) :: r)

/-- The cells that bytes from a leave listed. -/
def bytesCells (a : Nat) : List Byte → List Host.Cell
  | [] => []
  | b :: r => if b = unwritten then bytesCells (a + 1) r else (a, b) :: bytesCells (a + 1) r

def State.sheetRead (s : State) (q sheet off n : Nat) : List Byte := 
  cellBytes n 0 (takeRange s.sheetMem (sheetBase q sheet + off) n)
/-- Replaces the bytes from off upward. -/
def State.sheetWrite (s : State) (q sheet off : Nat) (bs : List Byte) : State :=
  let a := sheetBase q sheet + off
  { s with sheetMem := s.sheetMem.filter (fun c => decide (c.1 < a)) ++ bytesCells a bs
      ++ s.sheetMem.filter (fun c => decide (a + bs.length ≤ c.1)) }
/-- A sheet's cells, from offset 0. -/
def State.sheetCells (s : State) (q sheet : Nat) : List Host.Cell := takeRange s.sheetMem (sheetBase q sheet) sheetBytes
/-- A claimed sheet reads as zero (R184). -/
def State.sheetClear (s : State) (q sheet : Nat) : State :=
  { s with sheetMem := clearRange s.sheetMem (sheetBase q sheet) sheetBytes }

/-! ### Accumulator elements (R190) -/

def accKey (q row col : Nat) : Nat := (256 * q + row) * 128 + col
def State.accAt (s : State) (q row col : Nat) : Acc := tget {} s.acc (accKey q row col)
def State.setAcc (s : State) (q row col : Nat) (a : Acc) : State := { s with acc := tset {} s.acc (accKey q row col) a }
/-- A row's 128 elements. -/
def State.accRow (s : State) (q row : Nat) : List Acc := (List.range 128).map (s.accAt q row)
/-- Replaces a row. -/
def State.setAccRow (s : State) (q row : Nat) (l : List Acc) : State := l.zipIdx.foldl (fun s e => s.setAcc q row e.2 e.1) s

def State.half (s : State) (q h : Nat) : Half := tget {} (s.quarto q).halves h
def State.setHalf (s : State) (q h : Nat) (x : Half) : State :=
  s.updQuarto q fun y => { y with halves := tset {} y.halves h x }

/-- MODE codes of R190. -/
def mWRAP : Nat := 0
def mSAT : Nat := 1
def mEXACT : Nat := 2
def mWIDE : Nat := 3
def mBFLY : Nat := 4

/-- MSTAT's word (R190). -/
def Half.word (x : Half) : Word :=
  w64 (toBits 16 x.anchor * 2 ^ 48 + x.mode.toNat * 2 ^ 32 + x.sat.toNat * 8 + x.anyInex.toNat * 4 + x.anyOvf.toNat * 2
    + x.anySpec.toNat)

/-- Rows FIRST to FIRST + ROWS − 1, 1 to 128 of them, within one half (R207, R210, R212). -/
def rowsOk (first rows : Nat) : Bool :=
  decide (1 ≤ rows) && decide (rows ≤ 128) && first / 128 == (first + rows - 1) / 128 && decide (first < 256)

/-! ### Fusion (R197) -/

/-- The quartos fused with q under FUSE, rising. -/
def fused (fuse q : Nat) : List Nat :=
  let d := q / 4 * 4
  let k := q % 4
  match fuse with
  | 1 => [d + k / 2 * 2, d + k / 2 * 2 + 1]
  | 2 => [d + k % 2, d + k % 2 + 2]
  | 3 => [d, d + 1, d + 2, d + 3]
  | _ => [q]

/-- Quartos whose banks a group writes. -/
def bankQuartos (qs : List Nat) : List Nat :=
  match qs with
  | [a, b, _, _] => [a, b]
  | [a, b] => if b = a + 1 then [a, b] else [a]
  | l => l

/-- Quartos that supply K to the bank of q, lowest first. -/
def kQuartos (qs : List Nat) (q : Nat) : List Nat := if qs.contains (q + 2) then [q, q + 2] else [q]

/-- The quarto of the issuing tile, and its group. -/
def State.myQuarto (s : State) : Nat := quartoOf s.core_
def State.myGroup (s : State) : List Nat := fused (s.fn (s.ctxFn s.t.ctx)).recd.fuse s.myQuarto

/-! ### Holding (R184, R185) -/

/-- Whether context c holds sheet x, or half x − 128, of quarto q. -/
def State.holdsSheet (s : State) (c q x : Nat) : Bool :=
  if x < 128 then c != 0 && tget 0 (s.quarto q).holder x == c else bitOn (s.ctx c).halves.toNat (2 * q + (x - 128))

/-- The SHEET check, in every quarto given. -/
def State.sheetCheck (s : State) (qs : List Nat) (x : Nat) : Except Trp Unit :=
  if qs.all fun q => s.holdsSheet s.t.ctx q x then .ok () else .error ⟨0x23, 0, x⟩

/-- A sheet operand: ILLEGAL_OPERAND above 127 (R201). -/
def State.sheetNum (s : State) (x : GI) (field : Nat) : Except Trp Nat :=
  let v := (s.t.gi x).toNat
  if v ≤ 127 then .ok v else .error (trOperand field (giKind x))

/-! ### What a command reads and writes (R195)

Names of things in quarto q, each 1024 q more: a sheet's number; 256 and a row's; 512 and a half's, for its
flags; 520 for the weights. -/

def rSheet (q x : Nat) : Nat := 1024 * q + x
def rRow (q x : Nat) : Nat := 1024 * q + 256 + x
def rHalf (q x : Nat) : Nat := 1024 * q + 512 + x
def rWeights (q : Nat) : Nat := 1024 * q + 520
def rSheets (q f n : Nat) : List Nat := (List.range n).map fun i => rSheet q (f + i)
def rRows (q f n : Nat) : List Nat := (List.range n).map fun i => rRow q (f + i)

/-- MGANG's words (R207, R208). -/
def gM (ctl : Word) : Nat := bits ctl.toNat 0 8
def gRow (ctl : Word) : Nat := bits ctl.toNat 16 8
def gOp (ctl : Word) : Nat := bits ctl.toNat 24 2
def gMode (ctl : Word) : Nat := bits ctl.toNat 32 3
def gAnchor (ctl : Word) : Int := asInt (bits ctl.toNat 48 16) 16
def aSheet (st : Word) : Nat := bits st.toNat 0 7
def aRow (st : Word) : Nat := bits st.toNat 7 7

def PortOp.reads (o : PortOp) : List Nat :=
  let q := o.quarto
  match o.cmd with
  | .sload _ _ _ _ _ _ => []
  | .ssave x _ _ _ _ _ => [rSheet q x]
  | .drain f n _ _ _ _ _ _ => rRows q f n
  | .gang qs arrs _ => arrs.map (fun a => rSheet (quartoOf a.core) (aSheet a.stream)) ++ qs.map rWeights
  | .mdrev _ src p => rSheets q src p.t
  | .mbfly _ src p _ _ _ => rSheets q src p.t
  | .mcmul _ a b t _ _ _ => rSheets q a t ++ rSheets q b t

def PortOp.writes (o : PortOp) : List Nat :=
  let q := o.quarto
  match o.cmd with
  | .sload x _ _ _ _ _ => [rSheet q x]
  | .ssave _ _ _ _ _ _ => []
  | .drain _ _ _ _ _ _ _ _ => []
  | .gang qs _ ctl => (bankQuartos qs).flatMap fun b => rHalf b (gRow ctl / 128) :: rRows b (gRow ctl) (gM ctl)
  | .mdrev dst _ p => rSheets q dst p.t
  | .mbfly dst _ p _ h _ => rHalf q h :: rSheets q dst p.t ++ rRows q (128 * h) 128
  | .mcmul dst _ _ t h _ _ => rHalf q h :: rSheets q dst t

/-- Two commands of which one writes what the other reads or writes. -/
def meets (r w r' w' : List Nat) : Bool := w.any (fun x => r'.contains x || w'.contains x) || r.any w'.contains

def PortOp.conflicts (o p : PortOp) : Bool := meets o.reads o.writes p.reads p.writes

/-- Whether a sheet is named by a command not yet complete, or by a gang member that has arrived (R203,
R217). -/
def State.sheetBusy (s : State) (q x : Nat) : Bool :=
  s.port.any (fun o => o.reads.contains (rSheet q x) || o.writes.contains (rSheet q x))
    || s.quartos.any fun e => e.2.barrier.any fun b => b.2.any fun a => quartoOf a.core == q && aSheet a.stream == x

end Sys2Proof.Machine
end

