-- ==== Sys2Proof/Machine/BflyCalc.lean ====
section
/-! DEFINITION. The arithmetic of butterfly mode: points, digit reversal, twiddles, stages and pointwise
products (R218, R222 to R226). -/

namespace Sys2Proof.Machine

/-- A complex point. -/
abbrev Pt := Int × Int

/-! ### Points and exponents (R218) -/

def ptsOf : List Byte → List Pt
  | a :: b :: c :: d :: r => (asInt (a.toNat + 256 * b.toNat) 16, asInt (c.toNat + 256 * d.toNat) 16) :: ptsOf r
  | _ => []

def ptBytes (l : List Pt) : List Byte := l.flatMap fun p => bytesOfNat 2 (toBits 16 p.1) ++ bytesOfNat 2 (toBits 16 p.2)

/-- The points of t sheets from f. -/
def State.points (s : State) (q f t : Nat) : Array Pt :=
  ((List.range t).flatMap fun i => ptsOf (s.sheetRead q (f + i) 0 32768)).toArray

/-- The block exponent E: an INT16 in bytes 0 and 1 of the scale plane. -/
def State.expOf (s : State) (q sheet : Nat) : Int := asInt (natOfBytes (s.sheetRead q sheet 32768 2)) 16
def State.setExp (s : State) (q sheet : Nat) (e : Int) : State := s.sheetWrite q sheet 32768 (bytesOfNat 2 (toBits 16 e))

/-- Writes produced points, rising, over the points of t sheets from f. -/
def State.putPoints (s : State) (q f t : Nat) (new : List (Nat × Pt)) : State :=
  let arr := new.foldl (fun a e => a.setIfInBounds e.1 e.2) (s.points q f t)
  (List.range t).foldl (fun s i => s.sheetWrite q (f + i) 0 (ptBytes (arr.extract (8192 * i) (8192 * (i + 1))).toList)) s

/-- The first points of the plan's transforms in a run. -/
def Plan.bases (p : Plan) : List Nat :=
  if p.n ≤ 8192 then (List.range p.t).flatMap fun t => (List.range p.b).map fun x => 8192 * t + x * p.n else [0]

/-! ### Digit reversal (R222) -/

/-- The digits of p, least significant first, each under its radix, joined the other way round. -/
def digitRev (p acc : Nat) : List Nat → Nat
  | [] => acc
  | r :: rs => digitRev (p / r) (acc * r + p % r) rs

def State.mdrev (s : State) (q dst src : Nat) (p : Plan) : State :=
  let x := s.points q src p.t
  let es := (List.range p.t).map fun i => s.expOf q (src + i)
  let s := s.putPoints q dst p.t (p.bases.flatMap fun b => (List.range p.n).map fun i =>
    (b + i, x.getD (b + digitRev i 0 p.radices) (0, 0)))
  es.zipIdx.foldl (fun s e => s.setExp q (dst + e.2) e.1) s

/-! ### Twiddles (R223) -/

/-- RoundNE(sin(π a / b) × 2^30), a from 0 to 2b; π given in fixed point. -/
def sinQ (pi a b : Nat) : Int :=
  let neg := decide (b < a)
  let r := if b < a then a - b else a
  let r := if b < 2 * r then b - r else r
  let v := (fxSin (pi * r / b) + 2 ^ (fxP - 31)) / 2 ^ (fxP - 30)
  if neg then -(v : Int) else v

/-- W_N^k as a Q1.30 pair. -/
def twiddle (pi n k : Nat) (inv : Bool) : Pt :=
  (sinQ pi ((4 * k + n) % (4 * n)) (2 * n), let s := sinQ pi (4 * k % (4 * n)) (2 * n); if inv then s else -s)

def twiddles (n : Nat) (inv : Bool) : Array Pt :=
  let pi := fxPi
  ((List.range n).map fun k => twiddle pi n k inv).toArray

/-! ### Stages (R224, R225) -/

/-- One exact output. -/
def stageOut (tw x : Array Pt) (n base r s0 g q m : Nat) : Pt :=
  let st := s0 * r
  (List.range r).foldl (fun acc j =>
    let p := x.getD (base + g * st + j * s0 + m) (0, 0)
    let w := tw.getD (j * (m + q * s0) * (n / st) % n) (0, 0)
    (acc.1 + p.1 * w.1 - p.2 * w.2, acc.2 + p.1 * w.2 + p.2 * w.1)) (0, 0)

/-- Every output of stage l of one transform, rising. -/
def stageOuts (tw x : Array Pt) (p : Plan) (l base : Nat) : List (Nat × Pt) :=
  let r := p.radices.getD (l - 1) 2
  let s0 := (p.radices.take (l - 1)).foldl (· * ·) 1
  (List.range (p.n / (s0 * r))).flatMap fun g => (List.range r).flatMap fun q => (List.range s0).map fun m =>
    (base + g * (s0 * r) + q * s0 + m, stageOut tw x p.n base r s0 g q m)

/-- RoundNE(v / 2^k). -/
def roundNE (v : Int) (k : Nat) : Int := (roundInt 0 (decide (v < 0)) v.natAbs (-(k : Int))).1

def fits16 (v : Int) : Bool := decide (v.natAbs ≤ 32767)

/-- The shift: SCALE, or for AUTO (7) the smallest from 0 to 4 under which every part fits. -/
def shiftOf (scale base : Nat) (l : List Pt) : Nat :=
  if scale = 7 then
    ((List.range 4).find? fun k => l.all fun p => fits16 (roundNE p.1 (base + k)) && fits16 (roundNE p.2 (base + k))).getD 4
  else scale

/-- A part requantised, and whether it was clamped. -/
def commit (v : Int) (k : Nat) : Int × Bool :=
  let r := roundNE v k
  (max (-32767) (min 32767 r), !fits16 r)

def commitPt (p : Pt) (k : Nat) : Pt × Bool :=
  let (a, x) := commit p.1 k
  let (b, y) := commit p.2 k
  ((a, b), x || y)

/-- Sets SAT of a half where `b` is. -/
def State.orSat (s : State) (q h : Nat) (b : Bool) : State :=
  if b then s.setHalf q h { s.half q h with sat := true } else s

/-- Two sums as one accumulator element (R69). -/
def ptAcc (p : Pt) : Acc := { val := BitVec.ofNat 128 (toBits 64 p.1 + toBits 64 p.2 * 2 ^ 64) }

/-- One group's commit: its sheets are `sheets` of the run. -/
def State.commitGroup (s : State) (q dst half scale : Nat) (ein : Int) (first t : Nat) (outs : List (Nat × Pt)) : State :=
  let k := shiftOf scale 30 (outs.map (·.2))
  let pts := outs.map fun e => (e.1, commitPt e.2 (30 + k))
  let s := s.putPoints q (dst + first) t (pts.map fun e => (e.1 - 8192 * first, e.2.1))
  let e := ein + k
  let s := (List.range t).foldl (fun s i => s.setExp q (dst + first + i) (min 32767 e)) s
  s.orSat q half (pts.any (fun e => e.2.2) || decide (32767 < e))

/-- A butterfly stage. -/
def State.mbfly (s : State) (q dst src : Nat) (p : Plan) (l half scale : Nat) : State :=
  let x := s.points q src p.t
  let tw := twiddles p.n p.inv
  let outs := p.bases.flatMap fun b => stageOuts tw x p l b
  let es := (List.range p.t).map fun i => s.expOf q (src + i)
  let s := if p.n ≤ 8192 then
      es.zipIdx.foldl (fun s e => s.commitGroup q dst half scale e.1 e.2 1
        (outs.filter fun o => o.1 / 8192 == e.2)) s
    else s.commitGroup q dst half scale (es.headD 0) 0 p.t outs
  let lo := accKey q (128 * half) 0
  let new : Tab Acc := (outs.filter fun o => o.1 < 8192).filterMap fun o =>
    if ptAcc o.2 = {} then none else some (lo + o.1, ptAcc o.2)
  { s with acc := s.acc.filter (fun e => decide (e.1 < lo)) ++ new ++ s.acc.filter (fun e => decide (lo + 16384 ≤ e.1)) }

/-! ### Pointwise products (R226) -/

def mulPt (conj : Bool) (a b : Pt) : Pt :=
  let bi := if conj then -b.2 else b.2
  (a.1 * b.1 - a.2 * bi, a.1 * bi + a.2 * b.1)

def State.mcmul (s : State) (q dst a b t half scale : Nat) (conj : Bool) : State :=
  let prod := ((s.points q a t).toList.zip (s.points q b t).toList).map fun e => mulPt conj e.1 e.2
  let es := (List.range t).map fun i => s.expOf q (a + i) + s.expOf q (b + i)
  let k := shiftOf scale 15 prod
  let pts := prod.map fun p => commitPt p (15 + k)
  let s := s.putPoints q dst t (pts.zipIdx.map fun e => (e.2, e.1.1))
  let s := es.zipIdx.foldl (fun s e => s.setExp q (dst + e.2) (max (-32768) (min 32767 (e.1 + 15 + k)))) s
  s.orSat q half (pts.any (·.2) || es.any fun e => decide (32767 < (e + 15 + k : Int).natAbs))

end Sys2Proof.Machine
end

