-- ==== Sys2Proof/Machine/GangCalc.lean ====
section
/-! DEFINITION. The arithmetic of gang operations, drains and accumulator loads (R182, R183, R191 to R193,
R206, R209, R211, R213 to R215). -/

namespace Sys2Proof.Machine

/-! ### Elements of a sheet row (R64, R182, R206) -/

/-- Bits of a weight or activation. -/
def elBits (et : Nat) (nib : Bool) : Nat := if nib || et == 13 || et == 14 then 4 else if et == 8 || et == 9 then 16 else 8
/-- The integer kind of R183. -/
def elInt (et : Nat) : Bool := decide (et ≤ 1)

/-- The code of element k among the bytes. -/
def elCode (bs : List Byte) (w k : Nat) : Nat :=
  match w with
  | 4 => bits (bs.getD (k / 2) 0).toNat (4 * (k % 2)) 4
  | 8 => (bs.getD k 0).toNat
  | _ => (bs.getD (2 * k) 0).toNat + 256 * (bs.getD (2 * k + 1) 0).toNat

/-- Decodes a code exactly; ETYPE 14 takes its scale byte. -/
def elDecode (et : Nat) (nib : Bool) (scale code : Nat) : Fp :=
  match et with
  | 0 => ofInt (asInt code (if nib then 4 else 8))
  | 1 => ofInt code
  | 14 => decodeB4 scale code
  | _ => decodeFp (fmt et) code

/-- The elements of `bs`, whose scale bytes are `sc`, one for each 32. -/
def elements (et : Nat) (nib : Bool) (bs sc : List Byte) : List Fp :=
  let w := elBits et nib
  (List.range (8 * bs.length / w)).map fun k => elDecode et nib (sc.getD (k / 32) 0).toNat (elCode bs w k)

/-- One row of weights: w[k][j] for every k. -/
def Weights.row (x : Weights) (j : Nat) : List Fp :=
  let cells := takeRange x.data (256 * j) 256
  let sc := takeRange x.data (scaleOff j) 16
  elements x.et.toNat x.nib (cellBytes 256 0 cells) (cellBytes 16 0 sc)

/-- A member's slice of activation row i (R208). -/
def State.slice (s : State) (a : Arrival) (i : Nat) : List Fp :=
  let q := quartoOf a.core
  let j := coreTile a.core % 8
  let row := aRow a.stream + i
  elements a.et.toNat a.nib (s.sheetRead q (aSheet a.stream) (256 * row + 32 * j) 32)
    (s.sheetRead q (aSheet a.stream) (scaleOff row + 2 * j) 2)

/-! ### Accumulation (R191, R192) -/

/-- SPECIAL combined with an incoming class: 1 +∞, 2 −∞, 3 NaN. -/
def combineSpec (old new : BitVec 2) : BitVec 2 := old ||| new

/-- The class of a special product. -/
def specOf : Fp → BitVec 2
  | .nan _ => 3
  | .inf neg => if neg then 2 else 1
  | .num _ _ _ => 0

/-- What an accumulation leaves: the element, and which flags it set. -/
structure Sum where
  val : Int
  inex : Bool := false
  ovf : Bool := false
  sat : Bool := false
  spec : BitVec 2 := 0

def top127 : Int := 2 ^ 127 - 1

/-- Floor(v × 2^e) and whether it is exact. -/
def floorShift (v : Int) (e : Int) : Int × Bool :=
  if 0 ≤ e then (v * 2 ^ e.toNat, true)
  else (v / (2 ^ (-e).toNat : Nat), v % (2 ^ (-e).toNat : Nat) == 0)

/-- Adds one product in the half's mode and anchor. -/
def Sum.add (mode : Nat) (anchor : Int) (x : Sum) (p : Fp) : Sum :=
  match p with
  | .num neg m e =>
    let v : Int := if neg then -m else m
    match mode with
    | 0 => { x with val := asInt (toBits 32 (x.val + v)) 32 }
    | 1 =>
      let t := x.val + v
      let c := max (-(2 ^ 31)) (min (2 ^ 31 - 1) t)
      { x with val := c, sat := x.sat || c != t }
    | 2 =>
      let t := x.val + v
      { x with val := asInt (toBits 128 t) 128, ovf := x.ovf || decide (2 ^ 127 ≤ t) || decide (t < -(2 ^ 127)) }
    | _ =>
      let (f, exact) := floorShift v (e - anchor)
      let t := x.val + f
      let x := { x with inex := x.inex || !exact }
      if 2 ^ 127 ≤ t then { x with val := top127, ovf := true }
      else if t ≤ -(2 ^ 127) then { x with val := -top127, ovf := true }
      else { x with val := t }
  | p => { x with spec := combineSpec x.spec (specOf p) }

/-- One element: every product of the activation row with the weight row, k ascending. -/
def accumulate (mode : Nat) (anchor : Int) (x : Sum) (acts ws : List Fp) : Sum :=
  (acts.zip ws).foldl (fun x e => x.add mode anchor (fpMul e.1 e.2).1) x

/-- Element [r][j] after the operation, from its element before. -/
def Acc.plus (a : Acc) (r : Sum) : Acc :=
  { val := BitVec.ofInt 128 r.val, inex := a.inex || r.inex, ovf := a.ovf || r.ovf, spec := combineSpec a.spec r.spec }

/-- A half's sticky bits with what an operation's elements set. -/
def Half.note (h : Half) (l : List Sum) : Half :=
  { h with sat := h.sat || l.any (·.sat), anyInex := h.anyInex || l.any (·.inex), anyOvf := h.anyOvf || l.any (·.ovf),
           anySpec := h.anySpec || l.any (·.spec != 0) }

/-- A started gang's operation (R209), in the bank of quarto b. -/
def State.gangBank (s : State) (qs : List Nat) (arrs : List Arrival) (ctl : Word) (b : Nat) : State :=
  let ks := kQuartos qs b
  let row := gRow ctl
  let h := row / 128
  let hf := s.half b h
  let wrows := (List.range 128).map fun j => ks.flatMap fun k => (s.quarto k).weights.row j
  let members := ks.flatMap fun k => (List.range 8).filterMap fun j =>
    arrs.find? fun a => quartoOf a.core == k && coreTile a.core % 8 == j
  let rows := (List.range (gM ctl)).map fun i =>
    let acts := members.flatMap fun a => s.slice a i
    (i, (s.accRow b (row + i)).zip wrows |>.map fun e =>
      let old : Acc := if gOp ctl = 1 then {} else e.1
      let r := accumulate hf.mode.toNat hf.anchor { val := old.val.toInt } acts e.2
      (old.plus r, r))
  let s := rows.foldl (fun s x => s.setAccRow b (row + x.1) (x.2.map (·.1))) s
  s.setHalf b h (hf.note (rows.flatMap fun x => x.2.map (·.2)))

def State.gangRun (s : State) (qs : List Nat) (arrs : List Arrival) (ctl : Word) : State :=
  (bankQuartos qs).foldl (fun s b => s.gangBank qs arrs ctl b) s

/-! ### MACCLD (R211) -/

/-- ETYPE and half mode that MACCLD accepts. -/
def loadModeOk (et mode : Nat) : Bool :=
  match et with
  | 4 => decide (mode ≤ 2)
  | 6 => mode == 2
  | 10 => mode == 3
  | _ => true

def loadSize (et : Nat) : Nat := match et with
  | 6 => 8
  | 7 => 16
  | _ => 4

/-- A loaded element. -/
def loadAcc (et mode : Nat) (anchor : Int) (x : Nat) : Sum :=
  match et with
  | 4 => { val := asInt x 32 }
  | 6 => { val := asInt x 64 }
  | 10 => match decodeFp fp32 x with
    | .num neg m e =>
      let (f, exact) := floorShift (if neg then -m else m) (e - anchor)
      let c := max (-top127) (min top127 f)
      { val := c, inex := !exact || c != f, ovf := c != f }
    | p => { val := 0, spec := specOf p }
  | _ => { val := if mode ≤ 1 then asInt (x % 2 ^ 32) 32 else asInt (x % 2 ^ 128) 128 }

/-! ### Drained elements (R193, R213, R215) -/

/-- ETYPE and half mode that MDRAIN accepts. -/
def drainModeOk (et mode : Nat) (rq : Bool) : Bool :=
  if rq then decide (mode ≤ 2) else et == 7 || decide (mode ≤ 3)

/-- Bytes of a drained element. -/
def drainSize (et : Nat) : Nat := if et = 7 then 16 else etBytes et

/-- The element's exact value. -/
def Acc.value (a : Acc) (mode : Nat) (anchor : Int) : Fp :=
  match a.spec.toNat with
  | 3 => .nan false
  | 2 => .inf true
  | 1 => .inf false
  | _ => .num (decide (a.val.toInt < 0)) a.val.toInt.natAbs (if mode = 3 then anchor else 0)

/-- A drained element without RQ, and FSAT. -/
def drainEl (et rnd mode : Nat) (anchor : Int) (a : Acc) : Nat × Bool :=
  match et with
  | 7 => (a.val.toNat, false)
  | 4 => match a.value mode anchor with
    | .nan _ => (0, false)
    | .inf neg => (toBits 32 (if neg then intLo 4 else intHi 4), false)
    | .num neg m e =>
      let v := (roundInt rnd neg m e).1
      let c := max (intLo 4) (min (intHi 4) v)
      (toBits 32 c, c != v)
  | 11 => match a.value mode anchor with
    | .nan x => ((encodeFp (fmt 11) rnd true (.nan x)).1, false)
    | .inf neg => ((encodeFp (fmt 11) rnd true (.inf neg)).1, true)
    | v => let (x, fl) := encodeFp (fmt 11) rnd true v
           (x, fl.ov)
  | _ => ((encodeFp (fmt et) rnd false (a.value mode anchor)).1, false)

/-- A drained element with RQ (R215). -/
def rqEl (t : Rq) (et : Nat) (a sum : Int) (j : Nat) : Nat × Bool :=
  let (zb, bias, mul, sh) := t.cols.getD j (0, 0, 0, 0)
  let p := (a - zb * sum + bias) * mul
  let y := (roundInt 0 (decide (p < 0)) p.natAbs (-(sh : Int))).1 + t.zout
  let c := max t.lo (min t.hi y)
  (toBits (8 * etBytes et) c, c != y)

/-- A drained row's elements, each with [3] FSAT, [2] FINEX, [1] FOVF, [0] FSPEC (R194). -/
def State.drainRow (s : State) (q row et rnd : Nat) (rq : Option Rq) : List (Nat × BitVec 4) :=
  let hf := s.half q (row / 128)
  let sum := match rq with
    | some t => (s.accAt q row t.rscol).val.toInt
    | none => 0
  (s.accRow q row).zipIdx.map fun (a, j) =>
    let (x, sat) : Nat × Bool := match rq with
      | none => drainEl et rnd hf.mode.toNat hf.anchor a
      | some t => rqEl t et a.val.toInt sum j
    (x, BitVec.ofNat 4 ((a.spec != 0).toNat + 2 * a.ovf.toNat + 4 * a.inex.toNat + 8 * sat.toNat))

end Sys2Proof.Machine
end

