-- ==== Sys2Proof/Machine/Port.lean ====
section
/-! DEFINITION. The quartos' command ports: accepted commands progress, each after the earlier ones it
meets, and complete (R194 to R196, R203, R205, R212, R228). -/

namespace Sys2Proof.Machine

/-! ### Beats at the pad (R194, R205) -/

/-- The party that a port command is (R45, R51: PKIND 2). -/
def PortOp.who (o : PortOp) : BitVec 64 := whoWord 0 o.hidx 2 (hdrSrc o.hdr)

/-- A beat's checks at its home: REVOKED, WORLD, RACE; the places or the status. -/
def State.beatAt (s : State) (o : PortOp) (p : Ptr) (off n kind : Nat) : Except Nat (Node × List (Place × Nat)) :=
  match s.hlook o.ctx p.hidx p.gen with
  | none => .error 0x12
  | some h => match s.places o.ctx h.node (kind == aWrite) false (pieces off n) with
    | .error e => .error e.cause
    | .ok l => match s.race o.party kind (linesOf h.node off n) with
      | some _ => .error 0x20
      | none => .ok (h.node, l)

/-- An SLOAD or SSAVE's beat b: pad offset, sheet offset and bytes. -/
def moveBeat (first rows : Nat) (scale : Bool) (off b : Nat) : Nat × Nat × Nat :=
  let per := if scale then 5 else 4
  let i := b / per
  let j := b % per
  if j < 4 then (off + 256 * i + 64 * j, 256 * (first + i) + 64 * j, 64)
  else (off + 256 * rows + 16 * i, scaleOff (first + i), 16)

/-- Beats of a command. -/
def PortOp.beats (o : PortOp) : Nat :=
  match o.cmd with
  | .sload _ _ rows scale _ _ => rows * if scale then 5 else 4
  | .ssave _ _ rows scale _ _ => rows * if scale then 5 else 4
  | _ => 0

/-- The beats of a drain: row, offset and bytes. -/
def drainBeats (off rowBytes rows : Nat) : List (Nat × Nat × Nat) :=
  (List.range rows).flatMap fun i => (pieces (off + rowBytes * i) rowBytes).map fun e => (i, e)

/-! ### Ends of commands -/

/-- The completion or wake-up message: it carries only what the release publishes (R47, R56). -/
def State.portDone (s : State) (o : PortOp) (core : Nat) (payload : List Byte) : State :=
  let know := if o.rel then s.carry o.party else []
  (s.post { isMsg := true, hdr := o.hdr, payload := payload, hidx := o.hidx, ctx := o.ctx, core := core,
            lcore := hdrDst o.hdr, key := 0xA000, sendTs := s.ts, launch := o.launch, know := know,
            sdie := some (o.quarto / 4) }).endParty o.party

/-- R205's payload. -/
def moveEnd (status done tag : Nat) : List Byte := bytesOfNat 8 (tag % 65536 + done * 2 ^ 32 + status * 2 ^ 48)

/-- R194's payload. -/
def drainEnd (status rows tag : Nat) (flags : BitVec 4) : List Byte :=
  bytesOfNat 16 (tag % 2 ^ 32 + rows * 2 ^ 32 + status * 2 ^ 48 + flags.toNat * 2 ^ 64)

/-- Performs a command's next beat: the state, and the command if it goes on. -/
def State.portBeat (s : State) (o : PortOp) : State × Option PortOp :=
  let q := o.quarto
  let move (sheet first rows : Nat) (scale : Bool) (p : Ptr) (off : Nat) (load : Bool) : State × Option PortOp :=
    let (po, so, n) := moveBeat first rows scale off o.beat
    let per := if scale then 5 else 4
    match s.beatAt o p po n (if load then aRead else aWrite) with
    | .error st => (s.portDone o o.core (moveEnd st (o.beat / per) o.tag), none)
    | .ok (node, l) =>
      let s := s.touchAll o.party o.who (if load then aRead else aWrite) (linesOf node po n)
      let s := if load then s.sheetWrite q sheet so (s.peekPlaces l)
        else (s.overwrite (objAddr node po) n).pokePlaces l (s.sheetRead q sheet so n)
      if o.beat + 1 < o.beats then (s, some { o with beat := o.beat + 1 })
      else (s.portDone o o.core (moveEnd 0 rows o.tag), none)
  match o.cmd with
  | .sload x first rows scale p off => move x first rows scale p off true
  | .ssave x first rows scale p off => move x first rows scale p off false
  | .drain first rows et rnd rq p off dst =>
    let w := drainSize et.toNat
    let bs := drainBeats off (128 * w) rows
    match bs[o.beat]? with
    | none => (s.portDone o dst (drainEnd 0 rows o.tag o.flags), none)
    | some (i, x, n) =>
      match s.beatAt o p x n aWrite with
      | .error st => (s.portDone o dst (drainEnd st i o.tag o.flags), none)
      | .ok (node, l) =>
        -- the update of a sync word that counts the beat is checked with it (R51, R54, R237)
        if (s.race o.party aAtomW (s.markLines o.core node x)).isSome then
          (s.portDone o dst (drainEnd 0x20 i o.tag o.flags), none)
        else
        let els := ((s.drainRow q (first + i) et.toNat rnd rq).drop ((x - (off + 128 * w * i)) / w)).take (n / w)
        let flags := els.foldl (fun f e => f ||| e.2) o.flags
        let s := s.touchAll o.party o.who aWrite (linesOf node x n)
        let s := s.touchAll o.party o.who aAtomW (s.markLines o.core node x)
        let s := (s.overwrite (objAddr node x) n).pokePlaces l (els.flatMap fun e => bytesOfNat w e.1)
        let s := match nodePad node with
          | some pad => s.marked o.core pad x n (s.carry o.party)
          | none => s
        if o.beat + 1 < bs.length then (s, some { o with beat := o.beat + 1, flags := flags })
        else (s.portDone o dst (drainEnd 0 rows o.tag flags), none)
  | _ => (s, none)

/-- Beats until the command ends. -/
def State.portBeats (s : State) : Nat → PortOp → State
  | 0, _ => s
  | f + 1, o => match s.portBeat o with
    | (s, some o) => s.portBeats f o
    | (s, none) => s

/-- Brings a command to its end. -/
def State.portRun (s : State) (o : PortOp) : State :=
  match o.cmd with
  | .gang qs arrs ctl => s.gangRun qs arrs ctl
  | .mdrev dst src p => s.mdrev o.quarto dst src p
  | .mbfly dst src p l half scale => s.mbfly o.quarto dst src p l half scale
  | .mcmul dst a b t half scale conj => s.mcmul o.quarto dst a b t half scale conj
  | .drain _ rows et _ _ _ _ _ => s.portBeats (rows * (2 * drainSize et.toNat + 1) + 1 - o.beat) o
  | _ => s.portBeats (o.beats - o.beat) o

/-! ### Acceptance (R195) -/

def State.accept (s : State) (o : PortOp) : State :=
  { s with nextAcc := s.nextAcc + 1, port := s.port ++ [{ o with seq := s.nextAcc }] }

/-- The accepted commands that a command reading `r` and writing `w` must see complete, with those that
these must. -/
def mustPrecede (l : List PortOp) (r w : List Nat) : List PortOp :=
  (l.foldr (fun o acc =>
    if meets o.reads o.writes acc.2.1 acc.2.2 then (o :: acc.1, o.reads ++ acc.2.1, o.writes ++ acc.2.2) else acc)
    ([], r, w)).1

/-- Completes them, in order: before a command that takes effect at its issue. -/
def State.portBefore (s : State) (r w : List Nat) : State :=
  let now := mustPrecede s.port r w
  now.foldl (fun s o => s.portRun o) { s with port := s.port.filter fun o => !now.contains o }

/-- Every accepted command of a context completes (R198). -/
def State.portFinish (s : State) (c : Nat) : State :=
  let last := s.port.foldr (fun o acc => match acc with
    | [] => if o.ctx == c then [o] else []
    | l => o :: l) []
  last.foldl (fun s o => s.portRun o) { s with port := s.port.drop last.length }

/-- Whether command i may progress: no earlier one meets it. -/
def State.portFree (s : State) (i : Nat) (o : PortOp) : Bool := (s.port.take i).all fun p => !o.conflicts p

/-- One beat of command i. -/
def State.portStep (s : State) (i : Nat) (kind : PortCmd → Bool) : State :=
  match s.port[i]? with
  | none => s
  | some o =>
    if kind o.cmd && s.portFree i o then
      let (s, o') := s.portBeat o
      match o' with
      | some o' => { s with port := s.port.set i o' }
      | none => { s with port := s.port.eraseIdx i }
    else s

/-- Command i's results stand. -/
def State.portComplete (s : State) (i : Nat) (kind : PortCmd → Bool) : State :=
  match s.port[i]? with
  | none => s
  | some o =>
    if kind o.cmd && s.portFree i o then { s.portRun o with port := s.port.eraseIdx i } else s

def PortCmd.isMove : PortCmd → Bool
  | .sload _ _ _ _ _ _ | .ssave _ _ _ _ _ _ => true
  | _ => false
def PortCmd.isDrain : PortCmd → Bool
  | .drain _ _ _ _ _ _ _ _ => true
  | _ => false
def PortCmd.isGang : PortCmd → Bool
  | .gang _ _ _ => true
  | _ => false
def PortCmd.isBfly : PortCmd → Bool
  | .mdrev _ _ _ | .mbfly _ _ _ _ _ _ | .mcmul _ _ _ _ _ _ _ => true
  | _ => false

def execSheetMoveBeat (s : State) : Host.Outcome State Fault Refusal :=
  event s fun s => s.portStep s.arg.a PortCmd.isMove
def execDrainBeat (s : State) : Host.Outcome State Fault Refusal :=
  event s fun s => s.portStep s.arg.a PortCmd.isDrain
def execGangComplete (s : State) : Host.Outcome State Fault Refusal :=
  event s fun s => s.portComplete s.arg.a PortCmd.isGang
def execButterflyComplete (s : State) : Host.Outcome State Fault Refusal :=
  event s fun s => s.portComplete s.arg.a PortCmd.isBfly

end Sys2Proof.Machine
end

