-- ==== Sys2Proof/Machine/Matrix.lean ====
section
/-! DEFINITION. Matrix instructions, class 0xA (R184 to R217), and the gang barrier (R186 to R189). -/

namespace Sys2Proof.Machine

def rGather : Nat := 0
def rPress : Nat := 2

/-! ### SCLAIM and SREL (R202, R203) -/

/-- Whether sheets f to f + n − 1 of quarto q are free for a claim. -/
def State.freeRun (s : State) (q f n : Nat) : Bool :=
  (List.range n).all fun i => tget 0 (s.quarto q).holder (f + i) == 0 && !s.sheetBusy q (f + i)

/-- Sheets of quarto q that context c holds. -/
def State.heldCount (s : State) (c q : Nat) : Nat := (s.quarto q).holder.countP fun e => e.2 == c

/-- The lowest run of n sheets free in every member, within the context's quota. -/
def State.claimRun (s : State) (c n : Nat) (qs : List Nat) : Option Nat :=
  if qs.all fun q => decide (s.heldCount c q + n ≤ (s.fn (s.ctxFn c)).recd.sheetq) then
    (List.range (129 - n)).find? fun f => qs.all fun q => s.freeRun q f n
  else none

/-- Takes sheets, which read as zero. -/
def State.claim (s : State) (c f n : Nat) (qs : List Nat) : State :=
  qs.foldl (fun s q => (List.range n).foldl (fun s i =>
    (s.updQuarto q fun x => { x with holder := tset 0 x.holder (f + i) c }).sheetClear q (f + i)) s) s

def execSclaim (h : Head) (d : GReg) (a : GI) (s : State) : Host.Outcome State Fault Refusal :=
  run h s fun s => s.ofRole [rGather, rPress] 640 fun s =>
    let n := (s.t.gi a).toNat
    if n = 0 ∨ 128 < n then s.trapOperand 2 (giKind a)
    else match s.claimRun s.t.ctx n s.myGroup with
      | some f => (s.claim s.t.ctx f n s.myGroup).updT fun t => ((t.wrG d (w64 f)).wrM 1 (BitVec.allOnes 256)).step
      | none => s.updT fun t => ((t.wrG d (BitVec.allOnes 64)).wrM 1 0).step

/-- Gives sheets back: later commands trap; they are free once no accepted command names them. -/
def State.unclaim (s : State) (f n : Nat) (qs : List Nat) : State :=
  qs.foldl (fun s q => (List.range n).foldl (fun s i =>
    s.updQuarto q fun x => { x with holder := tset 0 x.holder (f + i) 0 }) s) s

def execSrel (h : Head) (d a : GI) (s : State) : Host.Outcome State Fault Refusal :=
  run h s fun s => s.ofRole [rGather, rPress] 641 fun s =>
    s.try_ (s.sheetNum d 1) fun f =>
      let n := (s.t.gi a).toNat
      if n = 0 ∨ 128 < n ∨ 128 < f + n then s.trapOperand 2 (giKind a)
      else match (List.range n).find? fun i => !(s.myGroup.all fun q => s.holdsSheet s.t.ctx q (f + i)) with
        | some i => s.trap 0x23 0 (f + i)
        | none => (s.unclaim f n s.myGroup).next

/-! ### SLOAD and SSAVE (R204, R205) -/

/-- The control word: HIDX, XTAG, SCALE, FIRST, ROWS; ILLEGAL_OPERAND, FIELD 3 (R204). -/
def moveCtl (w : Word) : Except Trp (Nat × Nat × Bool × Nat × Nat) :=
  let x := w.toNat
  let rows := bits x 0 8
  let first := bits x 8 8
  if rows = 0 ∨ 128 < first + rows ∨ bits x 17 15 ≠ 0 then .error (trOperand 3 1)
  else .ok (bits x 48 16, bits x 32 16, bitOn x 16, first, rows)

/-- Bytes of the pad region. -/
def moveBytes (rows : Nat) (scale : Bool) : Nat := 256 * rows + if scale then 16 * rows else 0

/-- A pointer's region in a pad: CheckPtr, then ALIGN to the unit (R201, R205, R211, R212). -/
def State.padRegion (s : State) (p : Ptr) (bix : Nat) (disp : Int) (n need unit : Nat) (req : NodeReq) : Except Trp Nat :=
  match s.checkPtr s.t.ctx p bix disp n need req with
  | .error t => .error t
  | .ok (_, off) => if off % unit ≠ 0 then .error ⟨0x14, addrOf p off, n⟩ else .ok off

/-- The header that an engine's message for the issuing activation has, formed at issue (R168, R194). -/
def State.engineHdr (s : State) (hidx len dst : Nat) : BitVec 128 :=
  let (prio, boosted) := s.sendPrio hidx false
  mkHdr prio boosted false len hidx s.t.lcore dst s.ts

/-- Issues a beat command: `acq` and `rel` where its flags form an edge. -/
def State.issueMove (s : State) (cmd : PortCmd) (hidx len tag dst : Nat) (acq rel : Bool) : State :=
  let s := if acq || rel then s.flushMine else s
  let (party, s) := s.newParty (if acq then s.carry s.me else [])
  s.accept { cmd := cmd, quarto := s.myQuarto, core := s.core_, ctx := s.t.ctx, hidx := hidx, tag := tag,
             hdr := s.engineHdr hidx len dst, launch := s.t.launch, rel := rel, party := party }

def execSload (h : Head) (od : Ord3) (sc : Scope3) (d : GI) (a : MemOp) (b : GReg) (s : State) : Host.Outcome State Fault Refusal :=
  run h s fun s => s.ofRole [rGather] 642 fun s =>
    s.try_ (s.sheetNum d 1) fun x => s.try_ (moveCtl (s.t.rdG b)) fun (hidx, tag, scale, first, rows) =>
      s.try_ (s.sheetCheck s.myGroup x) fun _ =>
        let p := s.ptr a.b
        s.try_ (s.padRegion p a.b.toNat (dispOf a 256) (moveBytes rows scale) rR 16 (ownPad s.myPad 2)) fun off =>
          (s.issueMove (.sload x first rows scale p off) hidx 2 tag s.t.lcore
            (acquires od.toNat && decide (1 ≤ sc.toNat)) false).next

def execSsave (h : Head) (od : Ord3) (sc : Scope3) (d : MemOp) (a : GI) (b : GReg) (s : State) : Host.Outcome State Fault Refusal :=
  run h s fun s => s.ofRole [rGather] 643 fun s =>
    s.try_ (s.sheetNum a 2) fun x => s.try_ (moveCtl (s.t.rdG b)) fun (hidx, tag, scale, first, rows) =>
      s.try_ (s.sheetCheck s.myGroup x) fun _ =>
        let p := s.ptr d.b
        s.try_ (s.padRegion p d.b.toNat (dispOf d 256) (moveBytes rows scale) rW 16 (ownPad s.myPad 1)) fun off =>
          (s.issueMove (.ssave x first rows scale p off) hidx 2 tag s.t.lcore
            false (releases od.toNat && decide (1 ≤ sc.toNat))).next

/-! ### MWLD (R206) -/

/-- Latches a sheet's rows with their format and the context. -/
def State.latch (s : State) (et : EType) (nib : Bool) (x : Nat) : State :=
  let q := s.myQuarto
  let s := s.portBefore [rSheet q x] [rWeights q]
  let w : Weights := { ctx := s.t.ctx, et := et, nib := nib, data := s.sheetCells q x }
  s.updQuarto q fun y => { y with weights := w }

def execMwld (h : Head) (et : EType) (nib : Bool) (d : GI) (s : State) : Host.Outcome State Fault Refusal :=
  run h s fun s => s.ofRole [rPress] 644 fun s =>
    s.try_ (s.sheetNum d 1) fun x => s.try_ (s.sheetCheck s.myGroup x) fun _ => (s.latch et nib x).next

/-! ### The gang barrier (R186 to R189) -/

/-- Cycles for which a context has held its quartos; in STOPPED none holds them (R188). -/
def State.ranCycles (s : State) (c : Nat) : Nat :=
  let f := s.fn (s.ctxFn c)
  (s.ctx c).ran + if f.cur = c ∧ f.migr.st ≠ 3 then s.now - f.sliceStart else 0

/-- The quarto that keeps a group's barrier state: its lowest. -/
def leadOf (qs : List Nat) : Nat := qs.headD 0

/-- The waiter priority that a press core of context c has from its gang (R189). -/
def State.gangPrio (s : State) (core c : Nat) : Nat :=
  if coreRole core ≠ rPress then 0 else
  let lead := leadOf (fused (s.fn (s.ctxFn c)).recd.fuse (quartoOf core))
  (tget [] (s.quarto lead).barrier c).foldl (fun m a => max m a.prio) 0

/-- A handler entry that declares CTKIND 4 (R24). -/
def State.isGangHandler (s : State) (c hidx : Nat) : Bool :=
  match s.handler c hidx with
  | some e => bits e 280 3 == 4
  | none => false

/-- The group's arrivals as R187's mask compares them, the last one with the others. -/
def State.gangMask (s : State) (c : Nat) (qs : List Nat) (arrs : List Arrival) (last : Arrival) : Nat :=
  let differs (f : Word → Int) : Bool := arrs.any fun a => f a.ctl != f last.ctl
  let halfBad := arrs.any fun a => (bankQuartos qs).any fun b =>
    let hf := s.half b (gRow a.ctl / 128)
    hf.mode.toNat != gMode a.ctl || hf.anchor != gAnchor a.ctl
      || (if elInt a.et.toNat then decide (3 ≤ hf.mode.toNat) else hf.mode != 3)
  let weightsBad := (qs.any fun q => (s.quarto q).weights.ctx != c) || arrs.any fun a =>
    let w := (s.quarto (quartoOf a.core)).weights
    elBits a.et.toNat a.nib != elBits w.et.toNat w.nib || elInt a.et.toNat != elInt w.et.toNat
  (differs fun x => gM x).toNat + 2 * (differs fun x => gOp x).toNat + 4 * (differs fun x => gRow x).toNat
    + 8 * (differs fun x => gMode x).toNat + 16 * (differs gAnchor).toNat + 32 * halfBad.toNat + 64 * weightsBad.toNat

/-- The notice that an earlier member's core receives (R187). -/
def State.gangNotice (s : State) (c mask : Nat) (a : Arrival) : State :=
  let (q, s) := s.takeFseq a.core
  s.postFault (s.faultTarget c (s.ctxPriv c != 0)) (quartoOf a.core)
    { ctx := c, lcore := a.lcore, thread := a.thread, hidx := a.hidx, actstart := a.actstart.toNat, cause := 0x24,
      tinfo := mask, tepc := a.pc, fseq := q, killed := true, launch := a.launch }

/-- The control word's checks: ILLEGAL_OPERAND, FIELD 1 (R207). -/
def gangCtlOk (ctl : Word) : Bool :=
  let x := ctl.toNat
  bits x 35 13 == 0 && bits x 26 6 == 0 && bits x 8 8 == 0 && decide (gMode ctl ≤ 3) && decide (gOp ctl ≤ 1)
    && rowsOk (gRow ctl) (gM ctl)

def State.setBarrier (s : State) (lead c : Nat) (l : List Arrival) : State :=
  s.updQuarto lead fun x => { x with barrier := tset [] x.barrier c l }

/-- Registers the issuing core's arrival; the last one starts the operation or cancels it. -/
def State.arrive (s : State) (et : EType) (nib : Bool) (ctl st : Word) : State :=
  let c := s.t.ctx
  let qs := s.myGroup
  let lead := leadOf qs
  let arrs := tget [] (s.quarto lead).barrier c
  if arrs.any fun a => a.core == s.core_ then s.trap 0x24 0 128
  else
    let a : Arrival :=
      { core := s.core_, lcore := s.t.lcore, ctl := ctl, stream := st, et := et, nib := nib,
        prio := max s.t.eff (if s.isGangHandler c s.t.hidx then s.gangPrio s.core_ c else 0), at_ := s.ranCycles c,
        hidx := s.t.hidx, actstart := s.t.actstart, thread := s.cur % 8, pc := s.t.pc, launch := s.t.launch }
    let all := arrs ++ [a]
    if all.length < 8 * qs.length then (s.setBarrier lead c all).next
    else
      let mask := s.gangMask c qs all a
      let s := s.setBarrier lead c []
      if mask = 0 then
        (s.accept { cmd := .gang qs all ctl, quarto := lead, core := s.core_, ctx := c }).next
      else (arrs.foldl (fun s e => s.gangNotice c mask e) s).trap 0x24 0 mask

def execMgang (h : Head) (et : EType) (nib : Bool) (d : GReg) (a : GI) (s : State) : Host.Outcome State Fault Refusal :=
  run h s fun s => s.ofRole [rPress] 645 fun s =>
    let ctl := s.t.rdG d
    let st := s.t.gi a
    if !gangCtlOk ctl then s.trapOperand 1 1
    else if bits st.toNat 14 50 ≠ 0 ∨ 128 < aRow st + gM ctl then s.trapOperand 2 (giKind a)
    else s.try_ (s.sheetCheck s.myGroup (aSheet st)) fun _ =>
      s.try_ (s.sheetCheck s.myGroup (128 + gRow ctl / 128)) fun _ => s.arrive et nib ctl st

/-- GANG_STALE (R188): quarto arg.a's barrier state of context arg.b is withdrawn. Its record belongs to the launch of
the first arrival (DESIGN CHOICE, log 228). -/
def State.gangStale (s : State) (lead c : Nat) : State :=
  let arrs := tget [] (s.quarto lead).barrier c
  if arrs.any fun a => decide (a.at_ + 2 ^ 20 ≤ s.ranCycles c) then
    let qs := fused (s.fn (s.ctxFn c)).recd.fuse lead
    let mask := arrs.foldl (fun m a =>
      m ||| 2 ^ (8 * ((qs.findIdx? (· == quartoOf a.core)).getD 0) + coreTile a.core % 8)) 0
    (s.setBarrier lead c []).dispatchFault 8 c (svcOf lead) 0 0 (mask * 2 ^ 32 + lead) ((arrs.head?).bind (·.launch)) (lead / 4)
  else s

def execGangStale (s : State) : Host.Outcome State Fault Refusal :=
  event s fun s => s.gangStale s.arg.a s.arg.b

/-! ### MZERO, MACCLD, MSTAT (R210, R211, R216) -/

/-- The half that the mode and anchor replace with a whole MZERO. -/
def zeroHalf (mode : Nat) (anchor : Int) : Half := { mode := BitVec.ofNat 3 mode, anchor := anchor }

/-- Zeroes rows; a whole half takes the mode and anchor and clears its sticky bits. -/
def State.zeroRows (s : State) (first rows mode : Nat) (anchor : Int) : State :=
  let q := s.myQuarto
  let h := first / 128
  let s := s.portBefore [] (rRows q first rows ++ if rows = 128 then [rHalf q h] else [])
  let s := { s with acc := tdrop (fun k => decide (accKey q first 0 ≤ k) && decide (k < accKey q (first + rows) 0)) s.acc }
  if rows = 128 then s.setHalf q h (zeroHalf mode anchor) else s

/-- MZERO's word: reserved values and rows (R210). -/
def zeroCtlOk (w : Word) : Bool :=
  let x := w.toNat
  bits x 35 13 == 0 && bits x 16 16 == 0 && decide (bits x 32 3 ≤ 4) && (bits x 48 16 == 0 || bits x 32 3 == 3)
    && rowsOk (bits x 0 8) (bits x 8 8) && (bits x 8 8 == 128 || bits x 32 3 != 4)

def execMzero (h : Head) (d : GReg) (s : State) : Host.Outcome State Fault Refusal :=
  run h s fun s => s.ofRole [rPress] 646 fun s =>
    let w := s.t.rdG d
    let first := bits w.toNat 0 8
    let rows := bits w.toNat 8 8
    if !zeroCtlOk w then s.trapOperand 1 1
    else s.try_ (s.sheetCheck s.myGroup (128 + first / 128)) fun _ =>
      let hf := s.half s.myQuarto (first / 128)
      if rows ≠ 128 ∧ (hf.mode.toNat ≠ gMode w ∨ hf.anchor ≠ gAnchor w) then s.trapOperand 1 1
      else (s.zeroRows first rows (gMode w) (gAnchor w)).next

/-- Overwrites rows with loaded elements. -/
def State.loadRows (s : State) (et first rows : Nat) (bytes : List Byte) : State :=
  let q := s.myQuarto
  let h := first / 128
  let s := s.portBefore [] (rHalf q h :: rRows q first rows)
  let hf := s.half q h
  let n := loadSize et
  let row (i : Nat) : List Sum := (List.range 128).map fun j =>
    loadAcc et hf.mode.toNat hf.anchor (natOfBytes ((bytes.drop ((128 * i + j) * n)).take n))
  let all := (List.range rows).map fun i => (i, row i)
  let s := all.foldl (fun s x => s.setAccRow q (first + x.1) (x.2.map fun r => ({} : Acc).plus r)) s
  s.setHalf q h (hf.note (all.flatMap (·.2)))

def execMaccld (h : Head) (et : EType) (d : GReg) (a : MemOp) (s : State) : Host.Outcome State Fault Refusal :=
  run h s fun s => s.ofRole [rPress] 647 fun s =>
    let w := s.t.rdG d
    let first := bits w.toNat 0 8
    let rows := bits w.toNat 8 8
    let n := loadSize et.toNat
    if bits w.toNat 16 48 ≠ 0 ∨ !rowsOk first rows then s.trapOperand 1 1
    else s.try_ (s.sheetCheck s.myGroup (128 + first / 128)) fun _ =>
      if !loadModeOk et.toNat (s.half s.myQuarto (first / 128)).mode.toNat then s.trapModifier 5 et.toNat
      else
        let p := s.ptr a.b
        s.try_ (s.padRegion p a.b.toNat (dispOf a n) (128 * rows * n) rR n (ownPad s.myPad 2)) fun _ =>
          s.try_ (s.reach p a.b.toNat (dispOf a n) (128 * rows * n) rR .load 1) fun hit =>
            s.try_ (s.readHit p hit (128 * rows * n) 0 0) fun (bytes, s) => (s.loadRows et.toNat first rows bytes).next

/-- MSTAT's read, and its clearing, in port order. -/
def State.stat (s : State) (h : Nat) (clr : Bool) : Word × State :=
  let q := s.myQuarto
  let s := s.portBefore [rHalf q h] (if clr then [rHalf q h] else [])
  let hf := s.half q h
  let cleared : Half := { mode := hf.mode, anchor := hf.anchor }
  (hf.word, if clr then s.setHalf q h cleared else s)

/-- MSTAT's checks. -/
def State.statOp (s : State) (d : GReg) (a : GI) (clr : Bool) : State :=
  let h := (s.t.gi a).toNat
  if 1 < h then s.trapOperand 2 (giKind a)
  else s.try_ (s.sheetCheck s.myGroup (128 + h)) fun _ =>
    let (w, s) := s.stat h clr
    s.retG d w

def execMstat (h : Head) (d : GReg) (a : GI) (s : State) : Host.Outcome State Fault Refusal :=
  run h s fun s => s.ofRole [rPress] 649 fun s => s.statOp d a false

def execMstatClr (h : Head) (d : GReg) (a : GI) (s : State) : Host.Outcome State Fault Refusal :=
  run h s fun s => s.ofRole [rPress] 649 fun s => s.statOp d a true

/-! ### MDRAIN (R212 to R215) -/

/-- The receiving core's pad, or ILLEGAL_OPERAND, FIELD 2 (R212). -/
def drainPad (core : Nat) : NodeReq := ownPad (padOf core) 2

/-- Whether SCOPE contains both the quarto and the receiving core (R48, R212). -/
def drainScope (sc q core : Nat) : Bool :=
  if quartoOf core = q then decide (1 ≤ sc) else if coreDie core = q / 4 then decide (2 ≤ sc) else decide (3 ≤ sc)

/-- The requantising table in its 2,064 bytes; `none` for the values that trap (R214). -/
def rqTable (et : Nat) (bs : List Byte) : Option Rq :=
  let hd := natOfBytes (bs.take 16)
  let cols := (List.range 128).map fun j => natOfBytes ((bs.drop (16 + 16 * j)).take 16)
  let t : Rq :=
    { rscol := bits hd 96 8, hi := asInt (bits hd 64 32) 32, lo := asInt (bits hd 32 32) 32, zout := asInt (bits hd 0 32) 32,
      cols := cols.map fun x => (asInt (bits x 0 32) 32, asInt (bits x 32 32) 32, asInt (bits x 64 32) 32, bits x 96 6) }
  if bits hd 104 24 ≠ 0 ∨ (cols.any fun x => bits x 102 26 != 0) ∨ 127 < t.rscol ∨ t.hi < t.lo ∨ t.lo < intLo et ∨ intHi et < t.hi
  then none else some t

/-- The table that b[OA + 1] names, read at issue. -/
def State.readTable (s : State) (et : Nat) (b : BReg) : Except Trp (Rq × State) :=
  let p := s.ptr b
  match s.padRegion p b.toNat 0 2064 rR 16 (ownPad s.myPad 2) with
  | .error t => .error t
  | .ok _ => match s.reach p b.toNat 0 2064 rR .load 1 with
    | .error t => .error t
    | .ok hit => match s.readHit p hit 2064 0 0 with
      | .error t => .error t
      | .ok (bytes, s) => match rqTable et bytes with
        | some t => .ok (t, s)
        | none => .error (trOperand 2 3)

/-- MDRAIN with its table or without. -/
def State.drainOp (s : State) (et : EType) (rnd : Rnd) (od : Ord3) (sc : Scope3) (d : GReg) (a : BReg) (b : GReg) (rq : Bool) : State :=
  let w := s.t.rdG d
  let x := (s.t.rdG b).toNat
  let first := bits x 0 8
  let rows := bits x 8 8
  let n := drainSize et.toNat
  s.try_ (s.coord w) fun core =>
    if rq ∧ a.toNat % 2 ≠ 0 then s.trapOperand 2 3
    else if !rowsOk first rows then s.trapOperand 3 1
    else s.try_ (s.sheetCheck s.myGroup (128 + first / 128)) fun _ =>
      if !drainModeOk et.toNat (s.half s.myQuarto (first / 128)).mode.toNat rq then s.trapModifier 5 et.toNat
      else
        let p := s.ptr a
        s.try_ (s.padRegion p a.toNat 0 (128 * rows * n) rW n (drainPad core)) fun off =>
          let go (s : State) (t : Option Rq) : State :=
            (s.issueMove (.drain first rows et (s.t.mode rnd) t p off core) (bits x 48 16) 4 (bits x 16 32) w.toNat
              false (releases od.toNat && drainScope sc.toNat s.myQuarto core)).next
          if rq then s.try_ (s.readTable et.toNat (a + 1)) fun (t, s) => go s (some t) else go s none

def execMdrain (h : Head) (et : EType) (rnd : Rnd) (od : Ord3) (sc : Scope3) (d : GReg) (a : BReg) (b : GReg) (s : State) : Host.Outcome State Fault Refusal :=
  run h s fun s => s.ofRole [rPress] 648 fun s => s.drainOp et rnd od sc d a b false

def execMdrainRq (h : Head) (et : EType) (rnd : Rnd) (od : Ord3) (sc : Scope3) (d : GReg) (a : BReg) (b : GReg) (s : State) : Host.Outcome State Fault Refusal :=
  run h s fun s => s.ofRole [rPress] 648 fun s => s.drainOp et rnd od sc d a b true

end Sys2Proof.Machine
end

