-- ==== Sys2Proof/Machine/Records.lean ====
section
/-! DEFINITION. Records on their way, dispatch and firing (R30 to R38, R120, R174, R177, R179, R317). -/

namespace Sys2Proof.Machine

/-! ### Arrival in order (R167, R274, R276, R279) -/

/-- RECORD_ARRIVAL: record arg.a of those on their way arrives; where `bad` is not 0 it fails its end-to-end check,
is discarded, and its partition takes a device error of CAUSE 3 (R276, R355). -/
def State.recordArrival (s : State) (i bad : Nat) : State :=
  match s.net[i]? with
  | none => s
  | some r =>
    if s.recWaits r then s
    else
      let s := { s with net := s.net.eraseIdx i }
      if bad = 0 then s.arriveRec r else s.faultFn (s.ctxFn r.ctx) 3 (coreDie r.core)

def execRecordArrival (s : State) : Host.Outcome State Fault Refusal :=
  event s fun s => s.recordArrival s.arg.a s.arg.b

/-! ### The dispatcher's checks (R34) -/

/-- A declared queue lies in the pad and is not faulty (R173). -/
def State.declOk (s : State) (core c : Nat) (d : QDecl) : Bool :=
  let sz := s.padSize c (padOf core)
  let x := s.desc (padOf core) d.desc
  decide (d.desc + 32 ≤ sz) && !x.faulty sz && decide (d.cnt ≤ x.size)

/-- Why an entry is BAD_ENTRY at a core. -/
def State.badEntry (s : State) (core c e : Nat) : Bool :=
  eENTRY e % 12 != 0 || (eWDLOG e != 0 && (decide (eWDLOG e < 10) || decide (20 < eWDLOG e)))
    || decide (5 ≤ eCTKIND e) || (eCTKIND e == 4 && (eCTHANDLE e != 0 || eCTOFF e != 0))
    || (eCTKIND e == 1 && decide (31 < eCTOFF e))
    || (eCTKIND e == 2 && (eCTOFF e % 16 != 0 || decide (2097152 ≤ eCTOFF e)))
    || (eFRAMESZ e != 0 && tget 0 (s.ctx c).frames (padOf core) == 0)
    || (qDecls e).any fun d => !s.declOk core c d

/-- The failed check of a record at a core: kind and INFO. Service cores run supervisors and above, tile cores users
and supervisors (R105; log 33). -/
def State.recFault (s : State) (core : Nat) (r : Rec) : Option (Nat × Nat) :=
  match s.handler r.ctx r.hidx with
  | none => some (1, r.hidx)
  | some e =>
    if eROLE e ≠ coreRole core ∨ (eROLE e = 3 ∧ s.ctxPriv r.ctx = 0) ∨ (eROLE e ≠ 3 ∧ 2 ≤ s.ctxPriv r.ctx) then some (2, eROLE e)
    else if s.badEntry core r.ctx e then some (3, r.hidx)
    else none

/-- Removes a record from a channel's on-chip places; waiting ones move up (R29). -/
def State.unqueue (s : State) (ch : Nat) (r : Rec) : State :=
  (s.updChan ch fun c => { c with onchip := c.onchip.erase r, head := none, since := none }).refill ch r.ctx

/-- HEAD_CHECK: a head of channel arg.a that fails a check is discarded. -/
def State.headCheck (s : State) (ch : Nat) : State :=
  match s.headOf ch with
  | none => s
  | some r => match s.recFault (ch / 16) r with
    | some (kind, info) => (s.unqueue ch r).discard r (ch % 16) kind info
    | none => s

def execHeadCheck (s : State) : Host.Outcome State Fault Refusal :=
  event s fun s => s.headCheck s.arg.a

/-! ### Eligibility and effective priority (R31, R32, R317) -/

/-- A declared queue has its slots, not reserved by another activation. -/
def State.declReady (s : State) (core : Nat) (d : QDecl) : Bool :=
  let x := s.desc (padOf core) d.desc
  if d.prod then decide (d.cnt ≤ if x.pheld = 0 then x.free else 0) else decide (d.cnt ≤ if x.cheld = 0 then x.filled else 0)

def eSemEn (e : Nat) : Bool := bitOn e 173
def eSemCnt (e : Nat) : Nat := bits e 165 8
def eSemId (e : Nat) : Nat := bits e 160 5

/-- The semaphore gate. A SEMCNT of 0, which R24 does not give a gate and R34 lists under no kind, takes nothing and is
always met (DESIGN CHOICE, log 198). -/
def State.semReady (s : State) (core e : Nat) : Bool :=
  !eSemEn e || decide (eSemCnt e ≤ s.sem (padOf core) (eSemId e))

def eSwEn (e : Nat) : Bool := bitOn e 193
def eSwOff (e : Nat) : Nat := 16 * bits e 176 17

/-- The sync-word gate: generation − G is not negative as an INT32. A word beyond what the context has of the pad, which
it cannot reach (R322), never meets it (DESIGN CHOICE, log 229). -/
def State.swReady (s : State) (core e : Nat) (r : Rec) : Bool :=
  if !eSwEn e then true
  else if s.padSize r.ctx (padOf core) < eSwOff e + 16 then false else
  let gen := s.peekN (padAddr (padOf core) (eSwOff e) + 8) 4
  let g := if r.genarg then bits r.arg.toNat 0 32 else bits e 224 32
  decide (0 ≤ asInt ((gen + 2 ^ 32 - g) % 2 ^ 32) 32)

/-- Every condition of R31 but the semaphore's count. -/
def State.readyButSem (s : State) (core : Nat) (r : Rec) (e : Nat) : Bool :=
  (qDecls e).all (s.declReady core) && s.swReady core e r

/-- A checked record that meets every condition of R31. -/
def State.ready (s : State) (core : Nat) (r : Rec) : Bool :=
  match s.handler r.ctx r.hidx with
  | none => false
  | some e => (s.recFault core r).isNone && s.readyButSem core r e && s.semReady core e

/-- A head's base priority (R32). -/
def State.baseOf (s : State) (r : Rec) : Nat := if r.isMsg then hdrPrio r.hdr else s.hPrio r.ctx r.hidx

/-- Waiter priority of a semaphore (R317). -/
def State.semPrio (s : State) (pad id : Nat) : Nat :=
  ((List.range 48).filterMap fun i =>
    let core := if pad < 1024 then coreOf (pad / 32) (pad % 32) (i / 16) else coreOf (padDie pad) (pad % 4) 3
    match s.headOf (16 * core + i % 16) with
    | none => none
    | some r => match s.handler r.ctx r.hidx with
      | none => none
      | some e => if eSemEn e && eSemId e == id && (s.recFault core r).isNone && s.readyButSem core r e
        then some (s.baseOf r) else none).foldl max 0

/-- Waiter priority of the join cell of a handler with CTKIND 3, as it stands now; else 0 (R171, R317). -/
def State.cellPrio (s : State) (r : Rec) : Nat :=
  match s.handler r.ctx r.hidx with
  | none => 0
  | some e =>
    let h := s.hent r.ctx (eCTHANDLE e)
    if eCTKIND e ≠ 3 ∨ !h.used ∨ h.size < eCTOFF e + 64 then 0
    else match s.place r.ctx h.node (eCTOFF e) false false with
      | .ok pl => if s.armed pl.addr then bits (s.peekN pl.addr 64) 297 3 else 0
      | .error _ => 0

/-- Waiter priority of the contributes-to object of a channel's head, which the dispatcher reads every cycle; of a
join cell, what it last read (R317). -/
def State.boostOf (s : State) (core ch : Nat) (r : Rec) : Nat :=
  match s.handler r.ctx r.hidx with
  | none => 0
  | some e => match eCTKIND e with
    | 1 => s.semPrio (padOf core) (eCTOFF e)
    | 2 => min 7 (s.peekN (padAddr (padOf core) (eCTOFF e) + 13) 1)
    | 3 => if (s.chan ch).head = some r then (s.chan ch).boost else s.cellPrio r
    | 4 => s.gangPrio core r.ctx
    | _ => 0

/-- Effective priority of the head of a channel. -/
def State.effOf (s : State) (core ch : Nat) (r : Rec) : Nat :=
  let c := s.chan ch
  let waited := if c.head = some r then s.now - c.since.getD s.now else 0
  min 7 (max (s.baseOf r) (s.boostOf core ch r) + waited / 4096)

/-- The channels a core may fire from: its own, and those bound to its pool (R28, R30), lower tiles first. -/
def State.channelsOf (s : State) (core : Nat) : List Nat :=
  (List.range 16).map (16 * core + ·)
  ++ (if coreRole core = 3 then [] else
    (List.range 8).flatMap fun j =>
      let mate := coreOf (coreDie core) (8 * (coreTile core / 8) + j) (coreRole core)
      if mate = core then [] else
      ((List.range 16).map (16 * mate + ·)).filter fun ch => (s.chan ch).mode == 1)

/-- The eligible heads of a core. A pool-bound head that would fail R34's checks on this core's tile is no candidate
here, and its own core discards it: DESIGN CHOICE (log 172). A pool-bound head of a core in idle may fire at another core
of the pool: DESIGN CHOICE (log 209). -/
def State.candidates (s : State) (core : Nat) : List (Nat × Rec) :=
  (s.channelsOf core).filterMap fun ch => match s.headOf ch with
    | none => none
    | some r => if s.mayFire core r.ctx && s.ready core r then some (ch, r) else none

/-- Whether two eligible heads contend at a core: they take from one semaphore that has too little for both, or
reserve on the same side of one queue (R31). -/
def State.contend (s : State) (core : Nat) (x y : Rec) : Bool :=
  match s.handler x.ctx x.hidx, s.handler y.ctx y.hidx with
  | some e, some f =>
    (eSemEn e && eSemEn f && eSemId e == eSemId f
        && decide (s.sem (padOf core) (eSemId e) < eSemCnt e + eSemCnt f))
      || (qDecls e).any fun a => (qDecls f).any fun b =>
          a.desc == b.desc && a.prod == b.prod && decide (0 < a.cnt) && decide (0 < b.cnt)
  | _, _ => false

/-- The eligible heads that no other of a lower channel index contends with (R31; DEDUCED, log 181). -/
def State.granted (s : State) (core : Nat) : List (Nat × Rec) :=
  let l := s.candidates core
  l.filter fun x => !l.any fun y => decide (y.1 % 16 < x.1 % 16) && s.contend core x.2 y.2

/-- The one that fires: highest effective priority, then round-robin by channel index (R32). R32 does not choose among
heads of one priority on one index, the core's own and its pool mates': the own one goes first, and then the lowest
tile's (DESIGN CHOICE, log 218). -/
def State.pickHead (s : State) (core : Nat) : Option (Nat × Rec) :=
  let turn (ch : Nat) : Nat := (ch % 16 + 31 - (s.core core).last) % 16
  (s.granted core).foldl (fun best x => match best with
    | none => some x
    | some b =>
      let p := s.effOf core b.1 b.2
      let q := s.effOf core x.1 x.2
      if p < q ∨ (p = q ∧ turn x.1 < turn b.1) then some x else some b) none

/-! ### Firing (R31, R35, R174) -/

/-- Reserves one declared queue for thread k and binds its register. -/
def State.bindDecl (s : State) (k : Nat) (d : QDecl) : State :=
  let pad := padOf (k / 8)
  let x := s.desc pad d.desc
  let t := s.thread k
  let s := if d.cnt = 0 then s else
    let s := s.touchAll t.party t.who aAtomW (linesOf (padNode pad) d.desc 32)
    s.setHeld pad d.desc d.prod d.cnt
  let q : QReg := { bound := true, prod := d.prod, desc := d.desc, start := if d.prod then x.tail else x.head, left := d.cnt }
  s.updThread k fun t => { t with q := tset {} t.q d.q q }

/-- Reserves the declared queues for thread k, each after the acquire of its HEAD or TAIL (R174). The reservation is an
atomic update of the descriptor (R173): where it finds an unordered plain access of the line, and so reaches it second,
neither it nor a later one is made, and the activation takes RACE before its first instruction (R51; DESIGN CHOICE, log
210). -/
def State.bindDecls (s : State) (k : Nat) : List QDecl → State × Option Trp
  | [] => (s, none)
  | d :: r =>
    let pad := padOf (k / 8)
    let party := (s.thread k).party
    let s := if d.cnt = 0 then s else
      s.acquire party (coreLoc (k / 8)) 4 (if d.prod then headVar pad d.desc else tailVar pad d.desc)
    match if d.cnt = 0 then none else s.race party aAtomW (linesOf (padNode pad) d.desc 32) with
    | some (l, a) => (s, some (raceTrap {} (padNode pad) l a))
    | none => (s.bindDecl k d).bindDecls k r

/-- Thread k takes a trap. -/
def State.trapOn (s : State) (k : Nat) (t : Trp) : State := { ({ s with cur := k }).trapE t with cur := s.cur }

/-- The static frame's pointer, minted on the tile's frame handle (R35). Bounds that R107's mantissas cannot hold are
rounded outward, as EncodeBounds does (DESIGN CHOICE, log 199). -/
def State.framePtr (s : State) (c pad e : Nat) : Ptr :=
  let i := tget 0 (s.ctx c).frames pad
  let lo := 64 * eFRAMEOFF e
  let (x, bm, tm) := (encodeBounds lo (lo + 64 * eFRAMESZ e)).getD (31, 0, 1023)
  { tag := true, raw := ptrRaw x bm tm (rR + rW + rA + rS) (s.hent c i).gen i lo }

/-- b1 over the payload (R35). -/
def payloadPtr (len : Nat) : Ptr :=
  let (x, bm, tm) := (encodeBounds 0 (4 * len)).getD (31, 0, 1023)
  { tag := true, raw := ptrRaw x bm tm rR 0 0xFFFFF 0, pay := true }

/-- The logical word under which context c names a physical core. -/
def State.wordOf (s : State) (c core dflt : Nat) : Nat :=
  ((List.range 4096).find? fun w => s.mapCore c w == some core).getD dflt

/-- Starts the activation of a record on thread k, whose party knows `know`. -/
def State.startAct (s : State) (k ch : Nat) (r : Rec) (e eff boost : Nat) (know : Know) : State :=
  let core := k / 8
  let c := r.ctx
  let (party, s) := s.newParty know
  let code := (s.hent c (eCODEH e))
  let node : Node := if code.used && s.nodeKind code.node == kCode then code.node else .root
  let gen := match node with
    | .made i =>
      let pins := match r.launch with
        | some l => (s.launch l).pins
        | none => []
      ((pins.find? fun p => p.1 == i).map (·.2)).getD (s.madeN i).codeGen
    | _ => 0
  let b0 : Ptr :=
    if r.frame.tag then r.frame
    else if eFRAMESZ e ≠ 0 then s.framePtr c (padOf core) e
    else { tag := false, raw := r.frame.raw }
  let b1 : Ptr := if r.isMsg then payloadPtr (hdrLen r.hdr) else {}
  let g1 : Word := if r.isMsg then w64 (bits r.hdr.toNat 64 64) else r.arg
  let info := w64 ((!r.isMsg).toNat + ch % 16 * 2 + r.hidx % 65536 * 32)
  let t : Thread :=
    { stat := .running, ctx := c, lcore := if core = r.core then r.lcore else s.wordOf c core r.lcore, hidx := r.hidx,
      pc := eENTRY e, code := node, codeGen := gen, codeH := BitVec.ofNat 20 (eCODEH e), codeHGen := code.gen, entry := eENTRY e,
      g := tset 0 [] 1 g1, b := tset {} (tset {} [] 0 b0) 1 b1, actinfo := info, actstart := w64 s.ts,
      xferid := r.xferid.zeroExtend 64, wdEnd := s.now + budget e, payload := r.payload, chan := ch % 16, isMsg := r.isMsg,
      eff := eff, boost := boost, launch := r.launch, party := party, key := r.key, sendTs := r.sendTs, arrTs := r.arrTs }
  let s := s.setThread k t
  let (s, lost) := s.bindDecls k (qDecls e)
  let s := s.traceThread k 3 0 info.toNat
  match lost with
  | none => s
  | some t => s.trapOn k t

/-- Takes the counts of the semaphore gate, and gives what its SEMVs carried (R31, R177). -/
def State.takeSem (s : State) (core e : Nat) : Know × State :=
  if !eSemEn e then ([], s) else
  let key := semKey (padOf core) (eSemId e)
  (tget [] s.semCarry key, { s with sems := tset 0 s.sems key (tget 0 s.sems key - eSemCnt e) })

/-- Remembers the save and restore routines of a handler that fired on a tile core (R328). -/
def State.noteFired (s : State) (core e : Nat) : State :=
  if coreRole core = 3 ∨ eSAVEIX e = 0xFFFF ∨ (s.core core).fired.contains (eSAVEIX e, eRESTIX e) then s
  else s.updCore core fun c => { c with fired := c.fired ++ [(eSAVEIX e, eRESTIX e)] }

/-- A free thread of a core: the preferred one, else the lowest. -/
def State.freeThread (s : State) (core pref : Nat) : Option Nat :=
  if pref < 8 ∧ (s.thread (8 * core + pref)).stat = .free then some (8 * core + pref)
  else ((List.range 8).map (8 * core + ·)).find? fun k => decide ((s.thread k).stat = .free)

/-- A core in idle leaves it when a PRIO 7 message from a service core is at a head (R120). -/
def State.wake (s : State) (core : Nat) : State :=
  if (s.core core).idle && ((List.range 16).any fun k => match s.headOf (16 * core + k) with
      | some r => r.isMsg && hdrPrio r.hdr == 7 && hdrSrc r.hdr / 1024 % 4 == 3
      | none => false)
  then s.updCore core fun c => { c with idle := false } else s

/-- A head fires at a core: the record, the reservations and the thread at one instant. -/
def State.fireHead (s : State) (core k ch : Nat) (r : Rec) (e : Nat) : State :=
  let eff := s.effOf core ch r
  let boost := max (s.boostOf core ch r) (if r.isMsg && hdrBoosted r.hdr then hdrPrio r.hdr else 0)
  let swKnow := if eSwEn e then tget [] s.swCarry (2 * swKey (padOf core) (eSwOff e) + 1) else []
  let (semKnow, s) := s.takeSem core e
  let s := s.unqueue ch r
  let s := (s.updCore core fun c => { c with last := ch % 16 }).noteFired core e
  s.startAct k ch r e eff boost (addKnow (addKnow r.know semKnow) swKnow)

/-- FIRE: core arg.a fires, on thread arg.b where it is free. -/
def State.fire (s : State) (core pref : Nat) : State :=
  if (s.core core).idle then s
  else match s.freeThread core pref, s.pickHead core with
    | some k, some (ch, r) => match s.handler r.ctx r.hidx with
      | some e => s.fireHead core k ch r e
      | none => s
    | _, _ => s

def execFire (s : State) : Host.Outcome State Fault Refusal :=
  event s fun s => s.fire s.arg.a s.arg.b

/-! ### Watchdog and parity (R38, R106) -/

/-- WATCHDOG: thread arg.a's budget is out, and its activation is killed. -/
def State.expire (s : State) (k : Nat) : State :=
  if (s.thread k).stat ≠ .free ∧ (s.thread k).wdEnd ≤ s.now then
    (s.updThread k fun t => { t with tcause := w64 cWATCHDOG }).killReport k cWATCHDOG 0 4
  else s

def execWatchdog (s : State) : Host.Outcome State Fault Refusal :=
  event s fun s => s.expire s.arg.a

/-- The special-function request of thread k is removed and reissued at its queue's tail (R162). -/
def State.sfuReplay (s : State) (k : Nat) : State :=
  let pad := padOf (k / 8)
  let q := tget [] s.sfu pad
  { s with sfu := tset [] s.sfu pad ((q.filter (·.thread != k)) ++ q.filter (·.thread == k)) }

/-- PARITY_ERROR at thread arg.a. An error that recurs on the replay of its instruction is a device error of its
core's partition. A first error costs nothing architectural (R106) but the place in the special-function queue of
a waiting request: that is the step with arg.b = 0 for a thread that waits there. -/
def State.parity (s : State) (k again : Nat) : State :=
  match (s.thread k).stat with
  | .running => s.faultFn (s.ctxFn (s.thread k).ctx) 1 (coreDie (k / 8))
  | .sfu => if again = 0 then s.sfuReplay k else s.faultFn (s.ctxFn (s.thread k).ctx) 1 (coreDie (k / 8))
  | _ => s

def execParityError (s : State) : Host.Outcome State Fault Refusal :=
  event s fun s => s.parity s.arg.a s.arg.b

/-! ### Continuous eligibility (R32) -/

/-- Whether a channel's head is eligible at its core or at a core of its pool. -/
def State.headReady (s : State) (ch : Nat) : Bool :=
  match s.headOf ch with
  | none => false
  | some r =>
    s.ready (ch / 16) r ||
      ((s.chan ch).mode == 1 && (List.range 8).any fun j =>
        s.ready (coreOf (coreDie (ch / 16)) (8 * (coreTile (ch / 16) / 8) + j) (coreRole (ch / 16))) r)

/-- A channel with its head looked at: the cycle from which it has been eligible without a break (R32), and its join
cell's waiter priority, read as it becomes the head (R317). -/
def State.watch (s : State) (ch : Nat) (c : Chan) : Chan :=
  match s.headOf ch with
  | none => { c with head := none, since := none, readAt := 0, boost := 0 }
  | some r =>
    let same := c.head == some r
    let since := if s.headReady ch then some (if same then c.since.getD s.now else s.now) else none
    if same then { c with since := since } else { c with head := some r, since := since, readAt := s.now, boost := s.cellPrio r }

/-- A channel whose head's join cell is due to be read again, every 4,096 cycles from its first reading (R317). -/
def State.reread (s : State) (ch : Nat) (c : Chan) : Chan :=
  match s.headOf ch with
  | none => c
  | some r =>
    if c.head = some r ∧ c.readAt + 4096 ≤ s.now then
      { c with readAt := s.now - (s.now - c.readAt) % 4096, boost := s.cellPrio r }
    else c

/-- Every channel's head is looked at. -/
def State.markSince (s : State) : State := { s with chans := tmap {} s.watch s.chans }

/-- Every core in idle is looked at (R120). -/
def State.wakeAll (s : State) : State := (s.cores.filter fun e => e.2.idle).foldl (fun s e => s.wake e.1) s

end Sys2Proof.Machine
end

