-- ==== Sys2Proof/Machine/Launches.lean ====
section
/-! DEFINITION. Launch units and the done tree's own steps (R39 to R42, R312 to R314). -/

namespace Sys2Proof.Machine

/-! ### Fields of a launch record (R39) and of a wait record (R314) -/

def lPATCH (r : Nat) : Bool := bitOn r 511
def lNINIT (r : Nat) : Nat := bits r 176 16
def lDLIMIT (r : Nat) : Nat := bits r 148 16
def lDONEQ (r : Nat) : Nat := bits r 128 20
def lPLACEH (r : Nat) : Nat := bits r 96 20
def lHTABH (r : Nat) : Nat := bits r 64 20
def lLID (r : Nat) : Nat := bits r 0 64

/-- The launch record and the wait record of a slot. -/
def LSlot.lrec (x : LSlot) : Nat := natOfBytes (x.bytes.take 64)
def LSlot.wait (x : LSlot) : Nat := natOfBytes (x.bytes.drop 64)

/-- A wait or signal: enabled, handle and offset. -/
structure Event where
  on : Bool
  h : Nat
  off : Nat
  value : Nat := 0

def waitsOf (w : Nat) : List Event :=
  (List.range 3).map fun i => { on := bitOn w (128 * i + 43), h := bits w (128 * i + 44) 20,
                                off := bits w (128 * i) 40, value := bits w (128 * i + 64) 64 }
def sigOf (w : Nat) : Event := { on := bitOn w 427, h := bits w 428 20, off := bits w 384 40 }

/-- Handle h of context c is open with the rights that the unit's access needs, as a core's CheckPtr has it (R16). -/
def State.opened (s : State) (c h need : Nat) : Bool := (s.hent c h).state == 2 && hasAll (s.hent c h).rights.toNat need

/-- Whether an enabled event names an event word: 8 aligned bytes of a CHECKED memory object through a
handle with A and S. -/
def State.eventOk (s : State) (c : Nat) (e : Event) : Bool :=
  let h := s.hent c e.h
  !e.on || (s.opened c e.h (rA + rS) && s.nodeKind h.node == kMemo && !s.nodeRelaxed h.node
    && e.off % 8 == 0 && decide (e.off + 8 ≤ s.entrySize c h))

def State.eventPlace (s : State) (c : Nat) (e : Event) : Option Nat :=
  match s.place c (s.hent c e.h).node e.off false false with
  | .ok p => some p.addr
  | .error _ => none

/-- An enabled wait holds when its event word is at least VALUE. -/
def State.waitHolds (s : State) (c : Nat) (e : Event) : Bool :=
  !e.on || (match s.eventPlace c e with
    | some a => decide (e.value ≤ s.peekN a 8)
    | none => false)

/-! ### Readiness (R314, R331, R354) -/

/-- The context whose launches queue k of function n carries (R312). -/
def State.lqCtx (s : State) (n k : Nat) : Nat := bits (s.lqueue n k).cfg.toNat 16 16
def State.depOnly (s : State) (n k : Nat) : Bool := bitOn (s.lqueue n k).cfg.toNat 3

/-- Launch units serve the function's queues: it is not FAULTED, stopped, resuming or in ERROR (R331). -/
def State.serves (s : State) (n : Nat) : Bool := !s.faulted n && decide ((s.fn n).migr.st ≤ 1)

/-- A patch of the queue whose DONEQ has not been written. -/
def State.openPatches (s : State) (n k : Nat) : List Nat :=
  (s.launches.filter fun e => e.2.fn == n && e.2.queue == k && e.2.patch.isSome && !e.2.written).map (·.1)

/-- First slot of the queue that a patch blocks: one whose DONEQ has not been written, taken or not (R354). -/
def State.blockedFrom (s : State) (n k : Nat) : Nat :=
  let q := s.lqueue n k
  let open_ := s.openPatches n k
  if open_.any fun i => !q.slots.any fun x => x.launch == some i then 0
  else match q.slots.findIdx? fun x => (!x.started && lPATCH x.lrec) || open_.any fun i => x.launch == some i with
    | some j => j + 1
    | none => q.slots.length

/-- Whether slot x of a dependence-only queue is ready: a record to refuse is ready at once. -/
def State.slotReady (s : State) (c : Nat) (x : LSlot) : Bool :=
  !x.started && ((waitsOf x.wait).any (fun e => !s.eventOk c e) || (waitsOf x.wait).all (s.waitHolds c))

/-- The queue's ready record nearest the front. -/
def State.readySlot (s : State) (n k : Nat) : Option Nat :=
  let q := s.lqueue n k
  if !s.serves n then none
  else if s.depOnly n k then ((q.slots.take (min 16 (s.blockedFrom n k))).findIdx? (s.slotReady (s.lqCtx n k)))
  else if q.busy.isSome ∨ q.slots = [] then none else some 0

/-- Queues homed on a die with a ready record, with their numbers 64 n + k. -/
def State.readyQueues (s : State) (d : Nat) : List (Nat × Nat) :=
  s.fns.flatMap fun e => (e.2.lqs.filter fun q => s.homeDie e.1 q.1 == d && (s.readySlot e.1 q.1).isSome).map
    fun q => (64 * e.1 + q.1, bits q.2.cfg.toNat 0 3)

/-- Highest PRIO, ties round-robin starting after the last queue served (R313); `lastQueue` lists one more than its
number. -/
def State.nextQueue (s : State) (d : Nat) : Option Nat :=
  let turn (i : Nat) : Nat := (i + 8192 - tget 0 s.lastQueue d) % 8192
  ((s.readyQueues d).foldl (fun best x => match best with
    | none => some x
    | some b => if b.2 < x.2 ∨ (b.2 = x.2 ∧ turn x.1 < turn b.1) then some x else some b) none).map (·.1)

/-- Whether some record of the context is ready (R327). -/
def State.launchReady (s : State) (c : Nat) : Bool :=
  let n := (s.ctx c).fn
  (s.fn n).lqs.any fun q => s.lqCtx n q.1 == c && (s.readySlot n q.1).isSome

/-! ### Serving one record (R39, R313, R314) -/

/-- Placement entry: ARG, HIDX, CHAN, CORE. -/
structure Entry where
  arg : Nat
  hidx : Nat
  chan : Nat
  core : Nat

def entryOf (x : Nat) : Entry := { arg := bits x 64 64, hidx := bits x 16 16, chan := bits x 12 4, core := bits x 0 12 }

/-- The physical core of an entry in a launch of context c (R39, R43). -/
def State.entryCore (s : State) (c : Nat) (e : Entry) : Option Nat :=
  if e.core / 1024 = 3 ∧ s.ctxPriv c = 0 then none else s.mapCore c e.core

/-- The entries and their cores; none where one is refused. -/
def State.entryCores (s : State) (c : Nat) : List Entry → Option (List (Entry × Nat))
  | [] => some []
  | e :: r => match s.entryCore c e, s.entryCores c r with
    | some p, some l => some ((e, p) :: l)
    | _, _ => none

/-- What a launch record names that R39 lets it name, its table read by party `p`, through a handle with R (R16). -/
def State.readPlacing (s : State) (c r p : Nat) : Option (List (Entry × Nat) × State) :=
  let h := s.hent c (lPLACEH r)
  let t := s.hent c (lHTABH r)
  let n := 16 * lNINIT r
  if lNINIT r = 0 ∨ !s.opened c (lPLACEH r) rR ∨ s.nodeKind h.node ≠ kMemo ∨ s.entrySize c h < n ∨ !t.used ∨ s.nodeKind t.node ≠ kMemo
      ∨ lHTABH r ≠ bits (s.ctx c).hbase.toNat 0 20 ∨ (s.ctx c).stopped then none
  else
    let ls := if s.nodeRelaxed h.node then [] else linesOf h.node 0 n
    match s.race p aRead ls, s.tableRead c (lPLACEH r) 0 n with
    | none, some bs =>
      let es := (List.range (lNINIT r)).map fun i => entryOf (natOfBytes ((bs.drop (16 * i)).take 16))
      (s.entryCores c es).map fun l => (l, s.touchAll p (whoWord 0 0 6 0) aRead ls)
    | _, _ => none

/-- Whether DONEQ names a queue with a ring, through a handle with W: an append's right (R16). -/
def State.doneqOk (s : State) (c h : Nat) : Bool := s.opened c h rW && (s.ringOf (s.hent c h).node).isSome

/-- A new launch's number, the generations of its handles noted. -/
def State.addLaunch (s : State) (l : Launch) : Nat × State :=
  let l := { l with doneqGen := (s.hent l.ctx l.doneq.toNat).gen
                    sigGen := l.sig.elim 0 fun x => (s.hent l.ctx x.1.toNat).gen
                    patchGen := l.patch.elim 0 fun h => (s.hent l.ctx h.toNat).gen }
  (s.nextLaunch, { s with nextLaunch := s.nextLaunch + 1 }.setLaunch s.nextLaunch l)

/-- A refused launch: a completion with FIRSTERR 0xFFFF, or LAUNCH_REFUSED where DONEQ is invalid. -/
def State.refuseLaunch (s : State) (n k : Nat) (x : LSlot) (sig : Option (BitVec 20 × Nat)) : State :=
  let c := s.lqCtx n k
  let s := s.setLQueue n k { s.lqueue n k with carry := [] }
  if s.doneqOk c (lDONEQ x.lrec) then
    let (i, s) := s.addLaunch { fn := n, queue := k, ctx := c, lid := w64 (lLID x.lrec),
                                doneq := BitVec.ofNat 20 (lDONEQ x.lrec), sig := sig }
    s.writeDone i (w64 0xFFFF0000)
  else
    let d := s.homeDie n k
    let q := ((s.quartosOf n).find? fun q => q / 4 == d).getD (4 * d)
    s.dispatchFault 6 c (svcOf q) 0 (natOfBytes (x.bytes.take 16)) (lDONEQ x.lrec) none d

/-- Code generations pinned at the dequeue (R103, R354). -/
def State.pinsNow (s : State) : List (Nat × Nat) :=
  (s.made.filter fun e => e.2.kind == kCode).map fun e => (e.1, e.2.codeGen)

/-- The continuation record of a placement entry (R39). -/
def entryRec (c i : Nat) (e : Entry) (core sent : Nat) (know : Know) : Rec :=
  { hidx := e.hidx, chan := e.chan, chanFixed := true, arg := w64 e.arg, ctx := c, core := core, lcore := e.core,
    key := 0x8000 + coreDie core, sendTs := sent, know := know, launch := some i }

/-- The first activation of a launch has been posted: its done deadline is set (R41). -/
def State.startDeadline (s : State) (i : Nat) : State :=
  let l := s.launch i
  if l.dlimit = 0 ∨ l.deadline.isSome then s else s.setLaunch i { l with deadline := some (s.now + 3000 * l.dlimit) }

/-- Posts the entries of the unit's own die, which join their channels at once (R27), and forwards the others, in table
order. -/
def State.postEntries (s : State) (c i d sent : Nat) (know : Know) (l : List (Entry × Nat)) : State :=
  l.foldl (fun s (e, core) =>
    let r := entryRec c i e core sent know
    if coreDie core = d then (s.arriveRec r).startDeadline i
    else { s with lforwards := s.lforwards ++ [{ rec_ := r, die := coreDie core }] }) s

/-- Each core once, with the first word that named it. -/
def participants (l : List (Entry × Nat)) : List (Nat × Nat) :=
  l.foldl (fun acc (e, core) => if acc.any fun c => c.1 == core then acc else acc ++ [(core, e.core)]) []

/-- A started launch: its entries posted and its done tree built. -/
def State.startLaunch (s : State) (n k : Nat) (x : LSlot) (sig : Option (BitVec 20 × Nat)) (know : Know)
    (l : List (Entry × Nat)) : Nat × State :=
  let c := s.lqCtx n k
  let cores := participants l
  let (i, s) := s.addLaunch
    { fn := n, queue := k, ctx := c, lid := w64 (lLID x.lrec), doneq := BitVec.ofNat 20 (lDONEQ x.lrec), cores := cores,
      root := (cores.headD (0, 0)).2, dlimit := lDLIMIT x.lrec, sig := sig, pins := s.pinsNow }
  (i, s.postEntries c i (s.homeDie n k) x.arrTs know l)

/-- What the waits that held receive: each read is an acquire with scope sys. -/
def State.acquireWaits (s : State) (c d p : Nat) (ws : List Event) : State :=
  ws.foldl (fun s e => if e.on then
      let n := (s.hent c e.h).node
      (s.touchAll p (whoWord 0 0 6 0) aAtomR (linesOf n e.off 8)).acquire p (dieLoc d) 4 (objAddr n e.off)
    else s) s

/-- Whether a wait's atomic read finds an unordered plain write of its line, and so reaches it second: the launch is
refused, as for a placement table's read (R51; DESIGN CHOICE, log 207). -/
def State.waitsRace (s : State) (c p : Nat) (ws : List Event) : Bool :=
  ws.any fun e => e.on && (s.race p aAtomR (linesOf (s.hent c e.h).node e.off 8)).isSome

/-- A patch record has NINIT, HTABH and DLIMIT zero (R39); its reserved bits are ignored (R7; DEDUCED, log 208). -/
def patchOk (r : Nat) : Bool := lNINIT r == 0 && lHTABH r == 0 && lDLIMIT r == 0

/-- The launch unit takes slot j: the launch started, if one was. -/
def State.takeRecord (s : State) (n k : Nat) (x : LSlot) : Option Nat × State :=
  let c := s.lqCtx n k
  let d := s.homeDie n k
  let dep := s.depOnly n k
  let s := s.updFn n fun f => { f with everLaunched := true }
  let evs := if dep then sigOf x.wait :: waitsOf x.wait else []
  let sig := if dep && (sigOf x.wait).on && s.eventOk c (sigOf x.wait)
    then some (BitVec.ofNat 20 (sigOf x.wait).h, (sigOf x.wait).off) else none
  if lPATCH x.lrec then
    if patchOk x.lrec && s.doneqOk c (lDONEQ x.lrec) && evs.all (s.eventOk c) then
      let (i, s) := s.addLaunch
        { fn := n, queue := k, ctx := c, lid := w64 (lLID x.lrec), doneq := BitVec.ofNat 20 (lDONEQ x.lrec), sig := sig,
          patch := some (BitVec.ofNat 20 (lPLACEH x.lrec)) }
      (some i, s)
    else (none, s.refuseLaunch n k x sig)
  else
    let (p, s) := s.newParty (if dep then x.know else addKnow x.know (s.lqueue n k).carry)
    let lost := dep && s.waitsRace c p (waitsOf x.wait)
    let s := if dep then s.acquireWaits c d p (waitsOf x.wait) else s
    let know := s.carry p
    if !s.doneqOk c (lDONEQ x.lrec) || !evs.all (s.eventOk c) || lost then (none, (s.endParty p).refuseLaunch n k x sig)
    else match s.readPlacing c x.lrec p with
      | none => (none, (s.endParty p).refuseLaunch n k x sig)
      | some (l, s) =>
        let (i, s) := (s.endParty p).startLaunch n k x sig know l
        (some i, s)

/-- Frees the started slots at the front (R314). -/
def State.freeSlots (s : State) (n k : Nat) : State :=
  let q := s.lqueue n k
  s.setLQueue n k { q with slots := q.slots.dropWhile (·.started) }

/-- LAUNCH_SERVE at die d. -/
def State.launchServe (s : State) (d : Nat) : State :=
  match s.nextQueue d with
  | none => s
  | some i =>
    let n := i / 64
    let k := i % 64
    let s := { s with lastQueue := tset 0 s.lastQueue d (i + 1) }
    match s.readySlot n k with
    | none => s
    | some j => match (s.lqueue n k).slots[j]? with
      | none => s
      | some x =>
        let (l, s) := s.takeRecord n k x
        let q := s.lqueue n k
        let s := s.setLQueue n k { q with slots := q.slots.set j { x with started := true, launch := l }, busy := l }
        s.freeSlots n k

def execLaunchServe (s : State) : Host.Outcome State Fault Refusal :=
  event s fun s => s.launchServe s.arg.a

/-- LAUNCH_FORWARD: entry arg.a of those on their way reaches its die's unit, in table order. -/
def State.launchForward (s : State) (i : Nat) : State :=
  match s.lforwards[i]? with
  | none => s
  | some f =>
    if (s.lforwards.take i).any fun x => x.die == f.die && x.rec_.launch == f.rec_.launch then s
    else
      let s := { s with lforwards := s.lforwards.eraseIdx i }
      let s := s.arriveRec f.rec_
      match f.rec_.launch with
      | some l => s.startDeadline l
      | none => s

def execLaunchForward (s : State) : Host.Outcome State Fault Refusal :=
  event s fun s => s.launchForward s.arg.a

/-! ### The done tree's steps (R41, R42) -/

/-- DONE_WORD: word arg.a of those on their way arrives, behind what was sent the same way before it (R274). -/
def State.doneWord (s : State) (i : Nat) : State :=
  match s.doneMsgs[i]? with
  | none => s
  | some m =>
    if m.dup || s.wayBusy (s.doneWay m) m.flit then s
    else { s with doneMsgs := s.doneMsgs.eraseIdx i }.doneAt m.launch m.dst m.src m.word m.know

def execDoneWord (s : State) : Host.Outcome State Fault Refusal :=
  event s fun s => s.doneWord s.arg.a

/-- DONEQ_RETRY: the root of launch arg.a appends its 16 bytes again, or a signal that waits is raised. -/
def execDoneqRetry (s : State) : Host.Outcome State Fault Refusal :=
  event s fun s => if (s.launch s.arg.a).written then s.signal s.arg.a else s.tryDoneq s.arg.a

/-- DONE_DEADLINE: the root of launch arg.a writes what it holds, with INCOMPLETE set. -/
def State.doneDeadline (s : State) (i : Nat) : State :=
  let l := s.launch i
  match l.deadline with
  | none => s
  | some t =>
    if s.now < t ∨ l.closed then s
    else s.writeDone i ((tget ((0 : Word), 0) l.words l.root).1 ||| w64 (2 ^ 44))

def execDoneDeadline (s : State) : Host.Outcome State Fault Refusal :=
  event s fun s => s.doneDeadline s.arg.a

/-- DUPDONE_WORD: flag-only word arg.a reaches the root, which ORs it in until DONEQ is written, and then discards
it (R42). -/
def State.dupdoneWord (s : State) (i : Nat) : State :=
  match s.doneMsgs[i]? with
  | none => s
  | some m =>
    if !m.dup || s.wayBusy (s.doneWay m) m.flit then s else
    let s := { s with doneMsgs := s.doneMsgs.eraseIdx i }
    let l := s.launch m.launch
    if l.written then s
    else match l.pending with
    | some b =>
      let word := natOfBytes (b.drop 8) ||| m.word.toNat
      s.setLaunch m.launch { l with pending := some (b.take 8 ++ bytesOfNat 8 word) }
    | none =>
      let (acc, n) := tget ((0 : Word), 0) l.words l.root
      s.setLaunch m.launch { l with words := tset (0, 0) l.words l.root (acc ||| m.word, n) }

def execDupdoneWord (s : State) : Host.Outcome State Fault Refusal :=
  event s fun s => s.dupdoneWord s.arg.a

/-! ### Posted accesses reach their homes (R55, R139, R172, R177, R241) -/

/-- Posted store `i` is performed, unless an earlier one through the same handle waits. -/
def State.performAt (s : State) (i : Nat) (p : Posted → Bool) : State :=
  match s.posted[i]? with
  | none => s
  | some q =>
    if !p q ∨ s.waitsFor q then s
    else { s with posted := s.posted.eraseIdx i }.performPosted q

/-- REMOTE_ACCESS: posted store arg.a to a memory object, or where arg.b is not 0 posted MLADD arg.a, is
performed at its home. -/
def execRemoteAccess (s : State) : Host.Outcome State Fault Refusal :=
  event s fun s =>
    if s.arg.b = 0 then s.performAt s.arg.a fun q => s.nodeKind q.node != kQueue && !isCopy q.node
    else s.performAddAt s.arg.a

/-- QUEUE_APPEND: store arg.a to a queue node appends, or is discarded with its dispatch fault. -/
def execQueueAppend (s : State) : Host.Outcome State Fault Refusal :=
  event s fun s => s.performAt s.arg.a fun q => s.nodeKind q.node == kQueue

/-- JOIN_PERFORM: posted JOIN arg.a is performed at the cell's home. -/
def State.joinPerform (s : State) (i : Nat) : State :=
  match s.joins[i]? with
  | none => s
  | some j => if s.waitsFor j.write then s else { s with joins := s.joins.eraseIdx i }.joinAt j

def execJoinPerform (s : State) : Host.Outcome State Fault Refusal :=
  event s fun s => s.joinPerform s.arg.a

/-- REMOTE_SEMV: posted SEMV arg.a is performed at the other tile's bank, unless an earlier one of the activation through
the same handle waits (R55). -/
def State.remoteSemv (s : State) (i : Nat) : State :=
  match s.semvs[i]? with
  | none => s
  | some r =>
    if (s.semvs.take i).any fun x => x.party == r.party && x.ctx == r.ctx && x.handle == r.handle then s
    else { s with semvs := s.semvs.eraseIdx i }.performSemv r

def execRemoteSemv (s : State) : Host.Outcome State Fault Refusal :=
  event s fun s => s.remoteSemv s.arg.a

end Sys2Proof.Machine
end

