-- ==== Sys2Proof/Machine/CtlRead.lean ====
section
/-! DEFINITION. What a read of a control object returns (R28, R277, R293, R324 to R326, R330, R336, R337). -/

namespace Sys2Proof.Machine

/-- Bytes [off, off + n) of a number of `size` bytes that lies at offset `base`; zeros elsewhere. -/
def window (x base size a : Nat) : Byte :=
  if base ≤ a ∧ a < base + size then BitVec.ofNat 8 (bits x (8 * (a - base)) 8) else 0

/-! ### /vf/n/ctl (R321 to R325, R345) -/

def Fn.recNum (f : Fn) : Nat :=
  let r := f.recd
  f.misscnt % 256 * 2 ^ 248 + r.world.toNat * 2 ^ 287 + r.fuse % 4 * 2 ^ 288 + r.nctx % 32 * 2 ^ 290 + r.htlog % 32 * 2 ^ 295
    + r.zone % 32 * 2 ^ 300 + r.window % 128 * 2 ^ 305 + r.maxmoves % 16 * 2 ^ 312 + r.copych.toNat * 2 ^ 316
    + r.sheetq % 256 * 2 ^ 324 + r.nameq % 128 * 2 ^ 332 + r.slotq % 8192 * 2 ^ 339 + r.deadline % 65536 * 2 ^ 352
    + r.slice % 65536 * 2 ^ 368 + r.quartos.toNat * 2 ^ 384

/-- The context in slot k of function n. -/
def State.slotCtx (s : State) (n k : Nat) : Option Nat :=
  (s.ctxs.find? fun e => e.2.live && e.2.fn == n && e.2.slot == k).map (·.1)

def State.ctxRecNum (s : State) (n k : Nat) : Nat :=
  match s.slotCtx n k with
  | none => 0
  | some c =>
    let x := s.ctx c
    1 + x.priv % 4 * 2 ^ 16 + c % 65536 * 2 ^ 64 + x.govern % 65536 * 2 ^ 80 + x.htent % 65536 * 2 ^ 96 + x.halves.toNat * 2 ^ 256

def State.vfctlByte (s : State) (n a : Nat) : Byte :=
  let f := s.fn n
  if a < 0x40 then window f.recNum 0 64 a
  else if a < 0x48 then window f.l2store 0x40 8 a
  else if 0x200 ≤ a ∧ a < 0xA00 then window (s.lqueue n ((a - 0x200) / 32)).cfg.toNat (a / 32 * 32) 32 a
  else if 0xC00 ≤ a ∧ a < 0x1000 then window (s.ctxRecNum n ((a - 0xC00) / 64)) (a / 64 * 64) 64 a
  else if 0x1000 ≤ a ∧ a < 0x5000 then window (tget 0 f.cxlmap ((a - 0x1000) / 16)).toNat (a / 16 * 16) 16 a
  else 0

/-! ### /vf/n/ctx/k (R326) -/

/-- Who reaches a slot object: the host of n, its hypervisor context, and the supervisor that governs. -/
def State.reachesSlot (s : State) (w n slotctx : Nat) : Bool :=
  s.ctxFn w == n && (s.ctxPriv w == 2 || (s.ctxPriv w == 1 && (s.ctx slotctx).govern == w))

def State.slotByte (s : State) (c a : Nat) : Byte :=
  let x := s.ctx c
  let rd (h off : Nat) : Byte := match s.tableRead c (bits h 0 20) off 1 with
    | some (b :: _) => b
    | _ => 0
  if 0x10000 ≤ a ∧ a < 0x12000 then rd x.coretab.toNat (a - 0x10000)
  else if 0x12000 ≤ a ∧ a < 0x12020 then rd x.routetab.toNat (a - 0x12000)
  else if 0x20000 ≤ a ∧ a < 0x20000 + 64 * x.htsize.toNat then rd x.hbase.toNat (a - 0x20000)
  else 0

/-- The translation fault that a read of a slot object's tables meets first, at its offset in the slot object (R268). -/
def State.slotFault (s : State) (n : Node) (off len : Nat) : Option XErr :=
  match n with
  | .ctxslot m k => (s.slotCtx m k).bind fun c =>
    let x := s.ctx c
    let at_ (h base a : Nat) : Option XErr :=
      let e := s.hent c (bits h 0 20)
      if e.used && decide (a - base < e.size) then match s.place c e.node (a - base) false false with
        | .error y => some { y with off := a }
        | .ok _ => none
      else none
    (List.range len).findSome? fun i =>
      let a := off + i
      if 0x10000 ≤ a ∧ a < 0x12000 then at_ x.coretab.toNat 0x10000 a
      else if 0x12000 ≤ a ∧ a < 0x12020 then at_ x.routetab.toNat 0x12000 a
      else if 0x20000 ≤ a ∧ a < 0x20000 + 64 * x.htsize.toNat then at_ x.hbase.toNat 0x20000 a
      else none
  | _ => none

/-! ### Channels, delay tables, trace units, groups, migration -/

/-- A channel's word (R28), for the queue of the context that holds its core. -/
def State.chanNum (s : State) (ch : Nat) : Nat :=
  let x := s.chan ch
  let core := ch / 16
  let c := (s.runCtx core).getD 0
  let held := countMine core c x.onchip
  let back := countMine core c x.spilled
  x.mode.toNat + (decide (64 ≤ held) && decide (x.backDepth.toNat ≤ back)).toNat * 2 ^ 8 + held * 2 ^ 9
    + x.backH.toNat * 2 ^ 44 + x.backDepth.toNat * 2 ^ 64 + back * 2 ^ 96

def Delay.num (d : Delay) : Nat :=
  d.key % 65536 + d.valid.toNat * 2 ^ 16 + d.count % 2 ^ 32 * 2 ^ 256 + d.maxTotal % 2 ^ 32 * 2 ^ 288
    + d.trans % 2 ^ 64 * 2 ^ 320 + d.wait % 2 ^ 64 * 2 ^ 384 + d.run % 2 ^ 64 * 2 ^ 448

def DelayTab.byte (d : DelayTab) (a : Nat) : Byte :=
  if a < 2048 then window (d.ents.getD (a / 64) {}).num (a / 64 * 64) 64 a
  else if a < 2112 then window ({ d.over_ with key := 0xFFFF, valid := true } : Delay).num 2048 64 a
  else window (d.extradone * 2 ^ 32) 2112 8 a

def Trace.word (u : Trace) (i : Nat) : Nat :=
  match i with
  | 0 => u.ctl.toNat
  | 1 => u.buf.toNat
  | 2 => u.wrptr
  | 3 => u.rdptr
  | 4 => u.lost
  | 5 => u.stopped.toNat + u.stopCtx % 65536 * 2 ^ 48
  | 6 => u.trig.toNat
  | 7 => u.capbuf.toNat
  | 8 => u.capptr
  | 0x1FF => u.nonce.toNat
  | _ => 0

/-- A group's 592 bytes, with LIVE. -/
def State.groupByte (s : State) (g a : Nat) : Byte :=
  let x := s.group g
  window (x.num + if x.windows = [] then 0 else 1) 0 592 a

/-- The migration object's words (R330, R332). -/
def State.migrateByte (s : State) (n a : Nat) : Byte :=
  let m := (s.fn n).migr
  if a < 8 then window (m.st + m.err * 2 ^ 48) 0 8 a else if a < 16 then window m.wpos 8 8 a else 0

/-- Bytes that a read of a control object by context c returns, or its status. -/
def State.ctlRead (s : State) (c : Nat) (n : Node) (off len : Nat) : Except Nat (List Byte) :=
  let give (f : Nat → Byte) : Except Nat (List Byte) := .ok ((List.range len).map fun i => f (off + i))
  match n with
  | .vfctl m => give (s.vfctlByte m)
  | .vfmigrate m => give (s.migrateByte m)
  | .ctxslot m k => match s.slotCtx m k with
    | none => .error 1
    | some x => if s.reachesSlot c m x then give (s.slotByte x) else .error 3
  | .chan d t k i => give fun a => window (s.chanNum (16 * coreOf d t k + i)) 0 32 a
  | .delay d t k => give (s.delayTab (coreOf d t k) c).byte
  | .trace d => give fun a => window ((s.traceU d).word (a / 8)) (a / 8 * 8) 8 a
  | .group g => give (s.groupByte g)
  | _ => .error 3

end Sys2Proof.Machine
end

