-- ==== Sys2Proof/Machine/Walk.lean ====
section
/-! DEFINITION. Paths, and the resolution of one component under a context's bindings (R245, R250, R251). -/

namespace Sys2Proof.Machine

/-! ### Status codes (R248) -/

def nsOK : Nat := 0
def nsNOT_BOUND : Nat := 1
def nsNOT_DIR : Nat := 2
def nsNO_RIGHTS : Nat := 3
def nsREVOKED : Nat := 4
def nsBUSY : Nat := 5
def nsLOOP : Nat := 6
def nsPEER_DOWN : Nat := 7
def nsWORLD : Nat := 8
def nsEXISTS : Nat := 9
def nsFULL : Nat := 10
def nsNOT_EMPTY : Nat := 11
def nsGROUP_BUSY : Nat := 12
def nsGROUP_INVALID : Nat := 13
def nsBADREQ : Nat := 16
def nsBOUNDS : Nat := 17
def nsRACE : Nat := 32

/-! ### Paths and names (R250) -/

def splitSlash : List Byte → List (List Byte)
  | [] => [[]]
  | b :: r => match splitSlash r with
    | [] => [[b]]
    | c :: cs => if b = 0x2F then [] :: c :: cs else (b :: c) :: cs

def isCont (b : Byte) : Bool := decide (128 ≤ b.toNat) && decide (b.toNat < 192)

/-- Valid UTF-8: no overlong form, no surrogate, nothing above U+10FFFF. -/
def utf8Ok : List Byte → Bool
  | [] => true
  | b :: r =>
    let x := b.toNat
    if x < 0x80 then utf8Ok r
    else match r with
      | [] => false
      | c :: r =>
        if !isCont c then false
        else if 0xC2 ≤ x ∧ x < 0xE0 then utf8Ok r
        else match r with
          | [] => false
          | d :: r =>
            if !isCont d then false
            else if 0xE0 ≤ x ∧ x < 0xF0 then
              if (x = 0xE0 ∧ c.toNat < 0xA0) ∨ (x = 0xED ∧ 0xA0 ≤ c.toNat) then false else utf8Ok r
            else match r with
              | [] => false
              | e :: r =>
                if !isCont e ∨ x < 0xF0 ∨ 0xF4 < x ∨ (x = 0xF0 ∧ c.toNat < 0x90) ∨ (x = 0xF4 ∧ 0x90 ≤ c.toNat) then false
                else utf8Ok r

/-- A path of at most `most` components. -/
def pathOk (most : Nat) (bs : List Byte) : Bool :=
  let cs := splitSlash bs
  utf8Ok bs && decide (cs.length ≤ most) && cs.all fun c => decide (1 ≤ c.length) && decide (c.length ≤ 32) && !c.contains 0

/-- Bytes up to the first NUL of a padded field, if only NULs follow. -/
def unpad (bs : List Byte) : Option (List Byte) :=
  let n := bs.takeWhile (· != 0)
  if (bs.drop n.length).all (· == 0) then some n else none

/-! ### One component (R245, R251) -/

/-- A non-secure context may not reach a secure node (R109). -/
def State.otherWorld (s : State) (c : Nat) (n : Node) : Bool :=
  let (k, x) := nodeBlock (s.nodeHome n) n
  s.world k x && !s.ctxWorld c

/-- Where a walk has come: a node with its grant, and the mount points crossed. -/
structure Spot where
  node : Node
  grant : Nat
  cross : Nat
  via : Option (Node × List Byte) := none
  deriving DecidableEq, Repr

/-- A mount point shadowed by a node that is no directory is crossed as the walk reaches it. -/
def State.enter (s : State) (c : Nat) : Nat → Spot → Spot
  | 0, p => p
  | f + 1, p => match (afterShadow ((s.bindsOf c).filter fun b => b.point = p.node)).1 with
    | some b => if s.nodeKind b.src = kDir then p
                else s.enter c f { p with node := b.src, grant := s.bindGrant c b, cross := p.cross + 1 }
    | none => p

/-- The first member of a view that holds the name; a member without X may not be searched. -/
def State.searchView (s : State) (c : Nat) (name : List Byte) : List (Node × Nat) → Except Nat (Node × Node)
  | [] => .error nsNOT_BOUND
  | (m, g) :: r =>
    if s.nodeKind m ≠ kDir then .error nsNOT_DIR
    else if !hasAll g rX then .error nsNO_RIGHTS
    else match s.child c m name with
      | some x => .ok (m, x)
      | none => s.searchView c name r

/-- The grant with which a walk enters an entry of a directory: a user context holds W on a group only where
the node itself is bound (R295). -/
def State.entryGrant (s : State) (c : Nat) : Node → Nat
  | .group g => if s.ctxPriv c = 0 then s.nodeGrant c (.group g) &&& rR else s.nodeGrant c (.group g)
  | x => s.nodeGrant c x

/-- Looks one component up in the directory at `p`. -/
def State.lookComp (s : State) (c : Nat) (p : Spot) (name : List Byte) : Except Nat Spot :=
  if s.nodeKind p.node ≠ kDir then .error nsNOT_DIR
  else match s.view c 65 p.node p.grant with
    | none => .error nsLOOP
    | some (k, ms) =>
      if 64 < p.cross + k then .error nsLOOP
      else match s.searchView c name ms with
        | .error e => .error e
        | .ok (dir, x) =>
          if s.otherWorld c x then .error nsWORLD
          else
            let q := s.enter c 65 { node := x, grant := s.entryGrant c x, cross := p.cross + k, via := some (dir, name) }
            if 64 < q.cross then .error nsLOOP else .ok q

/-- The directory in which a walk through the point goes on. -/
def State.behind (s : State) (c : Nat) : Nat → Node × Nat → Node × Nat
  | 0, p => p
  | f + 1, p => match (afterShadow ((s.bindsOf c).filter fun b => b.point = p.1)).1 with
    | some b => s.behind c f (b.src, s.bindGrant c b)
    | none => p

/-- Home of the directory that holds a component: of the member of the view that wins, or where none does of the
directory whose entries hold rank 128, the one walked or the one that shadows it (R245, R272). -/
def State.compHome (s : State) (c : Nat) (n : Node) (g : Nat) (name : List Byte) : Nat :=
  match s.view c 65 n g with
  | none => s.nodeHome n
  | some (_, ms) => match s.searchView c name ms with
    | .ok (dir, _) => s.nodeHome dir
    | .error _ => s.nodeHome (s.behind c 65 (n, g)).1

/-- Walks every component at once, as the loader and a slot object's writes do: the spot, or the status and
the component's index. -/
def State.walkAll (s : State) (c i : Nat) (p : Spot) : List (List Byte) → Except (Nat × Nat) Spot
  | [] => .ok p
  | n :: r =>
    if s.nodeKind p.node = kPeer then .error (nsPEER_DOWN, i - 1)
    else match s.lookComp c p n with
      | .error e => .error (e, i)
      | .ok q => s.walkAll c (i + 1) q r

/-- The first member, in search order, whose grant holds W, with that grant (R245). -/
def State.createDir (s : State) (c : Nat) (n : Node) (g : Nat) : Except Nat (Node × Nat) :=
  match s.view c 65 n g with
  | none => .error nsLOOP
  | some (_, ms) =>
    if ms.any fun m => s.nodeKind m.1 ≠ kDir then .error nsNOT_DIR
    else match ms.find? fun m => hasAll m.2 rW with
      | some m => .ok m
      | none => .error nsNO_RIGHTS

/-- Whether a name stands in the merged view. -/
def State.present (s : State) (c : Nat) (n : Node) (g : Nat) (name : List Byte) : Bool :=
  match s.view c 65 n g with
  | none => false
  | some (_, ms) => ms.any fun m => (s.child c m.1 name).isSome

/-- A new binding (R245, R255). -/
def State.bindAt (s : State) (c : Nat) (point : Node) (b : Bind) : Except Nat State :=
  if s.nodeKind point ≠ kDir ∨ (!b.shadow ∧ s.nodeKind b.src ≠ kDir) then .error nsNOT_DIR
  else if 8 ≤ (s.bindsOf c).countP fun x => x.point = point then .error nsFULL
  else .ok (s.setBinds c (s.bindsOf c ++ [b]))

/-! ### Entries -/

/-- A handle entry for a node (R243, R251, R257). -/
def State.newEntry (s : State) (c state : Nat) (n : Node) (rights grant : Nat) (via : Option (Node × List Byte)) : HEntry :=
  { state := state, node := n, rights := BitVec.ofNat 8 rights, grant := BitVec.ofNat 8 grant, size := s.nodeSize c n, via := via }

/-- An entry as NSTAT returns it (R243). -/
def State.entryWord (s : State) (e : HEntry) : Quad :=
  BitVec.ofNat 128 (e.size % 2 ^ 44 + e.rights.toNat * 2 ^ 44 + e.gen % 4096 * 2 ^ 52 + e.state % 4 * 2 ^ 73
    + s.nodeKind e.node % 8 * 2 ^ 75 + s.nodeTier e.node % 8 * 2 ^ 78 + (s.nodeRelaxed e.node).toNat * 2 ^ 81
    + s.nodeHome e.node % 32 * 2 ^ 83 + nodeId e.node % 2 ^ 40 * 2 ^ 88)

end Sys2Proof.Machine
end

