-- ==== Sys2Proof/Machine/Names.lean ====
section
/-! DEFINITION. Issuing the transactions of class 0xC (R246, R247, R250, R254, R257). -/

namespace Sys2Proof.Machine

/-! ### The request word (R246) -/

def rwHIDX (w : Nat) : Nat := bits w 48 16
def rwRTAG (w : Nat) : Nat := bits w 32 16
def rwCEN (w : Nat) : Bool := bitOn w 31
def rwCELL (w : Nat) : Nat := 16 * bits w 10 17
def rwARG (w : Nat) : Nat := bits w 0 10

/-- Class 0xC indices (R97). -/
def opWALK : Nat := 0
def opOPEN : Nat := 1
def opCLOSE : Nat := 2
def opREAD : Nat := 3
def opWRITE : Nat := 4
def opBIND : Nat := 5
def opUNBIND : Nat := 6
def opSTAT : Nat := 7
def opREVOKE : Nat := 8
def opCREATE : Nat := 9
def opREMOVE : Nat := 10

/-- Whether the instruction's row of R250 names a cell. -/
def needsCell (op : Nat) : Bool := op == opWALK || op == opOPEN || op == opCREATE

/-- ARG in the range of the instruction's row (R250). -/
def argOk (op arg : Nat) : Bool :=
  match op with
  | 0 => decide (1 ≤ arg) && decide (arg ≤ 527)
  | 1 => decide (arg < 256)
  | 3 | 4 => decide (1 ≤ arg)
  | 5 => match arg / 256 with
    | 1 => arg % 256 != 128
    | 2 => arg % 256 == 0
    | _ => false
  | 9 => decide (1 ≤ arg) && decide (arg ≤ 32)
  | _ => arg == 0

/-- The request word's own checks: stage 5 of R113, FIELD 1. -/
def State.requestOk (s : State) (op w : Nat) : Bool :=
  bits w 27 4 == 0 && rwCEN w == needsCell op && argOk op (rwARG w)
    && (!rwCEN w || decide (rwCELL w + 16 + (if op = opCREATE then rwARG w else 0) ≤ s.myPadSize))

/-- NCREATE's spec (R257). -/
def specKind (x : Nat) : Nat := bits x 0 3
def specSize (x : Nat) : Nat := bits x 16 32
def specRights (x : Nat) : Nat := bits x 8 8
def specOk (x : Nat) : Bool :=
  bits x 48 16 == 0 && !bitOn x 7 && bits x 3 3 == 0 && (match specKind x with
    | 0 => specSize x == 0 && !bitOn x 6
    | 1 => decide (1 ≤ specSize x) && decide (specSize x ≤ 16760832)
    | _ => false)

/-- The function's NAMEQ bounds what a context has in the walk queue of one name unit (R248, R321). -/
def State.nameBusy (s : State) (c die : Nat) : Bool :=
  decide ((s.fn (s.ctxFn c)).recd.nameq ≤ s.txns.countP fun e => e.2.ctx == c && e.2.issuer != 0 && e.2.host.isNone
    && padDie (padOf e.2.core) == die && e.2.res.isNone)

/-- A transaction sets out: its party acquires, and a context over its quota has BUSY at once. -/
def State.sendTxn (s : State) (t : Txn) : State :=
  let s := s.flushMine
  let issuer := s.me
  let (p, s) := s.newParty (s.carry issuer)
  let busy := s.nameBusy t.ctx t.die
  let t := { t with party := p, issuer := issuer, res := if busy then some { status := nsBUSY } else none }
  { s with nextTxn := s.nextTxn + 1 }.setTxn s.nextTxn t

/-- The transaction that the issuing activation's request word forms. -/
def State.formTxn (s : State) (op w : Nat) : Txn :=
  let (prio, boosted) := s.sendPrio (rwHIDX w) false
  let len := if op = opSTAT then 8 else 4
  { op := op, ctx := s.t.ctx, core := s.core_, hidx := rwHIDX w, rtag := rwRTAG w,
    cell := if rwCEN w then some (rwCELL w) else none, arg := rwARG w, launch := s.t.launch,
    hdr := mkHdr prio boosted false len (rwHIDX w) s.t.lcore s.t.lcore s.ts, die := coreDie s.core_ }

/-- A handle operand: TAG and REVOKED only (R246). -/
def State.handleArg (s : State) (b : BReg) : Except Trp (Nat × Nat) :=
  (s.checkHandle s.t.ctx (s.ptr b) b.toNat).map fun _ => ((s.ptr b).hidx, (s.ptr b).gen)

def State.handleOpt (s : State) : Option BReg → Except Trp (Option (Nat × Nat))
  | none => .ok none
  | some r => (s.handleArg r).map some

/-- Plain reads of `n` bytes through a buffer pointer, at issue. -/
def State.readBuf (s : State) (b : BReg) (n : Nat) : Except Trp (List Byte × State) :=
  let p := s.ptr b
  if p.pay && p.tag then (s.payload p 0 n rR).map fun x => (x, s)
  else match s.reach p b.toNat 0 n rR .load 1 with
    | .error t => .error t
    | .ok h => s.readHit p h n 0 0

/-- A class 0xC instruction: the request word, then the operands, then the transaction. -/
def runTxn (h : Head) (s : State) (op : Nat) (d : GReg) (f : State → Txn → Except Trp (Txn × State)) :
    Host.Outcome State Fault Refusal :=
  run h s fun s =>
    let w := (s.t.rdG d).toNat
    if !s.requestOk op w then s.trapOperand 1 1
    else s.try_ (f s (s.formTxn op w)) fun (t, s) => (s.sendTxn t).next

/-- One handle operand. -/
def State.oneHandle (s : State) (t : Txn) (a : BReg) : Except Trp (Txn × State) :=
  (s.handleArg a).map fun x => ({ t with ha := x }, s)

/-- NWALK: the path's bytes, then the start handle. -/
def State.walkArgs (s : State) (t : Txn) (a : BReg) (b : Option BReg) : Except Trp (Txn × State) :=
  match s.readBuf a t.arg with
  | .error e => .error e
  | .ok (path, s) => match s.handleOpt b with
    | .error e => .error e
    | .ok x => if pathOk 16 path then .ok ({ t with ha := x.getD (0, 0), data := path }, s) else .error (trOperand 2 0)

def execNwalk (h : Head) (d : GReg) (a : BReg) (b : Option BReg) (s : State) : Host.Outcome State Fault Refusal :=
  runTxn h s opWALK d fun s t => s.walkArgs t a b

def execNopen (h : Head) (d : GReg) (a : BReg) (s : State) : Host.Outcome State Fault Refusal :=
  runTxn h s opOPEN d fun s t => s.oneHandle t a

def execNclose (h : Head) (d : GReg) (a : BReg) (s : State) : Host.Outcome State Fault Refusal :=
  runTxn h s opCLOSE d fun s t => s.oneHandle t a

/-- The pad pointer of NREAD and NWRITE (R254): the issuing tile's pad, FIELD 3. -/
def State.padArg (s : State) (b : BReg) (n need : Nat) (a : AccKind) : Except Trp Hit :=
  s.reach (s.ptr b) b.toNat 0 n need a 1 (ownPad s.myPad 3)

/-- NREAD's operands: nothing of the pad is read or written at issue. -/
def State.readArgs (s : State) (t : Txn) (a b : BReg) : Except Trp (Txn × State) :=
  match s.checkPtr s.t.ctx (s.ptr a) a.toNat 0 t.arg rR with
  | .error e => .error e
  | .ok (_, off) => match s.padArg b t.arg rW .store with
    | .error e => .error e
    | .ok h => .ok ({ t with ha := ((s.ptr a).hidx, (s.ptr a).gen), off := off, padOff := h.off }, s)

def execNread (h : Head) (d : GReg) (a b : BReg) (s : State) : Host.Outcome State Fault Refusal :=
  runTxn h s opREAD d fun s t => s.readArgs t a b

/-- NWRITE's operands: its data is read at issue. -/
def State.writeArgs (s : State) (t : Txn) (a b : BReg) : Except Trp (Txn × State) :=
  match s.checkPtr s.t.ctx (s.ptr a) a.toNat 0 t.arg rW with
  | .error e => .error e
  | .ok (_, off) => match s.padArg b t.arg rR .load with
    | .error e => .error e
    | .ok h => (s.readHit (s.ptr b) h t.arg 0 0).map fun (bs, s) =>
        ({ t with ha := ((s.ptr a).hidx, (s.ptr a).gen), off := off, data := bs }, s)

def execNwrite (h : Head) (d : GReg) (a b : BReg) (s : State) : Host.Outcome State Fault Refusal :=
  runTxn h s opWRITE d fun s t => s.writeArgs t a b

/-- NBIND's and NUNBIND's handles. -/
def State.twoHandles (s : State) (t : Txn) (a : BReg) (b : Option BReg) : Except Trp (Txn × State) :=
  match s.handleArg a with
  | .error e => .error e
  | .ok x => (s.handleOpt b).map fun y => ({ t with ha := x, hb := y }, s)

def execNbind (h : Head) (d : GReg) (a b : BReg) (s : State) : Host.Outcome State Fault Refusal :=
  runTxn h s opBIND d fun s t => s.twoHandles t a (some b)

def execNunbind (h : Head) (d : GReg) (a : BReg) (b : Option BReg) (s : State) : Host.Outcome State Fault Refusal :=
  runTxn h s opUNBIND d fun s t => s.twoHandles t a b

def execNstat (h : Head) (d : GReg) (a : BReg) (s : State) : Host.Outcome State Fault Refusal :=
  runTxn h s opSTAT d fun s t => s.oneHandle t a

def execNrevoke (h : Head) (d : GReg) (a : BReg) (s : State) : Host.Outcome State Fault Refusal :=
  runTxn h s opREVOKE d fun s t => s.oneHandle t a

/-- The name beside the cell, read as the issuer's plain read of its pad. -/
def State.readName (s : State) (off n : Nat) : Except Trp (List Byte × State) :=
  match s.places s.t.ctx (padNode s.myPad) false false (pieces off n) with
  | .error e => .error ⟨e.cause, e.off, e.tinfo⟩
  | .ok l => s.readHit {} { node := padNode s.myPad, off := off, places := l } n 0 0

/-- NCREATE: the spec at stage 5, the handle, then the name. -/
def State.createArgs (s : State) (t : Txn) (a : BReg) (spec : Word) : Except Trp (Txn × State) :=
  if !specOk spec.toNat then .error (trOperand 3 1)
  else match s.handleArg a with
    | .error e => .error e
    | .ok x => match s.readName (t.cell.getD 0 + 16) t.arg with
      | .error e => .error e
      | .ok (name, s) =>
        if pathOk 1 name then .ok ({ t with ha := x, spec := spec, data := name }, s) else .error (trOperand 2 0)

def execNcreate (h : Head) (d : GReg) (a : BReg) (b : GReg) (s : State) : Host.Outcome State Fault Refusal :=
  runTxn h s opCREATE d fun s t => s.createArgs t a (s.t.rdG b)

def execNremove (h : Head) (d : GReg) (a : BReg) (s : State) : Host.Outcome State Fault Refusal :=
  runTxn h s opREMOVE d fun s t => s.oneHandle t a

end Sys2Proof.Machine
end

