-- ==== Sys2Proof/Machine/NameOps.lean ====
section
/-! DEFINITION. What a name unit does with a transaction, and its result (R247 to R260, R268, R272, R273,
R346, R347). -/

namespace Sys2Proof.Machine

/-! ### Outcomes -/

def State.settleTxn (s : State) (i : Nat) (r : TxRes) : State := s.updTxn i fun t => { t with res := some r, ctl := none, held := none }

/-- The transactions that end or free their handle: they wait for the issuer's earlier writes through it (R253). -/
def Txn.keepsHandle (t : Txn) : Bool := t.op == opCLOSE || t.op == opREVOKE || t.op == opREMOVE

/-- A failed transaction returns HANDLE, GEN and VALUE 0, and FAILIDX for NWALK only (R273). -/
def State.failTxn (s : State) (i status : Nat) (failidx : Nat := 0) : State :=
  let t := s.txn i
  s.settleTxn i { status := status, failidx := if t.op = opWALK then failidx else 0 }

/-- OK for a transaction that used its handle operand. -/
def State.okTxn (s : State) (i value : Nat) (data : List Byte := []) : State :=
  let t := s.txn i
  s.settleTxn i { handle := t.ha.1, gen := t.ha.2, value := w64 value, data := data }

/-- The transaction's place in the scopes: its name unit's die, or the host. -/
def Txn.loc (t : Txn) : Loc := match t.host with
  | some _ => {}
  | none => dieLoc (coreDie t.core)

/-- How races describe it (R51). -/
def Txn.who (t : Txn) : BitVec 64 := match t.host with
  | some _ => whoWord 0 0 5 0
  | none => whoWord 0 t.hidx 3 (hdrSrc t.hdr)

/-! ### Walks (R251) -/

/-- The node pointer of a walked entry, and the pointer of an open one. -/
def nodePtr (h gen : Nat) : Quad := ptrRaw 0 0 0 0 gen h 0
def openPtr (rights h gen size : Nat) : Quad := (mintPtr rights gen h size).raw

/-- The walk has resolved every component: an entry in state walked. -/
def State.walkEnd (s : State) (i : Nat) : State :=
  let t := s.txn i
  match s.takeHandle t.ctx (s.newEntry t.ctx 1 t.wnode t.wgrant t.wgrant t.wvia) with
  | none => s.failTxn i nsFULL t.wix
  | some (h, s) =>
    let gen := (s.hent t.ctx h).gen
    s.settleTxn i { failidx := t.wix, handle := h, gen := gen, value := w64 (s.nodeKind t.wnode * 256 + t.wgrant),
                    entry := nodePtr h gen }

/-- The walk's start: its handle's node. -/
def State.walkBegin (s : State) (i : Nat) : State :=
  let t := s.txn i
  match s.hlook t.ctx t.ha.1 t.ha.2 with
  | none => s.failTxn i nsREVOKED 0
  | some e =>
    if s.otherWorld t.ctx e.node then s.failTxn i nsWORLD 0
    else
      let p := s.enter t.ctx 65 { node := e.node, grant := e.grant.toNat, cross := 0, via := e.via }
      s.setTxn i { t with wgo := true, wnode := p.node, wgrant := p.grant, wcross := p.cross, wvia := p.via }

/-- The die that resolves a walk's next component: its home (R272). -/
def State.walkDie (s : State) (t : Txn) : Nat :=
  s.compHome t.ctx t.wnode t.wgrant ((splitSlash t.data).getD t.wix [])

/-- Resolves components while they are homed on the die the walk is at. -/
def State.walkHere (s : State) (i : Nat) : Nat → State
  | 0 => s
  | f + 1 =>
    let t := s.txn i
    match (splitSlash t.data)[t.wix]? with
    | none => s.walkEnd i
    | some name =>
      if s.nodeKind t.wnode = kPeer then s.failTxn i nsPEER_DOWN (t.wix - 1)
      else if s.walkDie t ≠ t.die then s
      else match s.lookComp t.ctx { node := t.wnode, grant := t.wgrant, cross := t.wcross } name with
        | .error e => s.failTxn i e t.wix
        | .ok p => (s.setTxn i { t with wnode := p.node, wgrant := p.grant, wcross := p.cross, wvia := p.via,
                                        wix := t.wix + 1 }).walkHere i f

/-! ### The other transactions, at the handle's home (R252 to R258) -/

/-- NOPEN. -/
def State.openAct (s : State) (i : Nat) (e : HEntry) : State :=
  let t := s.txn i
  let r := t.arg % 256
  if !hasAll e.grant.toNat r ∨ (e.state = 2 ∧ !hasAll e.rights.toNat r) then s.failTxn i nsNO_RIGHTS
  else
    let s := if e.state = 1 then s.setHent t.ctx t.ha.1 { e with state := 2, rights := BitVec.ofNat 8 r } else s
    s.settleTxn i { handle := t.ha.1, gen := t.ha.2, value := w64 e.size, entry := openPtr r t.ha.1 t.ha.2 e.size }

/-- NCLOSE. -/
def State.closeAct (s : State) (i : Nat) : State :=
  let t := s.txn i
  if t.ha.1 = 0 then s.failTxn i nsNO_RIGHTS else (s.freeHandle t.ctx t.ha.1).okTxn i 0

/-- NBIND. -/
def State.nbindAct (s : State) (i : Nat) (e : HEntry) : State :=
  let t := s.txn i
  match t.hb.bind fun b => s.hlook t.ctx b.1 b.2 with
  | none => s.failTxn i nsREVOKED
  | some src =>
    match s.bindAt t.ctx e.node { point := e.node, src := src.node, shadow := t.arg / 256 == 2, rank := t.arg % 256,
                                  bySup := none, grant := src.grant } with
    | .error st => s.failTxn i st
    | .ok s => s.okTxn i 0

/-- NUNBIND: the context's own bindings at the point, of one source or of all. -/
def State.unbindAct (s : State) (i : Nat) (e : HEntry) : State :=
  let t := s.txn i
  let src : Option (Option Node) := match t.hb with
    | none => some none
    | some b => (s.hlook t.ctx b.1 b.2).map fun x => some x.node
  match src with
  | none => s.failTxn i nsREVOKED
  | some n =>
    let hit (b : Bind) : Bool := b.point = e.node && b.bySup.isNone && (match n with | some x => b.src = x | none => true)
    let k := (s.bindsOf t.ctx).countP hit
    if k = 0 then s.failTxn i nsNOT_BOUND
    else (s.setBinds t.ctx ((s.bindsOf t.ctx).filter fun b => !hit b)).okTxn i k

/-- Frees every handle on the node but one. -/
def State.revokeAll (s : State) (n : Node) (keep : Option (Nat × Nat)) : Nat × State :=
  let hs := s.tables.flatMap fun c => ((s.htab c).filter fun e => e.2.used && e.2.node = n && keep != some (c, e.1)).map fun e => (c, e.1)
  (hs.length, hs.foldl (fun s x => s.freeHandle x.1 x.2) s)

/-- NREVOKE. -/
def State.revokeAct (s : State) (i : Nat) (e : HEntry) : State :=
  let t := s.txn i
  if e.state ≠ 2 ∨ !hasAll e.rights.toNat rM then s.failTxn i nsNO_RIGHTS
  else
    let (k, s) := s.revokeAll e.node (some (t.ctx, t.ha.1))
    s.okTxn i k

/-- L2-store bytes that a function's objects take on a die, and what it may take (R322). -/
def State.l2Used (s : State) (n die : Nat) : Nat :=
  ((s.made.filter fun e => e.2.kind == kMemo && e.2.tier == 1 && e.2.fn == n && e.2.home == die).map fun e => e.2.size).sum
def State.l2Room (s : State) (n die : Nat) : Nat := (s.fn n).l2store * 2 ^ 20 * ((s.quartosOf n).countP fun q => q / 4 == die)

/-- The node that NCREATE makes in directory `dir`. -/
def State.newNode (s : State) (c spec : Nat) (dir : Node) : Except Nat Made :=
  let tier := s.dirTier dir
  if specKind spec = 0 then
    .ok { kind := kDir, tier := tier.getD 0, grant := BitVec.ofNat 8 (specRights spec), home := s.nodeHome dir, fn := s.ctxFn c }
  else match tier with
    | none => .error nsNO_RIGHTS
    | some k =>
      let home := if k = 4 then 0 else s.nodeHome dir
      let size := specSize spec * 65536
      if k = 1 ∧ s.l2Room (s.ctxFn c) home < s.l2Used (s.ctxFn c) home + size then .error nsFULL
      else .ok { kind := kMemo, tier := k, grant := BitVec.ofNat 8 (specRights spec), home := home, size := size,
                 relaxed := bitOn spec 6, fn := s.ctxFn c }

/-- NCREATE: the new handle opens with RIGHTS ∩ the grant of the directory that holds the name (R257). -/
def State.createAct (s : State) (i : Nat) (e : HEntry) : State :=
  let t := s.txn i
  let spec := t.spec.toNat
  if e.state ≠ 2 ∨ !hasAll e.rights.toNat rW then s.failTxn i nsNO_RIGHTS
  else if s.nodeKind e.node ≠ kDir then s.failTxn i nsNOT_DIR
  else if s.present t.ctx e.node e.grant.toNat t.data then s.failTxn i nsEXISTS
  else match s.createDir t.ctx e.node e.grant.toNat with
    | .error st => s.failTxn i st
    | .ok (dir, grant) => match s.newNode t.ctx spec dir with
      | .error st => s.failTxn i st
      | .ok m =>
        if (s.takeHandle t.ctx {}).isNone then s.failTxn i nsFULL
        else match s.make m (some (dir, t.data, none)) with
          | none => s.failTxn i nsFULL
          | some (k, s) =>
            let rights := specRights spec &&& grant
            match s.takeHandle t.ctx (s.newEntry t.ctx 2 (.made k) rights (specRights spec) (some (dir, t.data))) with
            | none => s.failTxn i nsFULL
            | some (h, s) =>
              let gen := (s.hent t.ctx h).gen
              s.settleTxn i { handle := h, gen := gen, entry := openPtr rights h gen m.size }

/-- A made node has lost a name: without another it goes with its last handle. -/
def State.unname (s : State) (k : Nat) : State :=
  if s.names.any fun x => x.node = .made k then s
  else if s.handlesOn (.made k) = 0 then s.unmake k
  else s.updMade k fun m => { m with named := false }

/-- NREMOVE. -/
def State.removeAct (s : State) (i : Nat) (e : HEntry) : State :=
  let t := s.txn i
  match e.via, e.node with
  | some (dir, name), .made k =>
    if !hasAll (s.nodeGrant t.ctx dir) rW then s.failTxn i nsNO_RIGHTS
    else if s.nodeKind e.node = kDir ∧ s.names.any (fun x => x.dir = e.node) then s.failTxn i nsNOT_EMPTY
    else
      let hit (x : NameEnt) : Bool := x.dir = dir && x.name = name && x.node = e.node
      if !s.names.any hit then s.failTxn i nsNOT_BOUND
      else ({ s with names := s.names.filter fun x => !hit x }.unname k).okTxn i 0
  | _, _ => s.failTxn i nsNO_RIGHTS

/-! ### NREAD and NWRITE at the home (R241, R254, R259, R268) -/

/-- The word that names the party of a record from a transaction. -/
def Txn.lword (t : Txn) : Nat := hdrSrc t.hdr

/-- An access that meets a translation fault is held, with a fault record (R268). -/
def State.holdTxn (s : State) (i : Nat) (x : XErr) : State :=
  let t := s.txn i
  let info (host : Nat) : Nat := (t.op == opWRITE).toNat + x.tinfo / 4 % 2 * 4 + 2 ^ 12 + host * 2 ^ 13
  let addr := t.ha.1 % 2 ^ 20 * 2 ^ 44 + x.off
  match t.host with
  | none =>
    let (q, s) := s.takeFseq t.core
    (s.setTxn i { t with held := some q }).postFault (s.faultTarget t.ctx (x.cause == cS2 || s.ctxPriv t.ctx != 0)) (quartoOf t.core)
      { ctx := t.ctx, lcore := t.lword, cause := x.cause, taddr := addr, tinfo := info 0, fseq := q, launch := t.launch }
  | some n =>
    let q := (s.fn n).hostFseq
    let s := s.updFn n fun f => { f with hostFseq := (q + 1) % 2 ^ 32 }
    (s.setTxn i { t with held := some q }).postFault ((s.hypOf n).map fun h => (h, (s.fn n).hvvec)) ((s.quartosOf n).headD 0)
      { ctx := 0, lcore := 0, cause := x.cause, taddr := addr, tinfo := info 1, fseq := q }

/-- An access with no place: WORLD ends it (R248), and a translation fault holds it. -/
def State.stopTxn (s : State) (i : Nat) (x : XErr) : State :=
  if x.cause = 0x1A then s.failTxn i nsWORLD else s.holdTxn i x

/-- NREAD or NWRITE of a memory or code object. -/
def State.memAct (s : State) (i : Nat) (n : Node) : State :=
  let t := s.txn i
  let w := t.op == opWRITE
  match s.places t.ctx n w false (pieces t.off t.arg) with
  | .error x => s.stopTxn i x
  | .ok l =>
    let ls := if s.nodeRelaxed n then [] else linesOf n t.off t.arg
    match s.race t.party (if w then aWrite else aRead) ls with
    | some _ => s.failTxn i nsRACE
    | none =>
      let s := s.touchAll t.party t.who (if w then aWrite else aRead) ls
      if w then ((s.overwrite (objAddr n t.off) t.arg).pokePlaces l t.data).okTxn i t.arg
      else s.okTxn i t.arg (s.peekPlaces l)

/-- What an append of the transaction's party publishes: lines since its last release. -/
def State.pubOf (s : State) (p : Nat) : List Nat := (s.party p).sinceRel

def ringStatus : RingRes → Nat
  | .ok => nsOK
  | .full => nsBUSY
  | .faulty => nsNO_RIGHTS
  | .race => nsRACE

/-- NREAD or NWRITE of a queue: a take or an append. -/
def State.queueAct (s : State) (i : Nat) (n : Node) (size : Nat) : State :=
  let t := s.txn i
  if t.off ≠ 0 then s.failTxn i nsNO_RIGHTS
  else if t.op = opWRITE then
    let (r, s) := match n with
      | .launch m k => s.appendLaunch m k t.data (s.carry t.party)
      | _ => match s.ringOf n with
        | some (pad, desc) => s.atRing n pad fun s =>
            s.append pad desc (s.ringLim n pad) t.data t.party t.who t.loc (s.carry t.party) (s.pubOf t.party)
        | none => (.faulty, s)
    if r = .ok then
      (s.setParty t.party { s.party t.party with sinceRel := [] }).okTxn i t.arg
    else s.failTxn i (ringStatus r)
  else match s.ringOf n with
    | some (pad, desc) =>
      if t.arg ≠ size then s.failTxn i nsNO_RIGHTS
      else
        let ((r, bytes), s) := s.atRing n pad fun s =>
          let (r, bytes, s) := s.take pad desc (s.ringLim n pad) t.party t.who t.loc
          ((r, bytes), s)
        if r = .ok then s.okTxn i t.arg bytes else s.failTxn i (ringStatus r)
    | none => s.failTxn i nsNO_RIGHTS

/-- A host transaction's access, which the port's party makes with what comes before that transaction in program order,
and no more; what it accesses and receives comes before the transactions taken after it (R50, R348, R352). Any other
transaction is a party of its own. -/
def State.asTaken (s : State) (i : Nat) (f : State → State) : State :=
  let t := s.txn i
  match t.host with
  | none => f s
  | some n =>
    let q := s.party t.party
    let after := (q.know.filter fun x => !t.know.contains x).map (·.1)
    let s := f (s.setParty t.party { q with know := t.know, sinceRel := q.sinceRel.filter fun l => !after.contains l })
    let r := s.party t.party
    let new := r.know.filter fun x => !t.know.contains x
    let s := s.setParty t.party { r with know := addKnow q.know new
                                         sinceRel := addLines r.sinceRel (q.sinceRel.filter after.contains) }
    { s with txns := tmap {} (fun j x => if i < j && x.host == some n then { x with know := addKnow x.know new } else x) s.txns }

/-- The migration window's reads are a step of their own (R332). -/
def isWindowRead (n : Node) (off : Nat) : Bool :=
  match n with
  | .vfmigrate _ => decide (0x100000 ≤ off)
  | _ => false

/-- NREAD and NWRITE. A write of a control object waits for its own step. -/
def State.accessAct (s : State) (i : Nat) (e : HEntry) : State :=
  let t := s.txn i
  let need := if t.op = opWRITE then rW else rR
  let n := e.node
  if t.host.isSome ∧ s.entrySize t.ctx e < t.off + t.arg then s.failTxn i nsBOUNDS
  else if t.host.isSome ∧ (e.state ≠ 2 ∨ !hasAll e.rights.toNat need) then s.failTxn i nsNO_RIGHTS
  else
    let k := s.nodeKind n
    if k = kMemo ∨ k = kCode then s.memAct i n
    else if k = kQueue then s.queueAct i n e.size
    else if k = kCtl then
      if t.op = opWRITE ∨ isWindowRead n t.off then s.setTxn i { t with ctl := some n }
      else match s.ctlRead t.ctx n t.off t.arg with
        | .ok bs => match s.slotFault n t.off t.arg with
          | some x => s.stopTxn i x
          | none => s.okTxn i t.arg bs
        | .error st => s.failTxn i st
    else s.failTxn i nsNO_RIGHTS

/-! ### A name unit acts -/

/-- A write, a close, a revocation or a removal waits for its issuer's earlier writes through the handle
(R253, R254). The host's requests on one handle are performed in the order in which the port takes them (R356). -/
def State.txnWaits (s : State) (i : Nat) : Bool :=
  let t := s.txn i
  -- a transaction that has its outcome, BUSY at once included, waits for none (R260)
  t.res.isNone && (t.op == opWRITE || t.keepsHandle || t.host.isSome) &&
    s.txns.any fun e => decide (e.1 < i) && (e.2.op == opWRITE || t.host.isSome) && e.2.issuer == t.issuer && e.2.ha.1 == t.ha.1 && e.2.ctx == t.ctx
      && e.2.res.isNone

/-- The die whose name unit must act next: the home of the handle of any transaction but a walk, which begins at the
issuing die's (R272). -/
def State.txnDie (s : State) (i : Nat) : Nat :=
  let t := s.txn i
  if t.op = opWALK then (if t.wgo then s.walkDie t else t.die)
  else match s.hlook t.ctx t.ha.1 t.ha.2 with
    | none => t.die
    | some e => s.nodeHome e.node

/-- Something is left for a name unit to do. -/
def Txn.idle (t : Txn) : Bool := t.res.isSome || t.ctl.isSome || t.held.isSome

/-- The rest of a walk that has begun and not failed. -/
def State.walkRest (s : State) (i : Nat) : State := if (s.txn i).res.isSome then s else s.walkHere i 17

/-- The name unit of the die where transaction i is acts on it. -/
def State.txnAct (s : State) (i : Nat) : State :=
  let t := s.txn i
  let s := if t.op = opWRITE ∨ t.keepsHandle then
      s.flush fun q => q.party == t.issuer && q.ctx == t.ctx && q.handle.toNat == t.ha.1
    else s
  if t.op = opWALK then (if t.wgo then s else s.walkBegin i).walkRest i
  else match s.hlook t.ctx t.ha.1 t.ha.2 with
    | none => s.failTxn i nsREVOKED
    | some e =>
      if s.otherWorld t.ctx e.node then s.failTxn i nsWORLD
      else match t.op with
        | 1 => s.openAct i e
        | 2 => s.closeAct i
        | 3 => s.asTaken i (·.accessAct i e)
        | 4 => s.asTaken i (·.accessAct i e)
        | 5 => s.nbindAct i e
        | 6 => s.unbindAct i e
        | 7 => s.settleTxn i { handle := t.ha.1, gen := t.ha.2, entry := s.entryWord e }
        | 8 => s.revokeAct i e
        | 9 => s.createAct i e
        | _ => s.removeAct i e

end Sys2Proof.Machine
end

