-- ==== Sys2Proof/Machine/NameSteps.lean ====
section
/-! DEFINITION. A transaction's moves between name units, and the posting of its result (R247, R272, R273,
R346, R347, R349). -/

namespace Sys2Proof.Machine

/-! ### The result's bytes -/

/-- The payload of a result (R247). -/
def TxRes.payload (r : TxRes) (op rtag : Nat) : List Byte :=
  let low := r.status % 256 + r.failidx % 32 * 2 ^ 8 + rtag % 65536 * 2 ^ 16 + r.handle % 2 ^ 20 * 2 ^ 32 + r.gen % 4096 * 2 ^ 52
    + r.value.toNat * 2 ^ 64
  if op = opSTAT then bytesOfNat 32 (low + r.entry.toNat * 2 ^ 128) else bytesOfNat 16 low

/-- A host response (R347): a header of 32 bytes, then an NREAD's data, in whole slots. -/
def TxRes.response (r : TxRes) (op tag : Nat) : List Byte :=
  let head := bytesOfNat 16 (natOfBytes (r.payload opCLOSE tag))
    ++ bytesOfNat 16 (if op = opSTAT then r.entry.toNat else 0)
  let bs := head ++ (if r.status = 0 then r.data else [])
  bs ++ List.replicate (cdiv bs.length 64 * 64 - bs.length) 0

/-- Slots of a response (R346). -/
def slotCount (bs : List Byte) : Nat := bs.length / 64

/-- Writes a response into the ring and raises vector 0 (R346, R349). -/
def State.respond (s : State) (n : Nat) (bs : List Byte) : State :=
  s.updFn n fun f =>
    let t := f.rsptail.toNat
    let ring := (List.range (slotCount bs)).foldl (fun r k => tset [] r ((t + k) % 64) ((bs.drop (64 * k)).take 64)) f.rsp
    { f with rsp := ring, rsptail := BitVec.ofNat 32 (t + slotCount bs), msi := 0 :: f.msi }

/-! ### Pad bytes that the name unit writes (R247, R254) -/

/-- A plain write of the transaction's party to its issuer's pad, as the issuing context's state holds it;
false where it races. -/
def State.padWrite (s : State) (t : Txn) (off : Nat) (bytes : List Byte) (tag : Bool) : Bool × State :=
  let pad := padOf t.core
  let ls := linesOf (padNode pad) off bytes.length
  s.seeing t.ctx pad fun s =>
    if (s.race t.party aWrite ls).isSome then (false, s)
    else
      let s := (s.touchAll t.party t.who aWrite ls).overwrite (padAddr pad off) bytes.length
      let s := s.poke (padAddr pad off) bytes
      (true, if tag then { s with tags := tset false s.tags (padAddr pad off / 16) true } else s)

/-- The cell, for the transactions that have one, and NREAD's bytes: written on OK, and RACE where they
could not be. -/
def State.deliverTxn (s : State) (t : Txn) (r : TxRes) : TxRes × State :=
  if r.status ≠ nsOK then (r, s)
  else
    let (ok, s) := match t.cell with
      | some c => s.padWrite t c (bytesOfNat 16 r.entry.toNat) true
      | none => if t.op = opREAD then s.padWrite t t.padOff r.data false else (true, s)
    (if ok then r else { r with status := nsRACE }, s)

/-- What takes effect as a result is posted. -/
def State.actLate (s : State) : Late → State
  | .nothing => s
  | .split n v => s.updFn n fun f => { f with l2store := v }
  | .table l bs => s.pokePlaces l bs

/-- The issuing die's name unit writes, releases and posts; the port of a host transaction responds. -/
def State.postTxn (s : State) (i : Nat) : State :=
  let t := s.txn i
  match t.res with
  | none => s
  | some r =>
    let s := s.actLate r.late
    let gone (s : State) : State := { s with txns := tdrop (· == i) s.txns }
    match t.host with
    | some n =>
      let s := s.respond n (r.response t.op t.rtag)
      gone (if r.know = [] then s else s.updFn n fun f => { f with rspEdges := f.rspEdges ++ [(f.rsptail, r.know)] })
    | none =>
      let (r, s) := s.deliverTxn t r
      let s := s.post { isMsg := true, hdr := BitVec.ofNat 128 (setBits t.hdr.toNat 0 64 s.ts), payload := r.payload t.op t.rtag,
                        hidx := t.hidx, ctx := t.ctx, core := t.core, lcore := t.lword, key := 0xB000, sendTs := s.ts,
                        know := s.carry t.party, launch := t.launch }
      gone (s.endParty t.party)

/-- NAME_RESULT: transaction arg.a, acted on where it stands if nothing else is due, has its result posted. -/
def State.nameResult (s : State) (i : Nat) : State :=
  if !(s.txns.any fun e => e.1 == i) ∨ s.txnWaits i then s
  else
    let t := s.txn i
    let s := if !t.idle && s.txnDie i == t.die then s.txnAct i else s
    s.postTxn i

def execNameResult (s : State) : Host.Outcome State Fault Refusal :=
  event s fun s => s.nameResult s.arg.a

/-- NAME_MOVE: transaction arg.a reaches the name unit of the die that must resolve it. -/
def State.nameMove (s : State) (i : Nat) : State :=
  let t := s.txn i
  if !(s.txns.any fun e => e.1 == i) ∨ t.idle ∨ s.txnWaits i ∨ s.txnDie i = t.die then s
  else (s.setTxn i { t with die := s.txnDie i }).txnAct i

def execNameMove (s : State) : Host.Outcome State Fault Refusal :=
  event s fun s => s.nameMove s.arg.a

end Sys2Proof.Machine
end

