-- ==== Sys2Proof/Machine/Reduce.lean ====
section
/-! DEFINITION. The switch ALUs: the operators on chunks (R282 to R284, R58, R60). -/

namespace Sys2Proof.Machine

/-! ### ETYPE of a switch entry: 0 INT32, 1 INT64, 2 FP32, 3 BF16 -/

def swBytes (et : Nat) : Nat := [4, 8, 4, 2].getD et 4

/-- Pairings that R282 allows. -/
def swPair (op et : Nat) : Bool :=
  decide (op ≤ 2) || ((op == 3 || op == 4 || op == 5) && decide (et ≤ 1)) || (op == 6 && et == 2)

/-- A chunk's elements. -/
def chunkEls (et : Nat) (v : VWord) : List Nat :=
  (List.range (256 / swBytes et)).map fun i => bits v.toNat (8 * swBytes et * i) (8 * swBytes et)

/-- A chunk of elements. -/
def chunkOf (et : Nat) (l : List Nat) : VWord :=
  BitVec.ofNat 2048 (l.foldr (fun x acc => x % 2 ^ (8 * swBytes et) + 2 ^ (8 * swBytes et) * acc) 0)

/-! ### SMRG (R283) -/

/-- Exp2 of a finite x that is not above 0, correctly rounded (R73). -/
def exp2Rne (x : Nat) : Nat × Fl :=
  match decodeFp fp32 x with
  | .num n m e =>
    if m = 0 then (one32, {})
    else
      let v : Int := Fp.atExp n m e (-149)
      let k : Int := v / (2 ^ 149 : Nat)
      let f : Nat := (v % (2 ^ 149 : Nat)).toNat
      if f = 0 then encodeReal fp32 0 false false 1 (max k (-200)) (decide (k < -200))
      else if k < -200 then encodeReal fp32 0 false false 1 (-200) true
      else encodeReal fp32 0 false false (fxExp (fxMul (fxOf f (-149)) fxLn2)) (k - fxP) true
  | _ => (0, {})

def negInf32 : Nat := signed fp32 true fp32.infCode

/-- a × x, where `empty` makes the side's factor and term +0. -/
def smrgTerm (empty : Bool) (a x : Nat) : Nat × Fl := if empty then (0, {}) else fMul fp32 0 a x

/-- The merge of two triples, as 64 words. -/
def smrg (x y : List Nat) : List Nat × Fl :=
  let m1 := x.headD 0
  let m2 := y.headD 0
  let bad (c : Nat) : Bool := match decodeFp fp32 c with
    | .nan _ => true
    | .inf n => !n
    | _ => false
  if bad m1 || bad m2 then (List.replicate 64 nan32, { nv := true })
  else
    let (m, f0) := fMinMax fp32 true m1 m2
    if m = negInf32 then (negInf32 :: List.replicate 63 0, f0)
    else
      let side (c : Nat) : Nat × Fl :=
        if c = negInf32 then (0, {})
        else
          let (d, fl) := fSub fp32 0 c m
          let (a, fl') := exp2Rne d
          (a, fl.or fl')
      let (a1, f1) := side m1
      let (a2, f2) := side m2
      let term (p q : Nat) : Nat × Fl :=
        let (u, fu) := smrgTerm (m1 == negInf32) a1 p
        let (v, fv) := smrgTerm (m2 == negInf32) a2 q
        let (r, fr) := fAdd fp32 0 u v
        (r, (fu.or fv).or fr)
      let rest := (x.drop 1).zipWith term (y.drop 1)
      (m :: rest.map (·.1), rest.foldl (fun f e => f.or e.2) ((f0.or f1).or f2))

/-! ### One combination (R282) -/

/-- Operators on one element; BF16 sums are taken in FP32. -/
def swEl (op et x y : Nat) : Nat × Fl :=
  let w := 8 * swBytes et
  let sx := asInt x w
  let sy := asInt y w
  match op with
  | 0 => if et ≤ 1 then ((x + y) % 2 ^ w, {}) else fAdd fp32 0 x y
  | 1 => if et ≤ 1 then (if sx < sy then y else x, {}) else fMinMax (if et = 2 then fp32 else bf16) true x y
  | 2 => if et ≤ 1 then (if sy < sx then y else x, {}) else fMinMax (if et = 2 then fp32 else bf16) false x y
  | 3 => (x &&& y, {})
  | 4 => (x ||| y, {})
  | _ => (x ^^^ y, {})

def swComb (op et : Nat) (x y : List Nat) : List Nat × Fl :=
  if op = 6 then smrg x y
  else
    let r := x.zipWith (swEl op et) y
    (r.map (·.1), r.foldl (fun f e => f.or e.2) {})

/-- Elements as a switch works on them: a BF16 sum widens them to FP32. -/
def swIn (op et : Nat) (v : VWord) : List Nat :=
  if op = 0 ∧ et = 3 then (chunkEls et v).map (· * 65536) else chunkEls et v

/-- Elements as they leave: a BF16 sum is rounded once. -/
def swOut (op et : Nat) (l : List Nat) : VWord × Fl :=
  if op = 0 ∧ et = 3 then
    let r := l.map fun x => cvt 10 9 0 false x
    (chunkOf et (r.map (·.1)), r.foldl (fun f e => f.or e.2) {})
  else (chunkOf et l, {})

/-- The value of a slot over its arrived children in ascending port order (R284). -/
def swReduce (op et : Nat) : List VWord → VWord × Fl
  | [] => (0, {})
  | v :: r =>
    let (l, fl) := r.foldl (fun (acc : List Nat × Fl) x =>
      let (l, f) := swComb op et acc.1 (swIn op et x)
      (l, acc.2.or f)) (swIn op et v, {})
    let (o, f) := swOut op et l
    (o, fl.or f)

end Sys2Proof.Machine
end

