-- ==== Sys2Proof/Machine/Fabric.lean ====
section
/-! DEFINITION. Groups, windows, pushes, slots, results and notices, and links under retry (R274 to R295). -/

namespace Sys2Proof.Machine

/-! ### Slots that a switch die has free (R280, R281) -/

/-- Slots that a window takes at each VALID entry. -/
def Window.count (w : Window) (g : Group) : Nat := w.w * g.nchunk

/-- Whether a sequence and chunk lie in the window. -/
def Window.has (w : Window) (seq : Nat) : Bool := decide ((seq + 2 ^ 32 - w.base) % 2 ^ 32 < w.w)

/-- Slots of a window that it holds at a switch die still: those whose marker has expired are free. -/
def State.windowUse (s : State) (i : Nat) (g : Group) (w : Window) (sw : Nat) : Nat :=
  w.count g - s.slots.countP fun x => x.sw == sw && x.grp == i && x.st == 3 && w.has x.seq

/-- What a function's quota has in use at a switch die; slots that became free leave the pool's share first. -/
def State.quotaUsed (s : State) (n sw : Nat) : Nat :=
  (s.groups.map fun e =>
    if eValid (e.2.entry sw) ∧ eTenant (e.2.entry sw) = n then
      (e.2.windows.map fun w => min (tget 0 w.quota sw) (s.windowUse e.1 e.2 w sw)).sum
    else 0).sum

/-- What the shared pool has in use at a switch die. -/
def State.poolUsed (s : State) (sw : Nat) : Nat :=
  (s.groups.map fun e =>
    if eValid (e.2.entry sw) then
      (e.2.windows.map fun w => s.windowUse e.1 e.2 w sw - min (tget 0 w.quota sw) (s.windowUse e.1 e.2 w sw)).sum
    else 0).sum

def State.quotaFree (s : State) (n sw : Nat) : Nat := (s.fn n).recd.slotq - s.quotaUsed n sw
def State.poolFree (s : State) (sw : Nat) : Nat := 4096 - (s.fns.map fun e => e.2.recd.slotq).sum - s.poolUsed sw

/-! ### RSLOT, RFREE, RPUSH, RSTAT (R289 to R293) -/

/-- The aperture a pointer names, checked at its offset 0. -/
def State.aperturePtr (s : State) (b : BReg) (need : Nat) : Except Trp Nat :=
  let p := s.ptr b
  match s.checkPtr s.t.ctx p b.toNat (-(p.cursor : Int)) 1 need with
  | .error t => .error t
  | .ok (e, _) => match apertureOf e.node with
    | some g =>
      -- the slot pools are blocks with a world of their own (R109, R323)
      match (s.group g).valid.find? fun sw => s.world 2 sw && !s.ctxWorld s.t.ctx with
      | some sw => .error ⟨0x1A, addrOf p 0, sw⟩
      | none => .ok g
    | none => .error ⟨0x11, addrOf p 0, need⟩

/-- The port at switch die sw through which a request of die d comes in (R275). -/
def portOf (d sw : Nat) : Nat := if sw = d / 8 then d % 8 else 8 + (d / 8 + 3 - sw) % 4

/-- How far a port stands behind the one the pointer favours. -/
def portTurn (ptr port : Nat) : Nat := (port + 28 - ptr % 28) % 28

/-- The rotating pointer at the switch dies where a request of die d falls short: a decision is contended where
another port took slots in this cycle and the pointer favours it, and moves the pointer past the winner (R281). -/
def State.contendSlots (s : State) (d : Nat) (short : List Nat) : Tab Nat :=
  short.foldl (fun t sw =>
    let (at_, port) := tget (0, portOf d sw) s.slotWon sw
    if at_ = s.now ∧ portTurn (tget 0 s.portPtr sw) port < portTurn (tget 0 s.portPtr sw) (portOf d sw)
    then tset 0 t sw ((port + 1) % 28) else t) s.portPtr

/-- RSLOT's answer: BASE, W and STATUS, with the window reserved at every switch die or at none. -/
def State.reserve (s : State) (g w : Nat) : Word × State :=
  let x := s.group g
  if x.valid = [] then (w64 nsNOT_BOUND, s)
  else if 16 ≤ x.windows.length ∨ 4096 < w * x.nchunk then (w64 nsFULL, s)
  else
    let n := w * x.nchunk
    let d := coreDie s.core_
    let short := x.valid.filter fun sw => decide (s.quotaFree (eTenant (x.entry sw)) sw + s.poolFree sw < n)
    if short ≠ [] then (w64 nsBUSY, { s with portPtr := s.contendSlots d short })
    else
      let quota := x.valid.foldl (fun t sw => tset 0 t sw (min n (s.quotaFree (eTenant (x.entry sw)) sw))) []
      let win : Window := { base := x.nextseq, w := w, ctx := s.t.ctx, quota := quota }
      let won := x.valid.foldl (fun t sw => tset (0, 0) t sw (s.now, portOf d sw)) s.slotWon
      (w64 (nsOK + w * 2 ^ 16 + x.nextseq * 2 ^ 32),
        { s.setGroup g { x with nextseq := (x.nextseq + w) % 2 ^ 32, windows := x.windows ++ [win] } with slotWon := won })

def execRslot (h : Head) (d : GReg) (a : BReg) (b : GI) (s : State) : Host.Outcome State Fault Refusal :=
  run h s fun s =>
    let w := (s.t.gi b).toNat
    if w = 0 ∨ 256 < w then s.trapOperand 3 (giKind b)
    else s.try_ (s.aperturePtr a rA) fun g =>
      let (v, s) := s.reserve g w
      s.retG d v

/-- A window ends: its slots go, whatever they hold. -/
def State.endWindow (s : State) (g : Nat) (w : Window) : State :=
  let x := s.group g
  { s.setGroup g { x with windows := x.windows.filter fun y => y.base != w.base } with
    slots := s.slots.filter fun y => !(y.grp == g && w.has y.seq) }

/-- RFREE. -/
def State.freeWindow (s : State) (g base : Nat) : State :=
  match (s.group g).windows.find? fun w => w.base == base with
  | some w => s.endWindow g w
  | none => s

/-- Every live window of the contexts that `p` names ends as by RFREE. -/
def State.freeWindows (s : State) (p : Nat → Bool) : State :=
  s.groups.foldl (fun s e => (e.2.windows.filter fun w => p w.ctx).foldl (fun s w => s.freeWindow e.1 w.base) s) s

def execRfree (h : Head) (d : BReg) (a : GI) (s : State) : Host.Outcome State Fault Refusal :=
  run h s fun s => s.try_ (s.aperturePtr d rA) fun g => (s.freeWindow g (bits (s.t.gi a).toNat 0 32)).next

/-- RPUSH's chunk sets out; with acq it carries what its issuer has (R288). -/
def State.pushOut (s : State) (g : Nat) (acq : Bool) (v : VWord) (w : Word) : State :=
  let s := if acq then s.flushMine else s
  let who : Sender := { ctx := s.t.ctx, core := s.core_, lword := s.t.lcore, launch := s.t.launch }
  let die := coreDie s.core_
  let body : Chunk := { data := v, know := if acq then s.carry s.me else [], senders := [who] }
  let p : Push := { sw := die / 8, port := die % 8, grp := g, seq := bits w.toNat 0 32, chunk := bits w.toNat 32 8,
                    leaf := true, body := body }
  { s with pushes := s.pushes ++ [p] }

def execRpush (h : Head) (od : Ord3) (_sc : Scope3) (d : BReg) (a : VReg) (b : GReg) (s : State) : Host.Outcome State Fault Refusal :=
  run h s fun s =>
    let w := s.t.rdG b
    if bits w.toNat 40 24 ≠ 0 then s.trapOperand 3 1
    else s.try_ (s.aperturePtr d rW) fun g => (s.pushOut g (acquires od.toNat) (s.t.rdV a) w).next

/-- RSTAT's word. -/
def State.groupWord (s : State) (g : Nat) : Word :=
  let x := s.group g
  match x.root with
  | none => 0
  | some r => w64 (min 8191 (s.quotaFree (eTenant (x.entry r)) r + s.poolFree r) + x.windows.length % 32 * 2 ^ 19
      + x.dups * 2 ^ 24 + x.nextseq * 2 ^ 32)

def execRstat (h : Head) (d : GReg) (a : BReg) (s : State) : Host.Outcome State Fault Refusal :=
  run h s fun s => s.try_ (s.aperturePtr a rR) fun g => s.retG d (s.groupWord g)

/-! ### Group configuration (R277, R278, R295) -/

/-- Reserved bits of a header and of an entry. -/
def Group.reserved (g : Group) : Bool :=
  bits g.num 85 11 != 0 || bits g.num 55 9 != 0 || bits g.num 41 7 != 0 || bits g.num 1 31 != 0
    || ((List.range 4).any fun sw =>
      let e := g.entry sw
      -- no port 27 appears on S1 to S3, whether the entry is VALID or not
      (sw != 0 && (bitOn (eChild e) 27 || bitOn (eResult e) 27 || eParent e == 27))
        || bits e 120 2 != 0 || bits e 48 10 != 0 || bits e 0 16 != 0 || bits e 39 9 != 0)
    || (List.range 256).any fun i => bits g.num (652 + 16 * i) 4 != 0

/-- What R278 asks of a configuration that context c writes. -/
def State.groupOk (s : State) (c : Nat) (g : Group) : Bool :=
  let roots := g.valid.filter fun sw => eParent (g.entry sw) == 31
  let tab := if c < 65536 then c else (s.hypOf (c - 65536)).getD 0
  let reach := g.reached 4 roots
  !g.reserved
    && decide (1 ≤ g.nchunk) && decide (g.nchunk ≤ 64) && decide (g.nmemb ≤ 256) && g.rbuf % 256 == 0
    && decide (g.rbuf + 256 * g.nchunk ≤ 2097152)
    && (g.valid == [] || roots.length == 1)
    && (g.valid.all fun sw =>
      let e := g.entry sw
      let e0 := g.entry (g.valid.headD 0)
      g.toRoot sw 4 && eOp e == eOp e0 && eType e == eType e0 && swPair (eOp e) (eType e)
        && decide (eTenant e < 128) && (s.fns.any fun f => f.1 == eTenant e)
        && (s.ctxPriv c != 1 || eTenant e == s.ctxFn c))
    && g.members.all fun w => match s.mapCore tab w with
      | none => false
      | some core => coreRole core != 3 && decide (w / 1024 ≠ 3)
        && (g.valid == [] || (reach.contains (coreDie core / 8)
          && bitOn (eResult (g.entry (coreDie core / 8))) (coreDie core % 8)))

/-- GROUP_CONFIG: transaction arg.a writes a group's configuration, or is refused. -/
def State.groupConfig (s : State) (i : Nat) : State :=
  let t := s.txn i
  match t.ctl with
  | some (.group g) =>
    let x : Group := { cfg := t.data.set 0 (t.data.headD 0 &&& 0xFE) }
    if t.op ≠ opWRITE then s
    else if t.ctx < 65536 ∧ s.ctxPriv t.ctx ≠ 1 then s.failTxn i nsNO_RIGHTS
    else if t.off ≠ 0 ∨ t.arg ≠ 592 then s.failTxn i nsGROUP_INVALID
    else if (s.group g).windows ≠ [] then s.failTxn i nsGROUP_BUSY
    else if s.groupOk t.ctx x then (s.setGroup g x).okTxn i t.arg
    else s.failTxn i nsGROUP_INVALID
  | _ => s

def execGroupConfig (s : State) : Host.Outcome State Fault Refusal := event s fun s => s.groupConfig s.arg.a

/-! ### Notices (R287) -/

def rsLATE : Nat := 0
def rsNOWINDOW : Nat := 1
def rsNOTMEMBER : Nat := 2
def rsNOTCHILD : Nat := 3

/-- A notice to a core that pushed. -/
def State.notice (s : State) (g seq chunk reason sw : Nat) (x : Sender) : State :=
  let h := (s.group g).nhidx
  s.post { isMsg := true, hdr := mkHdr 7 false false 4 h x.lword x.lword s.ts,
           payload := bytesOfNat 16 (seq + chunk % 256 * 2 ^ 32 + reason * 2 ^ 56 + g % 4096 * 2 ^ 64),
           hidx := h, ctx := x.ctx, core := x.core, lcore := x.lword, key := 0xC000, sendTs := s.ts, launch := x.launch,
           sdie := some (32 + sw) }

/-- A dropped chunk: a notice to each core whose push it holds. -/
def State.dropPush (s : State) (p : Push) (reason : Nat) : State :=
  p.body.senders.foldl (fun s x => s.notice p.grp p.seq p.chunk reason p.sw x) s

/-! ### Arrival at a slot (R284 to R286) -/

/-- Children that slot x still awaits. -/
def State.missing (s : State) (x : Slot) : Nat :=
  joinFields 1 28 fun p => if bitOn (eChild ((s.group x.grp).entry x.sw)) p ∧ !(x.arr.any fun a => a.1 == p) then 1 else 0

def Slot.at (x : Slot) (sw g seq chunk : Nat) : Bool := x.sw == sw && x.grp == g && x.seq == seq && x.chunk == chunk

/-- The live window of a sequence. -/
def State.windowOf (s : State) (g seq : Nat) : Option Window := (s.group g).windows.find? (·.has seq)

/-- A chunk is recorded at its slot. -/
def State.record (s : State) (p : Push) : State :=
  let t := eTimeout ((s.group p.grp).entry p.sw)
  let new : Slot := { sw := p.sw, grp := p.grp, seq := p.seq, chunk := p.chunk, arr := [(p.port, p.body)], first := s.now,
                      until_ := if t = 0 then 0 else s.now + 3000 * t }
  match s.slots.findIdx? (·.at p.sw p.grp p.seq p.chunk) with
  | some i => { s with slots := s.slots.modify i fun x => { x with arr := tset {} x.arr p.port p.body } }
  | none => { s with slots := s.slots ++ [new] }

/-- A chunk arrives at a switch die's port. One that comes after its slot's expiry is late, whether or not the
slot has emitted by then (R286, R294). -/
def State.arrivePush (s : State) (p : Push) : State :=
  let g := s.group p.grp
  if p.leaf && !(p.body.senders.all fun x => g.members.contains x.lword) then s.dropPush p rsNOTMEMBER
  else match s.windowOf p.grp p.seq with
    | none => s.dropPush p rsNOWINDOW
    | some _ =>
      let e := g.entry p.sw
      if g.nchunk ≤ p.chunk then s.dropPush p rsNOWINDOW
      else if !eValid e || !bitOn (eChild e) p.port then s.dropPush p rsNOTCHILD
      else match s.slots.find? (·.at p.sw p.grp p.seq p.chunk) with
        | none => s.record p
        | some x =>
          if x.st ≠ 0 ∨ (x.until_ ≠ 0 ∧ x.until_ < s.now ∧ s.missing x ≠ 0) then s.dropPush p rsLATE
          else if x.arr.any fun a => a.1 == p.port then s.setGroup p.grp { g with dups := min 255 (g.dups + 1) }
          else s.record p

/-- Chunk i waits for one ahead of it on its link: a mesh link delivers in order, and a core's pushes keep
their order on its uplink, which those of two cores enter in either order (R274, R276; DESIGN CHOICE, log 211). -/
def State.pushWaits (s : State) (i : Nat) (p : Push) : Bool :=
  (s.pushes.take i).any fun q => q.sw == p.sw && q.port == p.port
    && (!p.leaf || q.body.senders.map (·.core) == p.body.senders.map (·.core))

/-- CHUNK_ARRIVAL: chunk arg.a of those on their way, the first of its link, arrives; where `bad` is not 0 it fails its end-to-end check,
is discarded, and the partitions whose pushes it holds take a device error of CAUSE 3 (R276, R355). -/
def State.chunkArrival (s : State) (i bad : Nat) : State :=
  match s.pushes[i]? with
  | none => s
  | some p =>
    let gone := { s with pushes := s.pushes.eraseIdx i }
    if s.pushWaits i p then s
    else if bad = 0 then gone.arrivePush p
    else (p.body.senders.map fun x => s.ctxFn x.ctx).eraseDups.foldl (fun s n => s.faultFn n 3 (32 + p.sw)) gone

def execChunkArrival (s : State) : Host.Outcome State Fault Refusal := event s fun s => s.chunkArrival s.arg.a s.arg.b

/-! ### Emission (R284, R286) -/

/-- A pair's partial marks together: the lowest-numbered switch, and whether there was more than one. -/
def mergePart (x y : Option (Nat × Nat) × Bool) : Option (Nat × Nat) × Bool :=
  match x.1, y.1 with
  | none, _ => (y.1, x.2 || y.2)
  | _, none => (x.1, x.2 || y.2)
  | some a, some b => (some (if b.1 < a.1 then b else a), true)

/-- What a slot emits: r over its arrived children, with `missing` of its own. -/
def Slot.emit (x : Slot) (op et missing : Nat) : Chunk :=
  let cs := x.arr.map (·.2)
  let (v, fl) := swReduce op et (cs.map (·.data))
  let (p, m) := cs.foldl (fun acc c => mergePart acc (c.part, c.multi))
    ((if missing = 0 then none else some (x.sw, missing)), false)
  { data := v, nv := fl.nv || cs.any (·.nv), ov := fl.ov || cs.any (·.ov), nx := fl.nx || cs.any (·.nx),
    part := p, multi := m, know := cs.foldl (fun k c => addKnow k c.know) [], senders := cs.flatMap (·.senders) }

/-- A window whose every pair has been delivered, with no marker left, ends (R281). -/
def State.checkWindow (s : State) (g seq : Nat) : State :=
  match s.windowOf g seq with
  | none => s
  | some w =>
    if w.delivered.length = w.count (s.group g) && !(s.slots.any fun x => x.grp == g && w.has x.seq && x.st == 2)
    then s.endWindow g w else s

/-- The root delivers: a result for each member, and one engine party for the pair (R287, R288). -/
def State.deliver (s : State) (x : Slot) (c : Chunk) : State :=
  match s.windowOf x.grp x.seq with
  | none => s
  | some w =>
    let g := s.group x.grp
    let (p, s) := s.newParty c.know
    let rs := (s.memberCores w.ctx g).map fun m =>
      ({ grp := x.grp, seq := x.seq, chunk := x.chunk, body := c, member := m.2, ctx := w.ctx, party := p,
         rbuf := g.rbuf, rhidx := g.rhidx, sw := x.sw, flit := s.nextAcc } : Result)
    let s := if rs = [] then s.endParty p else { s with nextAcc := s.nextAcc + 1, results := s.results ++ rs }
    let s := s.setGroup x.grp { g with windows := g.windows.map fun y =>
      if y.base = w.base then { y with delivered := (x.seq, x.chunk) :: y.delivered } else y }
    s.checkWindow x.grp x.seq

/-- Slot i emits, upward or at the root, with a mask of missing children. -/
def State.emitSlot (s : State) (i : Nat) (x : Slot) (missing : Nat) : State :=
  let e := (s.group x.grp).entry x.sw
  let c := x.emit (eOp e) (eType e) missing
  let x' : Slot := { x with st := if missing = 0 then 1 else 2, arr := [], until_ := s.now + 3000000 }
  let s := { s with slots := s.slots.set i x' }
  if eParent e = 31 then s.deliver x c
  else { s with pushes := s.pushes ++ [{ sw := meshTo x.sw (eParent e), port := meshBack (eParent e), grp := x.grp,
                                         seq := x.seq, chunk := x.chunk, body := c }] }

/-- SLOT_EMIT: slot arg.a, which has every child it awaits. -/
def State.slotEmit (s : State) (i : Nat) : State :=
  match s.slots[i]? with
  | none => s
  | some x => if x.st = 0 ∧ s.missing x = 0 then s.emitSlot i x 0 else s

def execSlotEmit (s : State) : Host.Outcome State Fault Refusal := event s fun s => s.slotEmit s.arg.a

/-- SLOT_TIMEOUT: the timeout of slot arg.a, which still misses children. -/
def State.slotTimeout (s : State) (i : Nat) : State :=
  match s.slots[i]? with
  | none => s
  | some x =>
    if x.st = 0 ∧ x.until_ ≠ 0 ∧ x.until_ ≤ s.now ∧ s.missing x ≠ 0 then s.emitSlot i x (s.missing x) else s

def execSlotTimeout (s : State) : Host.Outcome State Fault Refusal := event s fun s => s.slotTimeout s.arg.a

/-- SLOT_MARKER_EXPIRY: the 1 ms marker of slot arg.a. -/
def State.slotMarker (s : State) (i : Nat) : State :=
  match s.slots[i]? with
  | none => s
  | some x =>
    if x.st = 2 ∧ x.until_ ≤ s.now then
      { s with slots := s.slots.set i { x with st := 3 } }.checkWindow x.grp x.seq
    else s

def execSlotMarkerExpiry (s : State) : Host.Outcome State Fault Refusal := event s fun s => s.slotMarker s.arg.a

/-! ### Results (R287, R288) -/

/-- A result's payload. -/
def Result.payload (r : Result) (wref : Nat) : List Byte :=
  let (sw, missing) := r.body.part.getD (0, 0)
  bytesOfNat 16 (r.seq + r.chunk * 2 ^ 32 + r.body.part.isSome.toNat * 2 ^ 56 + wref * 2 ^ 68 + r.body.nx.toNat * 2 ^ 70
    + r.body.ov.toNat * 2 ^ 71 + r.body.nv.toNat * 2 ^ 72 + r.body.multi.toNat * 2 ^ 73 + sw * 2 ^ 74
    + missing * 2 ^ 76 + r.grp * 2 ^ 104)

/-- The result's lines at a member: WREF. -/
def State.landResult (s : State) (r : Result) (core : Nat) : Nat × State :=
  let pad := padOf core
  let off := r.rbuf + 256 * r.chunk
  if s.padSize r.ctx pad < off + 256 then (1, s)
  else
    let ls := linesOf (padNode pad) off 256
    s.seeing r.ctx pad fun s =>
      if (s.race r.party aWrite ls).isSome then (2, s)
      else
        let who := whoWord 0 r.rhidx 4 ((r.body.senders.head?.map (·.lword)).getD 0)
        let s := (s.touchAll r.party who aWrite ls).overwrite (padAddr pad off) 256
        (0, s.poke (padAddr pad off) (bytesOfNat 256 r.body.data.toNat))

/-- RESULT_DELIVERY: result arg.a of those at the roots reaches its member, behind those that its switch die sent to
the same die before it (R276). -/
def State.resultDelivery (s : State) (i : Nat) : State :=
  match s.results[i]? with
  | none => s
  | some r =>
    if (s.results.take i).any fun x => (s.resultWay x).isSome && s.resultWay x == s.resultWay r then s else
    let s := { s with results := s.results.eraseIdx i }
    let s := match s.mapCore r.ctx r.member with
      | none => s
      | some core =>
        let (wref, s) := s.landResult r core
        let hdr := mkHdr 7 false false 4 r.rhidx r.member r.member s.ts
        s.post { isMsg := true, hdr := hdr, payload := r.payload wref, hidx := r.rhidx,
                 ctx := r.ctx, core := core, lcore := r.member, key := 0xC000, sendTs := s.ts, know := s.carry r.party,
                 launch := r.body.senders.head?.bind (·.launch), sdie := some (32 + r.sw), flit := r.flit }
    if s.results.any fun x => x.party == r.party then s else s.endParty r.party

def execResultDelivery (s : State) : Host.Outcome State Fault Refusal := event s fun s => s.resultDelivery s.arg.a

/-! ### Links (R274 to R276)

Numbers of links: 4 d + L for a torus link out of die d; 128 + d for an uplink; 160 + 4 s + k for mesh link
k of switch die s; 176 + 16 s + p for its external port p. -/

/-- The torus link out of die a on the fixed route to die b: x first, each by its shorter way, the + way where
both are equally long (R274). -/
def routeStep (a b : Nat) : Nat :=
  let dx := (b % 8 + 8 - a % 8) % 8
  let dy := (b / 8 + 4 - a / 8) % 4
  if dx ≠ 0 then (if dx ≤ 4 then 0 else 1) else if dy ≤ 2 then 2 else 3

/-- The numbers of the links on the route from die a to die b, at most 6 of them. -/
def route (a b : Nat) : Nat → List Nat
  | 0 => []
  | f + 1 => if a = b then [] else (4 * a + routeStep a b) :: route (torusTo a (routeStep a b)) b f

/-- The link numbers there are: a switch die has three mesh links and 16 external ports (R11). -/
def isLink (k : Nat) : Bool := decide (k < 240) && !(decide (160 ≤ k) && decide (k < 176) && k % 4 == 3)

/-- Whether a group of function n has its tree over mesh link (sw, port). -/
def State.treeCrosses (s : State) (n sw port : Nat) : Bool :=
  s.groups.any fun e =>
    let bears (a p : Nat) : Bool := eValid (e.2.entry a) && eTenant (e.2.entry a) == n
      && (eParent (e.2.entry a) == p || bitOn (eResult (e.2.entry a)) p)
    bears sw port || bears (meshTo sw port) (meshBack port)

/-- Whether traffic of function n crosses link k. A torus link: a route between two of its dies. An uplink:
its die. A mesh link: a tree of its groups, or the host's way between S0 and its dies. An external port: the
dies of its switch die. -/
def State.crosses (s : State) (n k : Nat) : Bool :=
  let ds := s.diesOf n
  if k < 128 then ds.any fun a => ds.any fun b => (route a b 6).contains k
  else if k < 160 then ds.contains (k - 128)
  else if k < 176 then
    let sw := (k - 160) / 4
    let port := 8 + (k - 160) % 4
    s.treeCrosses n sw port || ((sw == 0 || meshTo sw port == 0) && ds.any fun d => d / 8 == sw + meshTo sw port)
  else ds.any fun d => d / 8 == (k - 176) / 16

/-- A failed link is a device error of every partition whose traffic crosses it. -/
def State.linkFailed (s : State) (k : Nat) : State :=
  (s.fns.filter fun e => s.crosses e.1 k).foldl (fun s e => s.faultFn e.1 2 k) s

def State.link (s : State) (k : Nat) : Link := tget {} s.links k
def State.setLink (s : State) (k : Nat) (l : Link) : State := { s with links := tset {} s.links k l }

/-- LINK_FLIT: flit arg.b arrives on link arg.a, with a bad link check where arg.c is not 0. The receiver
accepts only the next number, and acknowledges it. -/
def State.linkFlit (s : State) (k n bad : Nat) : State :=
  let l := s.link k
  if !isLink k ∨ l.failed ∨ l.nextSeq < n then s
  else
    let l := if n = l.nextSeq then { l with nextSeq := n + 1, held := l.held ++ [n] } else l
    if bad ≠ 0 ∨ n ≠ l.expect then s.setLink k l
    else s.setLink k { l with expect := n + 1, held := l.held.filter fun x => decide (n < x), resends := 0 }

def execLinkFlit (s : State) : Host.Outcome State Fault Refusal := event s fun s => s.linkFlit s.arg.a s.arg.b s.arg.c

/-- LINK_RESEND: link arg.a sends what it holds again, from the first missing number; where arg.c is not 0,
that fails as well, and the eighth failure in a row fails the link. -/
def State.linkResend (s : State) (k bad : Nat) : State :=
  let l := s.link k
  if !isLink k ∨ l.failed ∨ l.held = [] then s
  else if bad = 0 then s.setLink k { l with expect := l.nextSeq, held := [], resends := 0 }
  else if l.resends < 7 then s.setLink k { l with resends := l.resends + 1 }
  else (s.setLink k { l with resends := 8, failed := true }).linkFailed k

def execLinkResend (s : State) : Host.Outcome State Fault Refusal := event s fun s => s.linkResend s.arg.a s.arg.c

end Sys2Proof.Machine
end

