-- ==== Sys2Proof/Machine/Pages.lean ====
section
/-! DEFINITION. Page commands (R261 to R271). -/

namespace Sys2Proof.Machine

/-! ### Writes of control objects, each a step of its own -/

/-- Transaction i, where it is a write of `size` bytes at `off` of function n's control object (R324). -/
def State.vfWrite (s : State) (i off size : Nat) : Option (Nat × Txn) :=
  let t := s.txn i
  match t.ctl with
  | some (.vfctl n) => if t.op = opWRITE ∧ t.off = off ∧ t.arg = size then some (n, t) else none
  | _ => none

/-- Whether a transaction's issuer is of function n, at `level` or the hypervisor's; the host counts as hypervisor (R264). -/
def State.issuerAt (s : State) (t : Txn) (n level : Nat) : Bool :=
  s.ctxFn t.ctx == n && decide (level ≤ s.ctxPriv t.ctx) && decide (s.ctxPriv t.ctx ≤ 2)

/-! ### The record and the status word (R264, R265) -/

def pcFRAME (x : Nat) : Nat := bits x 192 64
def pcCOUNT (x : Nat) : Nat := bits x 160 16
def pcPAGE (x : Nat) : Nat := bits x 64 64
def pcHIDX (x : Nat) : Nat := bits x 44 20
def pcOP (x : Nat) : Nat := bits x 0 4

def psBADOP : Nat := 1
def psNOT_PERMITTED : Nat := 2
def psSTATE : Nat := 3
def psFULL : Nat := 4
def psSETTLED : Nat := 5

def pageStatus (status done psize q : Nat) : Word := w64 (status + done % 65536 * 2 ^ 16 + psize * 2 ^ 32 + q * 2 ^ 34)

/-- Reserved bits and a COUNT of 0. -/
def pcBad (x : Nat) : Bool :=
  bits x 176 16 != 0 || bits x 128 32 != 0 || bits x 4 40 != 0 || pcCOUNT x == 0
    || (pcOP x == 9 && bits x (192 + 45) 19 != 0) || (pcOP x == 8 && pcCOUNT x != 1)

/-- Keys of pages and granules in `Txn.paged`. -/
def pageKey (i p : Nat) : Nat := 2 * (i * 2 ^ 32 + p)
def granKey (n g : Nat) : Nat := 2 * (n * 2 ^ 64 + g) + 1

/-- Keys of the pages or granules that a command's record names, those it refuses among them. -/
def State.cmdKeys (s : State) (t : Txn) : List Nat :=
  let x := natOfBytes t.data
  let all (key : Nat → Nat) : List Nat := (List.range (pcCOUNT x)).map fun j => key (pcPAGE x + j)
  if pcOP x < 5 ∨ pcOP x = 8 then match (s.hent t.ctx (pcHIDX x)).node with
    | .made k => all (pageKey k)
    | _ => []
  else if pcOP x < 8 then match t.ctl with
    | some (.vfctl n) => all (granKey n)
    | _ => []
  else []

/-- The command's work is done; it waits to complete with this word, and held accesses on its pages with it. -/
def State.pageEnd (s : State) (i : Nat) (w : Word) : State :=
  s.updTxn i fun t => { t with paged := some (s.cmdKeys t), spec := w }

/-- Works on `k` pages from number j upward, and stops at the first it refuses: status, pages done. -/
def pageLoop (f : State → Nat → Except Nat State) : Nat → Nat → State → Nat × Nat × State
  | 0, j, s => (0, j, s)
  | k + 1, j, s => match f s j with
    | .error st => (st, j, s)
    | .ok s => pageLoop f k (j + 1) s

/-- Transaction i's record, where it is a page command of this OP that has not begun. -/
def State.pageCmd (s : State) (i op : Nat) : Option (Nat × Txn × Nat) :=
  match s.vfWrite i 0x100 32 with
  | some (n, t) => if t.paged.isNone ∧ pcOP (natOfBytes t.data) = op then some (n, t, natOfBytes t.data) else none
  | none => none

/-- What every command of a level checks first. -/
def State.pageLevel (s : State) (i op level : Nat) (f : Nat → Txn → Nat → State) : State :=
  match s.pageCmd i op with
  | none => s
  | some (n, t, x) =>
    if pcBad x then s.pageEnd i (pageStatus psBADOP 0 0 0)
    else if !s.issuerAt t n level then s.pageEnd i (pageStatus psNOT_PERMITTED 0 0 0)
    else f n t x

/-! ### First-stage commands (R262, R264, R269) -/

/-- Code of an object's page size. -/
def psizeCode (ps : Nat) : Nat := if ps = 2 ^ 30 then 2 else if ps = 2 ^ 21 then 1 else 0

/-- Tier of a guest frame: 0 HBM, 1 LPDDR; none where no second stage maps its granule. -/
def State.frameTier (s : State) (n f : Nat) : Option Nat := (s.stage2 n (f / 32)).map granTier

/-- First frame of a resident page of a made object. -/
def State.pageFrame (s : State) (k p : Nat) : Option Nat :=
  let m := s.madeN k
  match tget .own m.pages p with
  | .frame f => some f
  | .own => if m.kind = kMemo ∧ m.tier = 4 then none else some (m.base + p * (pageSize m.size / 65536))
  | _ => none

/-- QSTATE (a page in host memory has none of the four: a free value, log 103): 0 absent, 1 resident in HBM, 2 compressed, 3 resident in LPDDR. A frame no second stage maps
counts by the layout's region. -/
def State.pageState (s : State) (k p : Nat) : Nat :=
  let m := s.madeN k
  match tget .own m.pages p with
  | .absent => 0
  | .zone => 2
  | _ => match s.pageFrame k p with
    | none => Config.hostPageState.toNat
    | some f => match s.frameTier m.fn f with
      | some t => 1 + 2 * t
      | none => if f < lpBase * 32 then 1 else 3

/-- Whether a page is resident in HBM, in memory that the second stage maps. -/
def State.inHbm (s : State) (k p : Nat) : Bool := match s.pageFrame k p with
  | some f => s.frameTier (s.madeN k).fn f == some 0
  | none => false

/-- Model address of a guest frame. -/
def State.frameAddr (s : State) (n f : Nat) : Option Nat :=
  (s.stage2 n (f / 32)).map fun g => g * 2 ^ 21 + f % 32 * 65536

/-- Model address of a page in the compressed zone. -/
def zoneAddr (k p : Nat) : Nat := ownAddr k (2 ^ 43 + p * 65536)

/-- A new state of a page, in one step; lookups may find the old one until the command completes. -/
def State.setPage (s : State) (i k p : Nat) (new : Page) : State :=
  let old := tget .own (s.madeN k).pages p
  let s := s.updMade k fun m => { m with pages := tset .own m.pages p new }
  { s with oldMaps := s.oldMaps ++ [{ txn := i, s1 := some (k, p, old) }] }

/-- The frames of a page lie in the grant, are aligned, and lie in one tier, which is returned. -/
def State.frameOk (s : State) (n f ps : Nat) : Except Nat Nat :=
  let cnt := ps / 65536
  let gs := (List.range ((f + cnt - 1) / 32 - f / 32 + 1)).map fun j => s.frameTier n ((f / 32 + j) * 32)
  match gs with
  | some t :: r =>
    if r.contains none then .error psNOT_PERMITTED
    else if f % cnt ≠ 0 ∨ r.any (· != some t) then .error psSTATE
    else .ok t
  | _ => .error psNOT_PERMITTED

/-- Copies `cnt` units of 64 KiB to frames of function n from `f` upward, from where `src` says. -/
def State.copyUnits (s : State) (n f cnt : Nat) (src : Nat → Option Nat) : State :=
  (List.range cnt).foldl (fun s j => match src j, s.frameAddr n (f + j) with
    | some a, some b => (s.copyRange a b 65536).dirty (some (n, f + j))
    | _, _ => s) s

/-- A first-stage command: page by page, `f` acts on page p of made object k with its frame. -/
def State.stage1Cmd (s : State) (i op : Nat) (f : State → Nat → Nat → Nat → Except Nat State) : State :=
  s.pageLevel i op 1 fun _ t x =>
    let h := s.hent t.ctx (pcHIDX x)
    if !h.used then s.failTxn i nsREVOKED
    else match h.node with
      | .made k =>
        let m := s.madeN k
        if !m.paged then s.pageEnd i (pageStatus psSTATE 0 0 0)
        else
          let ps := pageSize m.size
          let q := if op = 8 then s.pageState k (pcPAGE x) else 0
          let (st, done, s') := pageLoop (fun s j =>
            let p := pcPAGE x + j
            if footprint m.size / ps ≤ p ∨ (m.kind = kMull ∧ op ≠ 8) then .error psSTATE
            else f s k p (pcFRAME x + j * (ps / 65536))) (pcCOUNT x) 0 s
          s'.pageEnd i (pageStatus st done (psizeCode ps) (if st = 0 then q else 0))
      | _ => s.pageEnd i (pageStatus psSTATE 0 0 0)

/-- MAP: an absent page becomes resident at the frame. -/
def State.pageMap (s : State) (i : Nat) : State :=
  s.stage1Cmd i 0 fun s k p f => match s.frameOk (s.madeN k).fn f (pageSize (s.madeN k).size) with
    | .error st => .error st
    | .ok _ => if tget .own (s.madeN k).pages p ≠ .absent then .error psSTATE else .ok (s.setPage i k p (.frame f))

def execPageMap (s : State) : Host.Outcome State Fault Refusal := event s fun s => s.pageMap s.arg.a

/-- UNMAP: the page becomes absent, and a compressed copy is discarded. -/
def State.pageUnmap (s : State) (i : Nat) : State :=
  s.stage1Cmd i 1 fun s k p _ =>
    let s := if tget .own (s.madeN k).pages p = .zone then s.wipe (zoneAddr k p) 65536 else s
    .ok (s.setPage i k p .absent)

def execPageUnmap (s : State) : Host.Outcome State Fault Refusal := event s fun s => s.pageUnmap s.arg.a

/-- Bytes that the function's compressed pages take in a die's zone, and the zone's size (R269). -/
def State.zoneUsed (s : State) (n die : Nat) : Nat :=
  ((s.made.filter fun e => e.2.fn == n && e.2.home == die).map fun e =>
    ((e.2.pages.filter fun p => p.2 = .zone).map fun p => Config.compressedBytes (takeRange s.mem (zoneAddr e.1 p.1) 65536)).sum).sum

/-- COMPRESS: a 64 KiB page resident in HBM goes into its stack's zone, if it fits. -/
def State.pageCompress (s : State) (i : Nat) : State :=
  s.stage1Cmd i 2 fun s k p _ =>
    let m := s.madeN k
    if pageSize m.size ≠ 65536 ∨ !s.inHbm k p then .error psSTATE
    else match (s.pageFrame k p).bind (s.frameAddr m.fn) with
      | none => .error psSTATE
      | some a =>
        let z := (s.fn m.fn).recd.zone
        if z = 0 ∨ z * 2 ^ 30 < s.zoneUsed m.fn m.home + Config.compressedBytes (takeRange s.mem a 65536) then .error psFULL
        else .ok ((s.copyRange a (zoneAddr k p) 65536).setPage i k p .zone)

def execPageCompress (s : State) : Host.Outcome State Fault Refusal := event s fun s => s.pageCompress s.arg.a

/-- Brings a compressed page to a frame. -/
def State.fromZone (s : State) (i k p f : Nat) : State :=
  let s := s.copyUnits (s.madeN k).fn f 1 fun _ => some (zoneAddr k p)
  (s.wipe (zoneAddr k p) 65536).setPage i k p (.frame f)

/-- EXPAND: a compressed page becomes resident at a frame in HBM. -/
def State.pageExpand (s : State) (i : Nat) : State :=
  s.stage1Cmd i 3 fun s k p f => match s.frameOk (s.madeN k).fn f (pageSize (s.madeN k).size) with
    | .error st => .error st
    | .ok t => if t ≠ 0 ∨ tget .own (s.madeN k).pages p ≠ .zone then .error psSTATE else .ok (s.fromZone i k p f)

def execPageExpand (s : State) : Host.Outcome State Fault Refusal := event s fun s => s.pageExpand s.arg.a

/-- DEMOTE: a page in HBM or the zone becomes resident at a frame in LPDDR. -/
def State.pageDemote (s : State) (i : Nat) : State :=
  s.stage1Cmd i 4 fun s k p f =>
    let m := s.madeN k
    match s.frameOk m.fn f (pageSize m.size) with
    | .error st => .error st
    | .ok t =>
      if t ≠ 1 then .error psSTATE
      else if tget .own m.pages p = .zone then .ok (s.fromZone i k p f)
      else if !s.inHbm k p then .error psSTATE
      else
        let old := (s.pageFrame k p).getD 0
        .ok ((s.copyUnits m.fn f (pageSize m.size / 65536) fun j => s.frameAddr m.fn (old + j)).setPage i k p (.frame f))

def execPageDemote (s : State) : Host.Outcome State Fault Refusal := event s fun s => s.pageDemote s.arg.a

/-- QUERY: the page's state in QSTATE. -/
def State.pageQuery (s : State) (i : Nat) : State := s.stage1Cmd i 8 fun s _ _ _ => .ok s

def execPageQuery (s : State) : Host.Outcome State Fault Refusal := event s fun s => s.pageQuery s.arg.a

/-! ### Second-stage commands (R264, R270) -/

/-- A machine granule that the function may map: on a die of its partition, in the HBM share of a quarto it
holds below the save region, or in LPDDR that no other partition's share takes in (R261, R320, R322; log 105). No
granule is withheld for the third-level translation table, whose 256 MiB of each die's HBM the manual does not place
(R13): DESIGN CHOICE (log 168). -/
def State.granuleOk (s : State) (n g : Nat) : Bool :=
  let idx := g / 64
  let d := granDie g
  let mine := (List.range 4).any fun q => s.holds n (q + 4 * d)
  if granTier g = 0 then decide (idx < 32768) && s.holds n (idx / 8192 + 4 * d) && decide (idx % 8192 < 7936)
  else mine && decide (idx < 131072) && (match s.ownerOf (idx / 32768 + 4 * d) with
    | some o => o == n
    | none => true)

/-- A new second-stage entry of a guest granule. -/
def State.set2 (s : State) (i n gg word : Nat) : State :=
  let old := tget 0 (s.fn n).s2 gg
  let s := s.updFn n fun f => { f with s2 := tset 0 f.s2 gg word }
  { s with oldMaps := s.oldMaps ++ [{ txn := i, s2 := some (n, gg, old) }] }

/-- Whether a guest granule holds part of a mull region's replica: it takes no command but QUERY (R297). -/
def State.holdsReplica (s : State) (n gg : Nat) : Bool :=
  s.mull.any fun e => e.2.live && e.2.fn == n && e.2.frames.any fun x => x.2.any fun f =>
    decide (f / 32 ≤ gg) && decide (gg ≤ (f + footprint (4096 * e.2.stripes) / 65536 - 1) / 32)

/-- A second-stage command: granule by granule. -/
def State.stage2Cmd (s : State) (i op : Nat) (f : State → Nat → Nat → Nat → Except Nat State) : State :=
  s.pageLevel i op 2 fun n _ x =>
    let (st, done, s) := pageLoop (fun s j =>
      if s.holdsReplica n (pcPAGE x + j) then .error psSTATE else f s n (pcPAGE x + j) (pcFRAME x + j)) (pcCOUNT x) 0 s
    s.pageEnd i (pageStatus st done 0 0)

/-- MAP2. -/
def State.pageMap2 (s : State) (i : Nat) : State :=
  s.stage2Cmd i 5 fun s n gg g => if s.granuleOk n g then .ok (s.set2 i n gg (g + 2)) else .error psNOT_PERMITTED

def execPageMap2 (s : State) : Host.Outcome State Fault Refusal := event s fun s => s.pageMap2 s.arg.a

/-- UNMAP2. -/
def State.pageUnmap2 (s : State) (i : Nat) : State :=
  s.stage2Cmd i 6 fun s n gg _ => if (s.stage2 n gg).isNone then .error psSTATE else .ok (s.set2 i n gg 1)

def execPageUnmap2 (s : State) : Host.Outcome State Fault Refusal := event s fun s => s.pageUnmap2 s.arg.a

/-- Moves of a granule that lie in the window (t − WINDOW, t]. -/
def State.recentMoves (s : State) (n gg : Nat) : List Nat :=
  (tget [] (s.fn n).moves gg).filter fun t => decide (s.now < t + (s.fn n).recd.window * 3000000)

/-- One granule of a MOVE. -/
def State.moveOne (s : State) (i n gg g : Nat) : Except Nat State :=
  if !s.granuleOk n g then .error psNOT_PERMITTED
  else match s.stage2 n gg with
    | none => .error psSTATE
    | some old =>
      if granDie old = granDie g then .error psSTATE
      else if (s.fn n).recd.maxmoves ≤ (s.recentMoves n gg).length then .error psSETTLED
      else
        let s := s.updFn n fun f => { f with moves := tset [] f.moves gg (s.now :: s.recentMoves n gg) }
        .ok ((s.copyRange (old * 2 ^ 21) (g * 2 ^ 21) (2 ^ 21)).set2 i n gg (g + 2))

/-- A refusal with SETTLED leaves a PAGE_SETTLED record (R270, R338). -/
def State.noteSettled (s : State) (n gg : Nat) : State :=
  match s.stage2 n gg with
  | some g => s.traceEvent (granDie g) 0 8 0 0 0 0 0 g
  | none => s

/-- MOVE. -/
def State.pageMove (s : State) (i : Nat) : State :=
  let s' := s.stage2Cmd i 7 fun s n gg g => s.moveOne i n gg g
  match s.pageCmd i 7 with
  | some (n, _, x) =>
    let w := (s'.txn i).spec.toNat
    if bits w 0 8 = psSETTLED then s'.noteSettled n (pcPAGE x + bits w 16 16) else s'
  | none => s'

def execPageMove (s : State) : Host.Outcome State Fault Refusal := event s fun s => s.pageMove s.arg.a

/-! ### ABORT, refused operations, and completion (R264, R266, R268) -/

/-- Ends an access that is held. -/
def State.endHeld (s : State) (i : Nat) : State := s.failTxn i nsBUSY

/-- ABORT: ends held accesses of the function whose fault record had this FSEQ, CORE and host bit. DONE counts pages
or granules (R265), and an ABORT completes none (log 101). -/
def State.pageAbort (s : State) (i : Nat) : State :=
  s.pageLevel i 9 1 fun n _ x =>
    let fr := pcFRAME x
    let due := (s.txns.filter fun e => e.2.held == some (bits fr 0 32) && s.ctxFn e.2.ctx == n
      && e.2.host.isSome == bitOn fr 44 && (if e.2.host.isSome then 0 else e.2.lword) == bits fr 32 12).map (·.1)
    (due.foldl State.endHeld s).pageEnd i (pageStatus 0 0 0 0)

def execPageAbort (s : State) : Host.Outcome State Fault Refusal := event s fun s => s.pageAbort s.arg.a

/-- PAGE_BADOP: OP 10 to 15. -/
def State.pageBadop (s : State) (i : Nat) : State :=
  match s.vfWrite i 0x100 32 with
  | some (_, t) =>
    if t.paged.isNone ∧ 10 ≤ pcOP (natOfBytes t.data) then s.pageEnd i (pageStatus psBADOP 0 0 0) else s
  | none => s

def execPageBadop (s : State) : Host.Outcome State Fault Refusal := event s fun s => s.pageBadop s.arg.a

/-- Keys of the pages and granules of bytes [off, off + n) of made object k. -/
def State.rangeKeys (s : State) (k off n : Nat) : List Nat :=
  let m := s.madeN k
  let ps := pageSize m.size
  let ps' := min ps (2 ^ 21)
  let first := off / ps'
  (List.range ((off + n - 1) / ps' - first + 1)).flatMap fun j =>
    let o := (first + j) * ps'
    pageKey k (o / ps) :: (match s.pageFrame k (o / ps) with
      | some f => [granKey m.fn ((f * 65536 + o % ps) / 2 ^ 21)]
      | none => [])

/-- Keys of the whole object that context c's handle names. -/
def State.tableKeys (s : State) (c handle : Nat) : List Nat :=
  match (s.hent c handle).node with
  | .made k => s.rangeKeys k 0 (s.madeN k).size
  | _ => []

/-- Keys of the pages and granules that an access touches: a made object's, or a slot object's tables'. -/
def State.accessKeys (s : State) (t : Txn) : List Nat :=
  match s.hlook t.ctx t.ha.1 t.ha.2 with
  | some e => match e.node with
    | .made k => s.rangeKeys k t.off t.arg
    | .ctxslot n k => match s.slotCtx n k with
      | some c =>
        let x := s.ctx c
        s.tableKeys c (bits x.hbase.toNat 0 20) ++ s.tableKeys c (bits x.coretab.toNat 0 20) ++ s.tableKeys c (bits x.routetab.toNat 0 20)
      | none => []
    | _ => []
  | none => []

/-- A held access on one of the pages retries: it is judged anew (R268). -/
def State.retryHeld (s : State) (keys : List Nat) (i : Nat) : State :=
  if (s.txn i).held.isSome ∧ (s.accessKeys (s.txn i)).any keys.contains then (s.updTxn i fun t => { t with held := none }).txnAct i
  else s

/-- PAGE_COMMAND_DONE: command arg.a completes: no lookup uses an entry it made stale, held accesses on its
pages retry, and its status word is the result's VALUE. -/
def State.pageDone (s : State) (i : Nat) : State :=
  let t := s.txn i
  match t.paged with
  | none => s
  | some keys =>
    if t.res.isSome then s else
    let s := { s with oldMaps := s.oldMaps.filter fun o => o.txn != i }
    let s := s.okTxn i t.spec.toNat
    (s.txns.map (·.1)).foldl (fun s j => s.retryHeld keys j) s

def execPageCommandDone (s : State) : Host.Outcome State Fault Refusal := event s fun s => s.pageDone s.arg.a

end Sys2Proof.Machine
end

