-- ==== Sys2Proof/Machine/CtlRegs.lean ====
section
/-! DEFINITION. Control registers (R60, R109, R117, R316, R319, R322, R323, R325, R327). -/

namespace Sys2Proof.Machine

/-! ### World bits (R323) -/

/-- Whether some second stage maps the machine granule. -/
def State.mapped (s : State) (g : Nat) : Bool :=
  s.fns.any fun e =>
    (e.2.s2.any fun x => x.2 == g + 2) ||
    (let idx := g / 64
     let q := (if granTier g = 0 then idx / 8192 else idx / 32768) + 4 * granDie g
     match (s.quartosOf e.1).findIdx? (· == q) with
     | some j =>
       let gg := if granTier g = 0 then j * 8192 + idx % 8192 else lpBase + j * 32768 + idx % 32768
       s.stage2 e.1 gg == some g
     | none => false)

/-- Whether some function's QUARTOS record holds the block. -/
def State.blockHeld (s : State) (kind idx : Nat) : Bool :=
  match kind with
  | 0 => (s.ownerOf idx).isSome
  | 1 => (s.ownerOf (idx / 8 % 32 / 8 + 4 * (idx / 256))).isSome
  | 2 => (List.range 32).any fun i => (s.ownerOf (32 * idx + i)).isSome
  | 3 => (List.range 4).any fun i => (s.ownerOf (4 * idx + i)).isSome
  | 4 => (s.ownerOf idx).isSome
  | _ => s.mapped idx

def worldRange (kind : Nat) : Nat :=
  match kind with
  | 0 => 128 | 1 => 8192 | 2 => 4 | 3 => 32 | 4 => 128 | 5 => 2 ^ 23 | _ => 0

/-- Whether an INDEX names a block or granule that exists: an HBM stack has 32,768 granules (R13, R323). -/
def worldIndex (kind idx : Nat) : Bool :=
  decide (idx < worldRange kind) && !(kind == 5 && granTier idx == 0 && decide (32768 ≤ idx / 64))

/-- A write to worldctl (R323). -/
def State.worldWrite (s : State) (v : Word) : State :=
  let kind := bits v.toNat 0 3
  let idx := bits v.toNat 16 48
  let keep := setBits (setBits v.toNat 4 3 0) 9 7 0
  if !worldIndex kind idx ∨ s.blockHeld kind idx then
    { s with worldctl := w64 (setBits (setBits keep 7 1 0) 8 1 1) }
  else
    { s with worldctl := w64 (setBits (setBits keep 7 1 1) 8 1 0),
             worlds := tset false s.worlds (kind * 2 ^ 48 + idx) (bitOn v.toNat 3) }

/-! ### Slices ended by their supervisor (R327) -/

/-- R328 begins for the running context of function n: a new tick. -/
def State.endSlice (s : State) (n why : Nat) : State :=
  s.updFn n fun f => { f with phase := .ending why [] [] [], tickStart := s.now, tick := f.tick + 1 }

/-- Whether context c is the running context's supervisor (R327): the one that governs it, or itself where it is a
supervisor. -/
def State.yields (s : State) (n c : Nat) : Bool :=
  let cur := (s.fn n).cur
  if (s.ctx cur).priv = 0 then c == (s.ctx cur).govern else c == cur

/-- slicectl.YIELD, written by context c: the running slice of the function ends now. -/
def State.yieldSlice (s : State) (n c : Nat) : State :=
  if (s.fn n).phase = .run ∧ s.yields n c then s.endSlice n 1 else s

/-- Contexts of a function in the rotation, in ascending ctxid (R327). -/
def State.rotation (s : State) (n : Nat) : List Nat := (s.ctxs.filter fun e => e.2.live && e.2.fn == n).map (·.1)

/-! ### Reading -/

/-- Every die's GATE word in the present window: the last that has begun (R319). -/
def State.gatesNow (s : State) : Tab Word :=
  s.gateNext.foldl (fun g e => if e.1 ≤ s.now then e.2 else g) s.gate

/-- coreid (R109). -/
def State.coreid (s : State) : Word :=
  w64 (s.t.lcore % 4096 + s.cur % 8 * 2 ^ 12 + s.priv * 2 ^ 16 + (s.ctxWorld s.t.ctx).toNat * 2 ^ 18 + s.t.invec.toNat * 2 ^ 19)

/-- partmask (R322). -/
def State.partmask (s : State) (n : Nat) : Word :=
  let q := (s.fn n).recd.quartos.toNat
  w64 (bits q (4 * coreDie s.core_) 4 + (joinFields 1 32 fun d => if bits q (4 * d) 4 = 0 then 0 else 1) * 16)

/-- slicectl: SLOT is the running context's position in the rotation. -/
def State.slicectl (s : State) (n : Nat) : Word := w64 (((s.rotation n).findIdx? (· == (s.fn n).cur)).getD 0 % 16)

def State.crRead (s : State) (i : Nat) : Word :=
  let t := s.t
  let c := s.ctx t.ctx
  let n := s.ctxFn t.ctx
  let f := s.fn n
  match i with
  | 0x000 => t.actinfo
  | 0x001 => t.actstart
  | 0x002 => t.fpflags.zeroExtend 64
  | 0x003 => t.rmode.zeroExtend 64
  | 0x004 => t.tcause
  | 0x005 => t.taddr
  | 0x006 => t.tepc
  | 0x007 => t.tinfo
  | 0x008 => s.coreid
  | 0x009 => w64 (t.wdEnd - s.now)
  | 0x00A => t.xferid
  | 0x040 => c.tvec
  | 0x041 => c.tscratch
  | 0x042 => w64 t.ctx
  | 0x043 => c.hbase
  | 0x044 => c.htsize
  | 0x045 => c.coretab
  | 0x046 => c.routetab
  | 0x047 => s.slicectl n
  | 0x048 => c.dvec
  | 0x100 => f.hvvec
  | 0x101 => f.s2base
  | 0x102 => s.partmask n
  | 0x103 => f.l2limit
  | 0x104 => f.padlimit
  | 0x105 => f.hdvec
  | 0x110 => f.hbmcap
  | 0x111 => f.l2cap
  | 0x112 => f.linkcap
  | 0x113 => f.portcap
  | 0x118 => tget 0 s.afr (coreDie s.core_)
  | 0x119 => tget 0 s.gatesNow (coreDie s.core_)
  | 0x1C0 => s.smvec
  | 0x1C1 => s.worldctl
  | _ => 0

/-! ### Writing -/

/-- Read-only at the level (R109). -/
def crReadOnly (priv i : Nat) : Bool :=
  i == 0 || i == 1 || i == 8 || i == 9 || i == 0xA || i == 0x42 || i == 0x102 || i == 0x118 || i == 0x119
    || (priv == 0 && (i == 4 || i == 5 || i == 6 || i == 7))

/-- Writes only the bits of `mask`. -/
def masked (old v : Word) (mask : Nat) : Word := (old &&& ~~~(w64 mask)) ||| (v &&& w64 mask)

/-- Bits [51:0] of the trap vectors and [51:32] of the dispatch vectors (R109). -/
def vecMask : Nat := 2 ^ 52 - 1
def dvecMask : Nat := 2 ^ 52 - 2 ^ 32

/-- Beats per µs of each kind of resource, and the largest sum of caps (R316). -/
def capTotal (capacity : Nat) : Nat := 15 * capacity / 16

/-- The cap that fits beside the other partitions' caps (R316). -/
def State.fitCap (s : State) (n v capacity : Nat) (get : Fn → Word) : Word :=
  let others := ((s.fns.filter fun e => e.1 != n).map fun e => (get e.2).toNat).sum
  w64 (min (v % 2 ^ 20) (capTotal capacity - others))

/-- The nearest value in range (R322). -/
def clampTo (v lo hi : Nat) : Nat := if v < lo then lo else if hi < v then hi else v

/-- A register's write. R109's table has taddr and tinfo RW at supervisor and above, and their layouts (R102, R109) mark
their fields RO: the model takes the table, and the whole word is written (DESIGN CHOICE, log 216). -/
def State.crWrite (s : State) (i : Nat) (v : Word) : State :=
  let c := s.t.ctx
  let n := s.ctxFn c
  match i with
  -- a value with reserved bits alone is no write of the flags: R117's own case (DEDUCED, log 185)
  | 0x002 => if v ≠ 0 ∧ v.toNat % 32 = 0 then s else s.updT fun t => { t with fpflags := v.truncate 5 }
  | 0x003 => if 5 ≤ bits v.toNat 0 3 then s else s.updT fun t => { t with rmode := v.truncate 3 }
  | 0x004 => s.updT fun t => { t with tcause := v }
  | 0x005 => s.updT fun t => { t with taddr := v }
  | 0x006 => s.updT fun t => { t with tepc := v }
  | 0x007 => s.updT fun t => { t with tinfo := v }
  | 0x040 => s.updCtx c fun x => { x with tvec := masked x.tvec v vecMask }
  | 0x041 => s.updCtx c fun x => { x with tscratch := v }
  | 0x043 => s.updCtx c fun x => { x with hbase := masked x.hbase v 0xFFFFF }
  | 0x044 => s.updCtx c fun x => { x with htsize := masked x.htsize v 0xFFFF }
  | 0x045 => s.updCtx c fun x => { x with coretab := masked x.coretab v 0xFFFFF }
  | 0x046 => s.updCtx c fun x => { x with routetab := masked x.routetab v 0xFFFFF }
  | 0x047 => if bitOn v.toNat 8 then s.yieldSlice n c else s
  | 0x048 => s.updCtx c fun x => { x with dvec := masked x.dvec v dvecMask }
  | 0x100 => s.updFn n fun f => { f with hvvec := masked f.hvvec v vecMask }
  | 0x101 => s.updFn n fun f => { f with s2base := v }
  | 0x103 => s.updFn n fun f => { f with l2limit := w64 (clampTo (bits v.toNat 0 5) 0 24) }
  | 0x104 => s.updFn n fun f => { f with padlimit := w64 (clampTo (bits v.toNat 0 6) 16 32) }
  | 0x105 => s.updFn n fun f => { f with hdvec := masked f.hdvec v dvecMask }
  | 0x110 => s.updFn n fun f => { f with hbmcap := s.fitCap n v.toNat 51562 (·.hbmcap) }
  | 0x111 => s.updFn n fun f => { f with l2cap := s.fitCap n v.toNat 3000 (·.l2cap) }
  | 0x112 => s.updFn n fun f => { f with linkcap := s.fitCap n v.toNat 15625 (·.linkcap) }
  | 0x113 => s.updFn n fun f => { f with portcap := s.fitCap n v.toNat 3125 (·.portcap) }
  | 0x1C0 => { s with smvec := masked s.smvec v vecMask }
  | 0x1C1 => s.worldWrite v
  | _ => s

/-- Index checks of CRD, CWR, CSET and CCLR (R95, R109): an unoccupied index of the level traps before the
guard; one above the level traps with PRIVILEGE after it. Secure-monitor registers need the secure world. -/
def runCr (h : Head) (s : State) (i field : Nat) (f : State → State) : Host.Outcome State Fault Refusal :=
  if s.t.stat = .running ∧ !crOk s.priv i then .next (s.trapOperand field 0)
  else run h s fun s =>
    if crLimit s.priv ≤ i ∨ (0x1C0 ≤ i ∧ !s.ctxWorld s.t.ctx) then s.trap 0x04 0 i else f s

/-- A write by CWR, CSET or CCLR. -/
def State.crStore (s : State) (i : Nat) (v : Word) : State :=
  if crReadOnly s.priv i then s.trapOperand 1 7 else (s.crWrite i v).next

end Sys2Proof.Machine
end

