-- ==== Sys2Proof/Machine/Slices.lean ====
section
/-! DEFINITION. Slices: how one context's turn on the tile cores ends and the next begins, and the tick of a
partition that spans dies (R327 to R329). -/

namespace Sys2Proof.Machine

/-! ### A partition's tiles -/

/-- Pads of the tiles that a quarto brings (R320). -/
def quartoPads (q : Nat) : List Nat := (List.range 8).map fun i => 32 * (q / 4) + 8 * (q % 4) + i

/-- Pads of function n's tiles. -/
def State.padsOf (s : State) (n : Nat) : List Nat := (s.quartosOf n).flatMap quartoPads

/-- Tile cores of a pad. -/
def padCores (p : Nat) : List Nat := (List.range 3).map fun r => coreOf (p / 32) (p % 32) r

/-- Tile cores of function n on a die. -/
def State.coresOn (s : State) (n die : Nat) : List Nat := ((s.padsOf n).filter fun p => p / 32 == die).flatMap padCores

/-- Threads of context c that run or are parked on tile cores, on dies that `p` names. -/
def State.busyOn (s : State) (c : Nat) (p : Nat → Bool) : List Nat :=
  (s.threads.filter fun e => e.2.stat != .free && e.2.ctx == c && coreRole (e.1 / 8) != 3 && p (coreDie (e.1 / 8))).map (·.1)

/-! ### The rotation (R327) -/

/-- What the tiles of function n would hold with context c on them. -/
def State.asRunning (s : State) (n c : Nat) : State :=
  let f := s.fn n
  if f.cur = c then s
  else ((s.padsOf n).foldl (fun s p => (s.padOut n f.cur p).padIn n c p) s).updFn n fun f => { f with cur := c }

/-- Context c has an eligible channel head on the tile cores, or a ready launch record. -/
def State.hasWork (s : State) (n c : Nat) : Bool :=
  let t := s.asRunning n c
  (s.ctx c).live && !(s.ctx c).stopped && (s.launchReady c ||
    (s.diesOf n).any fun d => (s.coresOn n d).any fun core => (List.range 16).any fun k =>
      match t.headOf (16 * core + k) with
      | some r => r.ctx == c && t.headReady (16 * core + k)
      | none => false)

/-- The context after the running one in the rotation that has work; the running one where none has. -/
def State.nextCtx (s : State) (n : Nat) : Nat :=
  let cur := (s.fn n).cur
  let l := s.rotation n
  (((l.filter fun c => decide (cur < c)) ++ l.filter fun c => decide (c < cur)).find? (s.hasWork n)).getD cur

/-! ### The switch (R328, R329) -/

/-- Forgets the fired handlers of the partition's tile cores, and the save routines still to run. -/
def State.clearFired (s : State) (n : Nat) : State :=
  { s with cores := tmap {} (fun k c =>
      if coreRole k ≠ 3 ∧ s.ownerOf (quartoOf k) = some n then { c with fired := [], save := [] } else c) s.cores }

/-- Function n's tiles are left empty, their state saved with the running context. -/
def State.leave (s : State) (n : Nat) : State := (s.padsOf n).foldl (fun s p => s.padOut n (s.fn n).cur p) s

/-- Context c takes the tiles: its state stands there again, and its restore routines run before any other of
its records fires. -/
def State.take_ (s : State) (n c : Nat) : State :=
  let s := s.updFn n fun f => { f with cur := c, sliceStart := s.now, phase := .run }
  let s := (s.padsOf n).foldl (fun s p => s.padIn n c p) s
  let s := (s.ctx c).restores.foldl (fun s e => s.updCore e.1 fun k => { k with restore := e.2 }) s
  s.updCtx c fun x => { x with restores := [] }

/-- The restore routines that the running context has not started go with it, before those that it has noted
(R328). -/
def State.keepRestores (s : State) (n : Nat) : State :=
  ((s.diesOf n).flatMap (s.coresOn n)).foldl (fun s k =>
    let todo := (s.core k).restore
    if todo = [] then s
    else
      let s := s.updCore k fun c => { c with restore := [] }
      s.updCtx (s.fn n).cur fun x =>
        { x with restores := tset [] x.restores k (todo ++ (tget [] x.restores k).filter fun r => !todo.contains r) }) s

/-- Cycles that the running context has held the tiles are added to its own (R188). -/
def State.countRan (s : State) (n : Nat) : State :=
  s.updCtx (s.fn n).cur fun x => { x with ran := x.ran + (s.now - (s.fn n).sliceStart) }

/-- What activations that have ended issued and no home has performed is performed (R55, R328). -/
def State.settleCtx (s : State) (c : Nat) : State :=
  let s := s.flush fun q => q.ctx == c && !(s.threads.any fun e => e.2.stat != .free && e.2.party == q.party)
  let s := s.performJoins fun q => q.ctx == c
  let s := s.portFinish c
  let here (r : SemReq) : Bool := s.holds (s.ctx c).fn (padQuarto r.pad) && decide (r.pad < 1024)
  s.flushSemvs here

/-- TICK_COMMIT, and the switch of a partition on one die: the next context of the rotation takes the tiles. -/
def State.commit (s : State) (n : Nat) : State :=
  let c := s.nextCtx n
  ((((s.settleCtx (s.fn n).cur).countRan n).leave n |>.clearFired n).keepRestores n).take_ n c |>.updFn n fun f => { f with misscnt := 0 }

/-! ### How a slice begins to end (R327) -/

/-- Function n's contexts take turns now: it is neither stopped nor stopping, and a context runs. -/
def State.rotates (s : State) (n : Nat) : Bool :=
  let f := s.fn n
  decide (f.phase = .run) && (s.ctx f.cur).live && decide (f.migr.st ≤ 1) && !s.faulted n

/-- SLICE_END: SLICE µs have passed for function arg.a. -/
def State.sliceEnd (s : State) (n : Nat) : State :=
  let f := s.fn n
  if s.rotates n ∧ f.recd.slice ≠ 0 ∧ f.sliceStart + 3000 * f.recd.slice ≤ s.now then s.endSlice n 0 else s

def execSliceEnd (s : State) : Host.Outcome State Fault Refusal := event s fun s => s.sliceEnd s.arg.a

/-- SLICE_IDLE: with SLICE 0, function arg.a's running context has nothing to do and another has. -/
def State.sliceIdle (s : State) (n : Nat) : State :=
  let f := s.fn n
  if s.rotates n ∧ f.recd.slice = 0 ∧ !(s.threads.any fun e => e.2.stat != .free && e.2.ctx == f.cur)
      ∧ !s.hasWork n f.cur ∧ (s.rotation n).any (fun c => c != f.cur && s.hasWork n c)
  then s.endSlice n 2 else s

def execSliceIdle (s : State) : Host.Outcome State Fault Refusal := event s fun s => s.sliceIdle s.arg.a

/-- The control register and the value that thread k's next instruction would write, with the state as its
issue finds it. -/
def State.nextCrWrite (s : State) (k : Nat) : Option (Nat × Word × State) :=
  match s.nextInstr k with
  | some (.cwr h d a, t) => if t.t.guard h then some (d.toNat, t.t.gi a, t) else none
  | some (.cset h d a, t) => if t.t.guard h then some (d.toNat, t.crRead d.toNat ||| t.t.gi a, t) else none
  | some (.cclr h d a, t) => if t.t.guard h then some (d.toNat, t.crRead d.toNat &&& ~~~(t.t.gi a), t) else none
  | _ => none

/-- SLICE_YIELD: thread arg.a's write of 1 to slicectl.YIELD. -/
def State.sliceYield (s : State) (k : Nat) : State :=
  match s.nextCrWrite k with
  | some (i, v, t) => if i = 0x47 ∧ bitOn v.toNat 8 ∧ 1 ≤ t.priv then t.crStore i v else s
  | none => s

def execSliceYield (s : State) : Host.Outcome State Fault Refusal := event s fun s => s.sliceYield s.arg.a

/-- WORLDCTL_WRITE: thread arg.a's write of worldctl (R323), which only a secure monitor's thread makes. -/
def State.worldctlStep (s : State) (k : Nat) : State :=
  match s.nextCrWrite k with
  | some (i, v, t) => if i = 0x1C1 ∧ i < crLimit t.priv ∧ t.ctxWorld t.t.ctx then t.crStore i v else s
  | none => s

def execWorldctlWrite (s : State) : Host.Outcome State Fault Refusal := event s fun s => s.worldctlStep s.arg.a

/-! ### Save and restore routines (R328) -/

/-- The record of a routine: handler `ix` of context c on a core, with g1 = 0. -/
def State.routineRec (s : State) (core c ix : Nat) : Rec :=
  let w := s.wordOf c core core
  { hidx := ix, chan := 0, ctx := c, core := core, lcore := w, key := w, sendTs := s.ts, arrTs := s.ts }

/-- Starts routine `ix` on a core at PRIO 7 where a thread is free and R31's conditions hold; a record that
fails R34's checks is discarded, and in a stopped context none starts (R340). The core may be idle: R120 speaks of
records, and a routine is none (DESIGN CHOICE, log 213). The answer is none while it waits, else whether it ran. -/
def State.runRoutine (s : State) (core c ix : Nat) : Option Bool × State :=
  let r := s.routineRec core c ix
  if (s.traceU (coreDie core)).holdsStop c then (none, s) else
  match s.recFault core r with
  | some (kind, info) => (some false, s.discard r 0 kind info)
  | none => match s.freeThread core 8, s.handler c ix with
    | some k, some e =>
      if s.ready core r then
        let swKnow := if eSwEn e then tget [] s.swCarry (2 * swKey (padOf core) (eSwOff e) + 1) else []
        let (semKnow, s) := s.takeSem core e
        let s := s.startAct k (16 * core + eCHAN e) r e 7 0 (addKnow semKnow swKnow)
        (some true, s.updThread k fun t => { t with routine := true })
      else (none, s)
    | _, _ => (none, s)

/-- Starts what can start of a core's save routines; each that runs notes the restore routines paired with it. -/
def State.runSaves (s : State) (c core : Nat) : State :=
  (s.core core).save.foldl (fun s ix =>
    let (ran, s) := s.runRoutine core c ix
    if ran.isNone then s
    else
      let pairs := ((s.core core).fired.filter fun p => ran == some true && p.1 == ix && p.2 != 0xFFFF).map (·.2)
      let old := tget [] (s.ctx c).restores core
      let s := s.updCore core fun k => { k with save := k.save.filter (· != ix) }
      s.updCtx c fun x => { x with restores := tset [] x.restores core (old ++ (pairs.eraseDups.filter fun r => !old.contains r)) }) s

/-- Starts what can start of a core's restore routines. They are activations of handlers that have fired. -/
def State.runRestores (s : State) (c core : Nat) : State :=
  (s.core core).restore.foldl (fun s ix =>
    let (ran, s) := s.runRoutine core c ix
    if ran.isNone then s
    else
      let s := match ran, s.handler c ix with
        | some true, some e => s.noteFired core e
        | _, _ => s
      s.updCore core fun k => { k with restore := k.restore.filter (· != ix) }) s

/-- SAVE_ROUTINES: on die arg.b of function arg.a no activation of the outgoing context runs; what it issued
completes, and its save routines start as threads are free. -/
def State.saveRoutines (s : State) (n die : Nat) : State :=
  match (s.fn n).phase with
  | .run => s
  | .ending why saving saved ready =>
    let c := (s.fn n).cur
    if s.faulted n ∨ !(s.diesOf n).contains die ∨ saved.contains die then s
    else if saving.contains die then (s.coresOn n die).foldl (fun s k => s.runSaves c k) s
    else if s.busyOn c (· == die) ≠ [] then s
    else
      let s := s.settleCtx c
      let s := (s.coresOn n die).foldl (fun s k => s.updCore k fun x => { x with save := (x.fired.map (·.1)).eraseDups }) s
      let s := s.updFn n fun f => { f with phase := .ending why (die :: saving) saved ready }
      (s.coresOn n die).foldl (fun s k => s.runSaves c k) s

def execSaveRoutines (s : State) : Host.Outcome State Fault Refusal := event s fun s => s.saveRoutines s.arg.a s.arg.b

/-- RESTORE_ROUTINES: function arg.a's incoming context runs its restore routines. -/
def State.restoreRoutines (s : State) (n : Nat) : State :=
  if (s.fn n).phase = .run then
    ((s.diesOf n).flatMap (s.coresOn n)).foldl (fun s k => s.runRestores (s.fn n).cur k) s
  else s

def execRestoreRoutines (s : State) : Host.Outcome State Fault Refusal := event s fun s => s.restoreRoutines s.arg.a

/-! ### Step 5, and the tick (R328, R329) -/

/-- The state of a die's tiles is written to the running context's save area. What later lands in a saved pad
goes with the context too, until the switch. -/
def State.saveDie (s : State) (n die : Nat) : State :=
  let c := (s.fn n).cur
  (((s.padsOf n).filter fun p => p / 32 == die).foldl (fun s p =>
    s.updCtx c fun y => { y with saved := tset {} y.saved p (s.padImage p (s.padMax n)) }) s)

/-- CONTEXT_SAVE: die arg.b of function arg.a completes R328's steps. A partition on one die switches at once. -/
def State.contextSave (s : State) (n die : Nat) : State :=
  match (s.fn n).phase with
  | .run => s
  | .ending why saving saved ready =>
    let c := (s.fn n).cur
    if s.faulted n ∨ !saving.contains die ∨ saved.contains die ∨ s.busyOn c (· == die) ≠ []
        ∨ (s.coresOn n die).any (fun k => (s.core k).save != []) then s
    else
      let s := (s.settleCtx c).saveDie n die
      let s := s.updFn n fun f => { f with phase := .ending why saving (die :: saved) ready }
      if why ≠ 3 ∧ (s.diesOf n).length ≤ 1 then s.commit n else s

def execContextSave (s : State) : Host.Outcome State Fault Refusal := event s fun s => s.contextSave s.arg.a s.arg.b

/-- Cycles of the tick deadline (R321). -/
def State.deadlineOf (s : State) (n : Nat) : Nat :=
  3000 * if (s.fn n).recd.deadline = 0 then 50 else (s.fn n).recd.deadline

/-- TICK_READY: die arg.b of function arg.a reports READY; when every die has in time, the tick commits. -/
def State.tickReady (s : State) (n die : Nat) : State :=
  let f := s.fn n
  match f.phase with
  | .run => s
  | .ending why saving saved ready =>
    if s.faulted n ∨ why = 3 ∨ !saved.contains die ∨ ready.contains die ∨ f.tickStart + s.deadlineOf n < s.now then s
    else
      let s := s.updFn n fun f => { f with phase := .ending why saving saved (die :: ready) }
      if (s.diesOf n).all fun d => d == die || ready.contains d then s.commit n else s

def execTickReady (s : State) : Host.Outcome State Fault Refusal := event s fun s => s.tickReady s.arg.a s.arg.b

/-- The first miss: the outgoing context runs on for one further slice. -/
def State.postpone (s : State) (n : Nat) : State :=
  let s := s.countRan n
  let s := { s with cores := tmap {} (fun k c =>
      if s.ownerOf (quartoOf k) = some n then { c with save := [] } else c) s.cores }
  let s := s.updCtx (s.fn n).cur fun x => { x with saved := [], restores := [] }
  s.updFn n fun f => { f with phase := .run, sliceStart := s.now, misscnt := 1 }

/-- Threads killed with SLICE_FORCE and tinfo the tick number. -/
def State.force (s : State) (n : Nat) (ks : List Nat) : State :=
  ks.foldl (fun s k => (s.updThread k fun t => { t with tcause := w64 cSLICE }).killReport k cSLICE (s.fn n).tick 8) s

/-- The second miss: SLICE_FORCE on every die not yet READY, and the tick commits. -/
def State.forceTick (s : State) (n : Nat) (ready : List Nat) : State :=
  let c := (s.fn n).cur
  let s := s.force n (s.busyOn c fun d => !ready.contains d)
  (((s.diesOf n).filter fun d => !ready.contains d).foldl (fun s d => s.saveDie n d) s).commit n

/-- TICK_DEADLINE: function arg.a's tick has missed its deadline. -/
def State.tickDeadline (s : State) (n : Nat) : State :=
  let f := s.fn n
  match f.phase with
  | .run => s
  | .ending why _ _ ready =>
    if s.faulted n ∨ why = 3 ∨ (s.diesOf n).length ≤ 1 ∨ s.now < f.tickStart + s.deadlineOf n then s
    else if f.misscnt = 0 then s.postpone n
    else s.forceTick n ready

def execTickDeadline (s : State) : Host.Outcome State Fault Refusal := event s fun s => s.tickDeadline s.arg.a

end Sys2Proof.Machine
end

