-- ==== Sys2Proof/Machine/Partition.lean ====
section
/-! DEFINITION. The function record, the L2 split, launch-queue configurations and the CXL.mem window map:
control-object writes that shape a partition (R312, R316, R320 to R324, R345, R350). -/

namespace Sys2Proof.Machine

/-! ### What a written half, sheet or semaphore is reset to (R210, R321) -/

/-- WRAP32, anchor 0 and zeros. -/
def State.resetHalf (s : State) (q h : Nat) : State :=
  let lo := (256 * q + 128 * h) * 128
  { s.setHalf q h {} with acc := tdrop (fun k => decide (lo ≤ k) && decide (k < lo + 16384)) s.acc }

/-- Every half reset, every sheet free, no weights, arrivals or plans, and the semaphores of the tiles and of the
service core beside the quarto 0. -/
def State.resetQuarto (s : State) (q : Nat) : State :=
  let s := ((s.setQuarto q {}).resetHalf q 0).resetHalf q 1
  ((1024 + q) :: quartoPads q).foldl (fun s p => { s with sems := putKeys (32 * p) 32 [] s.sems, semCarry := putKeys (32 * p) 32 [] s.semCarry }) s

/-! ### FUNCTION_RECORD (R321) -/

def recordOf (x : Nat) : FnRec :=
  { quartos := BitVec.ofNat 128 (bits x 384 128), slice := bits x 368 16, deadline := bits x 352 16, slotq := bits x 339 13,
    nameq := bits x 332 7, sheetq := bits x 324 8, copych := BitVec.ofNat 8 (bits x 316 8), maxmoves := bits x 312 4,
    window := bits x 305 7, zone := bits x 300 5, htlog := bits x 295 5, nctx := bits x 290 5, fuse := bits x 288 2,
    world := bitOn x 287 }

/-- The quartos of one die that a FUSE value names. -/
def FnRec.fuseOk (r : FnRec) : Bool :=
  r.fuse == 0 || (List.range 32).all fun d =>
    let q := bits r.quartos.toNat (4 * d) 4
    q == 0 || q == 15

def FnRec.inRange (r : FnRec) : Bool :=
  decide (r.slotq ≤ 4096) && decide (r.nameq ≤ 64) && decide (r.sheetq ≤ 128) && decide (1 ≤ r.maxmoves)
    && decide (1 ≤ r.window) && decide (r.window ≤ 100) && decide (r.zone ≤ 16) && decide (10 ≤ r.htlog) && decide (r.htlog ≤ 20)
    && decide (1 ≤ r.nctx) && decide (r.nctx ≤ 16) && r.fuseOk

/-- Whether some context of the function exists. -/
def State.anyCtx (s : State) (n : Nat) : Bool := s.ctxs.any fun e => e.2.live && e.2.fn == n

/-- The blocks of R323 that a quarto brings: itself, the copy channels of its tiles that the record opens, and the
service core beside it (R320; log 186). -/
def blocksOf (r : FnRec) (q : Nat) : List (Nat × Nat) :=
  [(0, q), (4, q)] ++ (quartoPads q).flatMap fun p => ((List.range 8).filter fun c => bitOn r.copych.toNat c).map fun c => (1, 8 * p + c)

/-- The status of a function record. -/
def State.recordStatus (s : State) (n x : Nat) : Nat :=
  let r := recordOf x
  let qs := (List.range 128).filter fun q => bitOn r.quartos.toNat q
  if bits x 256 31 ≠ 0 ∨ bits x 0 248 ≠ 0 ∨ !r.inRange ∨ qs.any (fun q => !bitOn s.bootDies.toNat (q / 4)) then 1
  else if qs.any (fun q => (s.fns.any fun e => e.1 != n && s.holds e.1 q) || (blocksOf r q).any fun b => s.world b.1 b.2 != r.world) then 2
  else if s.anyCtx n ∨ (s.fn n).migr.st ≠ 0 then 3
  else 0

/-- FUNCTION_RECORD: transaction arg.a, a write of /vf/n/ctl at 0. -/
def State.functionRecord (s : State) (i : Nat) : State :=
  match s.vfWrite i 0 64 with
  | none => s
  | some (n, t) =>
    if t.host.isNone then s.failTxn i nsNO_RIGHTS
    else
      let x := natOfBytes t.data
      let st := s.recordStatus n x
      if st ≠ 0 then s.okTxn i st
      else
        let fresh := (s.fn n).recd.quartos == 0
        let s := s.updFn n fun f => { f with
          recd := recordOf x
          lqs := if fresh then [] else f.lqs
          sliceStart := s.now
          phase := .run }
        ((s.quartosOf n).foldl (fun s q => s.resetQuarto q) s).okTxn i 0

def execFunctionRecord (s : State) : Host.Outcome State Fault Refusal := event s fun s => s.functionRecord s.arg.a

/-! ### L2_SPLIT (R322) -/

/-- L2_SPLIT: transaction arg.a, a supervisor's write at 0x040; the split takes effect as the result is posted. -/
def State.l2Split (s : State) (i : Nat) : State :=
  match s.vfWrite i 0x40 8 with
  | none => s
  | some (n, t) =>
    let v := bits (natOfBytes t.data) 0 5
    if s.ctxFn t.ctx ≠ n ∨ s.ctxPriv t.ctx ≠ 1 then s.failTxn i nsNO_RIGHTS
    else if bits (s.fn n).l2limit.toNat 0 5 < v then s.okTxn i 2
    else
      let new := s.updFn n fun f => { f with l2store := v }
      if (s.diesOf n).any fun d => decide (new.l2Room n d < s.l2Used n d) then s.okTxn i 3
      else s.settleTxn i { handle := t.ha.1, gen := t.ha.2, late := .split n v }

def execL2Split (s : State) : Host.Outcome State Fault Refusal := event s fun s => s.l2Split s.arg.a

/-! ### LAUNCH_QUEUE_CONFIG (R312, R316) -/

/-- Transaction i as a write of the queue configurations: function, queue and the transaction. -/
def State.queueWrite (s : State) (i : Nat) : Option (Nat × Nat × Txn) :=
  let t := s.txn i
  if 0x200 ≤ t.off ∧ t.off < 0xA00 ∧ t.off % 32 = 0 then
    (s.vfWrite i t.off 32).map fun (n, t) => (n, (t.off - 0x200) / 32, t)
  else none

/-- A reservation summed over function n's queues, with `v` as queue k's, stays within the cap. -/
def State.resFits (s : State) (n k v lo cap : Nat) : Bool :=
  decide ((((s.fn n).lqs.filter fun q => q.1 != k).map fun q => bits q.2.cfg.toNat lo 32).sum + bits v lo 32 ≤ cap)

/-- The status of a queue configuration. -/
def State.queueStatus (s : State) (n k v : Nat) : Nat :=
  let f := s.fn n
  let c := bits v 16 16
  let q := s.lqueue n k
  let new := s.setLQueue n k { q with cfg := BitVec.ofNat 256 v }
  if bits v 32 96 ≠ 0 ∨ bits v 14 2 ≠ 0 ∨ bits v 4 4 ≠ 0 then 1
  else if !s.resFits n k v 128 f.hbmcap.toNat ∨ !s.resFits n k v 160 f.l2cap.toNat ∨ !s.resFits n k v 192 f.linkcap.toNat
      ∨ !s.resFits n k v 224 f.portcap.toNat ∨ !((s.ctx c).live && (s.ctx c).fn == n)
      ∨ (bitOn v 13 ∧ !(s.diesOf n).contains (bits v 8 5)) then 2
  else if q.slots ≠ [] ∧ (bitOn v 3 ≠ s.depOnly n k ∨ c ≠ s.lqCtx n k ∨ new.homeDie n k ≠ s.homeDie n k) then 3
  else 0

/-- LAUNCH_QUEUE_CONFIG: transaction arg.a, a supervisor's write at 0x200 + 32 k. -/
def State.queueConfig (s : State) (i : Nat) : State :=
  match s.queueWrite i with
  | none => s
  | some (n, k, t) =>
    if s.ctxFn t.ctx ≠ n ∨ s.ctxPriv t.ctx ≠ 1 then s.failTxn i nsNO_RIGHTS
    else
      let v := natOfBytes t.data
      let st := s.queueStatus n k v
      if st ≠ 0 then s.okTxn i st
      else (s.setLQueue n k { s.lqueue n k with cfg := BitVec.ofNat 256 v }).okTxn i 0

def execLaunchQueueConfig (s : State) : Host.Outcome State Fault Refusal := event s fun s => s.queueConfig s.arg.a

/-! ### CXL_WINDOW_MAP (R345) -/

/-- CXL_WINDOW_MAP: transaction arg.a, a host write at 0x1000 + 16 j. -/
def State.windowMap (s : State) (i : Nat) : State :=
  let off := (s.txn i).off
  if off < 0x1000 ∨ 0x5000 ≤ off ∨ off % 16 ≠ 0 then s
  else match s.vfWrite i off 16 with
    | none => s
    | some (n, t) =>
      if t.host.isNone then s.failTxn i nsNO_RIGHTS
      else
        let x := natOfBytes t.data
        let w := BitVec.ofNat 128 (bits x 0 32 + bits x 64 32 * 2 ^ 64)
        (s.updFn n fun f => { f with cxlmap := tset 0 f.cxlmap ((off - 0x1000) / 16) w }).okTxn i t.arg

def execCxlWindowMap (s : State) : Host.Outcome State Fault Refusal := event s fun s => s.windowMap s.arg.a

end Sys2Proof.Machine
end

