-- ==== Sys2Proof/Machine/Contexts.lean ====
section
/-! DEFINITION. Context records: creating and destroying a context, and its accumulator halves (R185, R203,
R253, R312, R324, R325). -/

namespace Sys2Proof.Machine

/-! ### The record (R325) -/

def xOP (x : Nat) : Nat := bits x 0 8
def xPRIV (x : Nat) : Nat := bits x 16 2
def xCTXID (x : Nat) : Nat := bits x 64 16
def xGOVERN (x : Nat) : Nat := bits x 80 16
def xHTENT (x : Nat) : Nat := bits x 96 16
def xHALVES (x : Nat) : Nat := bits x 256 256

/-- A reserved bit is set, a field is out of range, or PRIV is 3: BADOP for every OP. -/
def xBad (x : Nat) : Bool :=
  bits x 112 144 != 0 || bits x 18 46 != 0 || bits x 8 8 != 0
    || xHTENT x == 0 || xCTXID x == 0 || xCTXID x == 0xFFFF || xPRIV x == 3

/-- Transaction i as a write of a context record with this OP: function, slot, transaction and record. -/
def State.ctxWrite (s : State) (i op : Nat) : Option (Nat × Nat × Txn × Nat) :=
  let off := (s.txn i).off
  if 0xC00 ≤ off ∧ off < 0x1000 ∧ off % 64 = 0 then
    match s.vfWrite i off 64 with
    | some (n, t) => if xOP (natOfBytes t.data) = op then some (n, (off - 0xC00) / 64, t, natOfBytes t.data) else none
    | none => none
  else none

/-- The host, or the hypervisor context of n. -/
def State.ctxWriter (s : State) (t : Txn) (n : Nat) : Bool := t.host.isSome || (s.ctxFn t.ctx == n && s.ctxPriv t.ctx == 2)

/-- Each half belongs to the partition, and no context but c holds it. -/
def State.halvesOk (s : State) (n c x : Nat) : Bool :=
  (List.range 256).all fun h => !bitOn (xHALVES x) h ||
    (s.holds n (h / 2) && s.ctxs.all fun e => e.1 == c || !e.2.live || !bitOn e.2.halves.toNat h)

/-! ### CREATE -/

/-- GOVERN, and who creates which level. -/
def State.governOk (s : State) (t : Txn) (n x : Nat) : Bool :=
  let g := s.ctx (xGOVERN x)
  match xPRIV x with
  | 2 => t.host.isSome && xGOVERN x == 0
  | 1 => g.live && g.fn == n && g.priv == 2
  | _ => g.live && g.fn == n && g.priv == 1

/-- Status of a CREATE before HBM is looked for. -/
def State.createStatus (s : State) (t : Txn) (n k x : Nat) : Nat :=
  if xBad x then 1
  else if !s.ctxWriter t n ∨ !s.governOk t n x ∨ !s.halvesOk n 0 x then 2
  else if (s.slotCtx n k).isSome ∨ (s.fn n).recd.nctx ≤ k ∨ (s.ctx (xCTXID x)).live
      ∨ (xPRIV x = 2 ∧ (s.hypOf n).isSome) then 3
  else 0

/-- An unnamed table object of `size` bytes in the partition's HBM. -/
def State.makeTable (s : State) (n size : Nat) : Option (Nat × State) :=
  s.make { kind := kMemo, tier := 2, grant := BitVec.ofNat 8 rR, home := (s.diesOf n).headD 0, size := size, fn := n, named := false } none

/-- The three tables of a context: handler, core and route. -/
def State.makeTables (s : State) (n htent : Nat) : Option (Nat × Nat × Nat × State) :=
  match s.makeTable n (64 * htent) with
  | none => none
  | some (a, s) => match s.makeTable n 8192 with
    | none => none
    | some (b, s) => match s.makeTable n 32 with
      | none => none
      | some (c, s) => some (a, b, c, s)

def openR (k size : Nat) : HEntry :=
  { state := 2, node := .made k, rights := BitVec.ofNat 8 rR, grant := BitVec.ofNat 8 rR, size := size }

/-- The context of a CREATE. -/
def newCtx (n k x hlog a b c : Nat) : Ctx :=
  { live := true, fn := n, slot := k, priv := xPRIV x, govern := xGOVERN x, htent := xHTENT x, hlog := hlog,
    halves := BitVec.ofNat 256 (xHALVES x),
    handles := [(1, openR a (64 * xHTENT x)), (2, openR b 8192), (3, openR c 32)],
    hbase := 1, htsize := w64 (xHTENT x), coretab := 2, routetab := 3 }

/-- The halves a record names, reset. -/
def State.resetHalves (s : State) (x : Nat) : State :=
  ((List.range 256).filter fun h => bitOn (xHALVES x) h).foldl (fun s h => s.resetHalf (h / 2) (h % 2)) s

/-- CONTEXT_CREATE: transaction arg.a. -/
def State.contextCreate (s : State) (i : Nat) : State :=
  match s.ctxWrite i 1 with
  | none => s
  | some (n, k, t, x) =>
    let st := s.createStatus t n k x
    if st ≠ 0 then s.okTxn i st
    else match s.makeTables n (xHTENT x) with
      | none => s.okTxn i 10
      | some (a, b, c, s) =>
        let id := xCTXID x
        let s := s.setCtx id (newCtx n k x (s.fn n).recd.htlog a b c)
        let s := { s with delays := tdrop (fun d => d % 131072 == id) s.delays }.resetHalves x
        let s := if (s.ctx (s.fn n).cur).live then s else s.take_ n id
        s.okTxn i 0

def execContextCreate (s : State) : Host.Outcome State Fault Refusal := event s fun s => s.contextCreate s.arg.a

/-! ### DESTROY -/

/-- A parked activation's end, with its record. -/
def State.killParked (s : State) (k : Nat) : State :=
  let t := s.thread k
  let (q, s) := s.takeFseq (k / 8)
  let f := s.faultOf k t.tcause.toNat t.taddr.toNat t.tinfo.toNat q true
  let tgt := s.faultTarget t.ctx (s.ctxPriv t.ctx != 0)
  (s.kill k 8).postFault tgt (quartoOf (k / 8)) f

/-- Every activation of context c is killed, each parked one with a fault record. -/
def State.killAll (s : State) (c : Nat) : State :=
  (s.threads.filter fun e => e.2.stat != .free && e.2.ctx == c).foldl (fun s e => match e.2.stat with
    | .parked _ _ => s.killParked e.1
    | _ => s.kill e.1 8) s

/-- Names in the directories go, and with them the directories that only they named. -/
def State.dropNames (s : State) : Nat → List Node → State
  | 0, _ => s
  | f + 1, dirs =>
    if dirs = [] then s else
    let out := s.names.filter fun e => dirs.contains e.dir
    let s := { s with names := s.names.filter fun e => !dirs.contains e.dir }
    let ks := out.filterMap fun e => match e.node with
      | .made k => some k
      | _ => none
    let s := ks.foldl (fun s k => if s.made.any (·.1 == k) then s.unname k else s) s
    s.dropNames f ((ks.filter fun k => !s.made.any (·.1 == k)).map .made)

/-- Records, transactions, launches and other traffic of context c are discarded. -/
def State.dropTraffic (s : State) (c : Nat) : State :=
  let gone (l : Nat) : Bool := (s.launch l).ctx == c
  let s := { s with
    net := s.net.filter (·.ctx != c)
    oldMaps := s.oldMaps.filter fun o => (s.txn o.txn).ctx != c
    txns := tkeep (fun _ t => t.ctx != c) s.txns
    doneMsgs := s.doneMsgs.filter fun m => !gone m.launch
    lforwards := s.lforwards.filter (·.rec_.ctx != c)
    launches := tkeep (fun _ l => l.ctx != c) s.launches
    copies := tmap [] (fun _ q => q.filter (·.ctx != c)) s.copies
    results := s.results.filter (·.ctx != c)
    traces := tmap {} (fun _ u =>
      let u := { u with others := u.others.filter fun e => e.1 != c }
      if u.stopCtx == c then { u with stopped := false, stopReq := false } else u) s.traces }
  (s.dropRecs c).freeWindows (· == c)

/-- Sheets, weights, arrivals and plans of context c are released in every quarto (R184). -/
def State.releaseQuartos (s : State) (c : Nat) : State :=
  { s with quartos := tmap {} (fun _ q => { q with
      holder := tkeep (fun _ h => h != c) q.holder
      weights := if q.weights.ctx == c then {} else q.weights
      barrier := tdrop (· == c) q.barrier
      plans := tdrop (· == c) q.plans }) s.quartos }

/-- Launch records waiting for context c are discarded (R312). -/
def State.dropWaiting (s : State) (n c : Nat) : State :=
  s.updFn n fun f => { f with lqs := tmap {} (fun _ q =>
    if bits q.cfg.toNat 16 16 = c then { q with slots := [], busy := none, carry := [] } else q) f.lqs }

/-- Every handle of context c is closed as by NCLOSE. -/
def State.closeAll (s : State) (c : Nat) : State :=
  (((s.ctx c).handles.filter (·.2.used)).map (·.1)).foldl (fun s k => s.freeHandle c k) s

/-- The tiles of function n are left empty by context c, and the next live context takes them. In STOPPED no context
stands on them, and that one takes them if the migration is aborted; in STOPPING its own slice ends (R331). -/
def State.vacate (s : State) (n c : Nat) : State :=
  if (s.fn n).cur ≠ c then s
  else
    let l := (s.rotation n).filter (· != c)
    let d := ((l.filter fun d => decide (c < d)) ++ l).headD 0
    if (s.fn n).migr.st = 3 then s.updFn n fun f => { f with cur := d }
    else
      let s := (((s.leave n).clearFired n).keepRestores n).take_ n d
      if (s.fn n).migr.st = 2 ∧ (s.ctx d).live then s.endSlice n 3 else s

/-- Made nodes that only context c's slot-object entries named lose them (R326). -/
def State.dropOwned (s : State) (c : Nat) : State :=
  let ks := s.names.filterMap fun e => match e.node with
    | .made k => if e.only = some c then some k else none
    | _ => none
  let s := { s with names := s.names.filter fun e => e.only != some c }
  ks.foldl (fun s k => s.unname k) s

/-- Destroys context c of function n. -/
def State.destroyCtx (s : State) (n c : Nat) : State :=
  let s := ((s.dropOwned c).killAll c).settleCtx c
  let s := (((s.dropTraffic c).releaseQuartos c).dropWaiting n c).vacate n c
  let s := (s.dropNames (s.names.length + 1) [.priv c]).closeAll c
  { s with ctxs := tdrop (· == c) s.ctxs, delays := tdrop (fun d => d % 131072 == c) s.delays }

/-- CONTEXT_DESTROY: transaction arg.a. -/
def State.contextDestroy (s : State) (i : Nat) : State :=
  match s.ctxWrite i 2 with
  | none => s
  | some (n, k, t, x) =>
    if xBad x then s.okTxn i 1
    else if !s.ctxWriter t n then s.okTxn i 2
    else match s.slotCtx n k with
      | none => s.okTxn i 3
      | some c =>
        let s := s.destroyCtx n c
        if t.ctx = c then s else s.okTxn i 0

def execContextDestroy (s : State) : Host.Outcome State Fault Refusal := event s fun s => s.contextDestroy s.arg.a

/-! ### HALVES -/

/-- Everything accepted that uses a half completes (R203). -/
def State.finishHalf (s : State) (h : Nat) : State :=
  s.portBefore [] (rHalf (h / 2) (h % 2) :: rRows (h / 2) (128 * (h % 2)) 128)

/-- CONTEXT_HALVES: transaction arg.a. -/
def State.contextHalves (s : State) (i : Nat) : State :=
  match s.ctxWrite i 3 with
  | none => s
  | some (n, k, t, x) =>
    if xBad x then s.okTxn i 1
    else match s.slotCtx n k with
      | none => s.okTxn i (if s.ctxWriter t n then 3 else 2)
      | some c =>
        if !s.ctxWriter t n ∨ !s.halvesOk n c x then s.okTxn i 2
        else
          let given := (List.range 256).filter fun h => bitOn (s.ctx c).halves.toNat h && !bitOn (xHALVES x) h
          let s := given.foldl (fun s h => s.finishHalf h) s
          (s.updCtx c fun y => { y with halves := BitVec.ofNat 256 (xHALVES x) }).okTxn i 0

def execContextHalves (s : State) : Host.Outcome State Fault Refusal := event s fun s => s.contextHalves s.arg.a

end Sys2Proof.Machine
end

