-- ==== Sys2Proof/Machine/HostPort.lean ====
section
/-! DEFINITION. The host's side: the transaction port, CXL.mem, and management messages (R345 to R349). -/

namespace Sys2Proof.Machine

/-! ### The port's party (R348) -/

/-- The function's port as a party. -/
def State.portParty (s : State) (n : Nat) : Nat × State :=
  if (s.fn n).hostParty ≠ 0 then ((s.fn n).hostParty, s)
  else
    let (p, s) := s.newParty []
    (p, s.updFn n fun f => { f with hostParty := p })

/-! ### Rings (R346) -/

/-- a − b modulo 2^32. -/
def diff32 (a b : Nat) : Nat := (a + 2 ^ 32 - b % 2 ^ 32) % 2 ^ 32

/-- The host has read `k` response slots beyond RSPHEAD: the edges of the results among them go before the requests
that it writes from now on (R352). -/
def Fn.hostRead (f : Fn) (k : Nat) : Fn :=
  let had (e : BitVec 32 × Know) : Bool := decide (diff32 e.1.toNat f.rsphead.toNat ≤ k)
  { f with reqEdges := f.reqEdges ++ ((f.rspEdges.filter had).map fun e => (f.reqtail, e.2))
           rspEdges := f.rspEdges.filter fun e => !had e }

/-- The port's party receives the edges that go before the request whose first slot is `head`, which is at or behind
the REQTAIL at which the host had read their results; with none, all of them. -/
def State.portEdges (s : State) (n p : Nat) (head : Option Nat) : State :=
  let due (e : BitVec 32 × Know) : Bool := head.all fun h => decide (diff32 h e.1.toNat < 2 ^ 31)
  (((s.fn n).reqEdges.filter due).foldl (fun s e => s.receive p e.2) s).updFn n fun f =>
    { f with reqEdges := f.reqEdges.filter fun e => !due e }

/-- REQTAIL_WRITE: after it has read `read` response slots beyond RSPHEAD, the host writes request slots of function
arg.a from the old REQTAIL on, and REQTAIL. -/
def State.reqtailWrite (s : State) (n tail read : Nat) (data : List Byte) : State :=
  s.updFn n fun f =>
    let f := f.hostRead read
    let tail := tail % 2 ^ 32
    if 64 < diff32 tail f.reqhead.toNat then { f with errstat := f.errstat ||| 2 }
    else
      let ring := (List.range (cdiv data.length 64)).foldl (fun r k =>
        let x := (data.drop (64 * k)).take 64
        tset [] r ((f.reqtail.toNat + k) % 64) (x ++ List.replicate (64 - x.length) 0)) f.req
      { f with req := ring, reqtail := BitVec.ofNat 32 tail }

def execReqtailWrite (s : State) : Host.Outcome State Fault Refusal :=
  event s fun s => s.reqtailWrite s.arg.a s.arg.b s.arg.c s.arg.data

/-- RSPHEAD_WRITE: the host consumes responses of function arg.a up to arg.b. -/
def execRspheadWrite (s : State) : Host.Outcome State Fault Refusal :=
  event s fun s => s.updFn s.arg.a fun f =>
    { f.hostRead (diff32 s.arg.b f.rsphead.toNat) with rsphead := BitVec.ofNat 32 s.arg.b }

/-! ### Requests (R347) -/

def qOP (x : Nat) : Nat := bits x 0 8
def qNSLOT (x : Nat) : Nat := bits x 8 8
def qTAG (x : Nat) : Nat := bits x 16 16
def qARG (x : Nat) : Nat := bits x 32 10

/-- Payload bytes of a request. -/
def reqPayload (x : Nat) : Nat := if qOP x = opWALK ∨ qOP x = opCREATE ∨ qOP x = opWRITE then qARG x else 0

/-- What the header itself breaks: BADREQ. -/
def badHeader (x : Nat) : Bool :=
  decide (10 < qOP x) || bits x 42 22 != 0 || bits x 192 64 != 0 || qNSLOT x == 0 || decide (17 < qNSLOT x)
    || decide (qNSLOT x < cdiv (32 + reqPayload x) 64)

/-- What R246 and R250 refuse at a device's issue: an ARG out of range, a path, name or spec. -/
def badRequest (x : Nat) (payload : List Byte) : Bool :=
  !argOk (qOP x) (qARG x) || (qOP x == opWALK && !pathOk 16 payload) || (qOP x == opCREATE && !pathOk 1 payload)
    || (qOP x == opCREATE && !specOk (bits x 128 64))

/-- Response slots a request may need. -/
def respSlots (op arg : Nat) : Nat := if op = opREAD then cdiv (32 + arg) 64 else 1

/-- Response slots that are free, those of requests under way set aside. -/
def State.freeResp (s : State) (n : Nat) : Nat :=
  let f := s.fn n
  64 - diff32 f.rsptail.toNat f.rsphead.toNat - ((s.txns.filter fun e => e.2.host == some n).map fun e => respSlots e.2.op e.2.arg).sum

/-- `k` slots of the request ring from REQHEAD on. -/
def Fn.reqBytes (f : Fn) (k : Nat) : List Byte :=
  (List.range k).flatMap fun i => tget (List.replicate 64 0) f.req ((f.reqhead.toNat + i) % 64)

/-- The transaction of a request. -/
def hostTxn (n x p : Nat) (payload : List Byte) : Txn :=
  let hb := bits x 96 20
  { op := qOP x, ctx := 65536 + n, host := some n, rtag := qTAG x, arg := qARG x, ha := (bits x 64 20, bits x 84 12),
    hb := if hb = 0xFFFFF then none else some (hb, bits x 116 12)
    off := if qOP x = opREAD ∨ qOP x = opWRITE then bits x 128 64 else 0
    spec := if qOP x = opCREATE then w64 (bits x 128 64) else 0
    data := payload, party := p, issuer := p }

/-- HOST_REQUEST_TAKE: function arg.a's port takes its next complete request. -/
def State.requestTake (s : State) (n : Nat) : State :=
  let f := s.fn n
  let waiting := diff32 f.reqtail.toNat f.reqhead.toNat
  if waiting = 0 ∨ s.bootStage.toNat < 4 ∨ 5 < s.bootStage.toNat then s
  else
    let x := natOfBytes ((f.reqBytes 1).take 32)
    let slots := if qNSLOT x = 0 ∨ 17 < qNSLOT x then 1 else qNSLOT x
    if waiting < slots ∨ s.freeResp n < respSlots (qOP x) (qARG x) then s
    else
      let payload := ((f.reqBytes slots).drop 32).take (reqPayload x)
      let s := s.updFn n fun f => { f with reqhead := BitVec.ofNat 32 (f.reqhead.toNat + slots) }
      let answer (st : Nat) : State := s.respond n (({ status := st } : TxRes).response (qOP x) (qTAG x))
      if badHeader x then answer nsBADREQ
      else if bitOn f.errstat.toNat 0 then answer nsBUSY
      else if badRequest x payload then answer nsBADREQ
      else
        let (p, s) := s.portParty n
        let s := s.portEdges n p (some f.reqhead.toNat)
        { s with nextTxn := s.nextTxn + 1 }.setTxn s.nextTxn { hostTxn n x p payload with know := s.carry p }

def execHostRequestTake (s : State) : Host.Outcome State Fault Refusal := event s fun s => s.requestTake s.arg.a

/-! ### CXL.mem (R345) -/

/-- The mapped object that holds byte `a` of the window: its handle entry and the offset. -/
def State.cxlFind (s : State) (n a : Nat) : Option (HEntry × Nat) :=
  (s.fn n).cxlmap.findSome? fun e =>
    let w := e.2.toNat
    let base := bits w 64 32 * 2 ^ 21
    match s.hlook (65536 + n) (bits w 0 20) (bits w 20 12) with
    | some h => if base ≤ a ∧ a + 64 ≤ base + h.size then some (h, a - base) else none
    | none => none

/-- The places of a line of the window, for a read or a write, with its node and offset; none where the access is
poison or dropped. -/
def State.cxlLine (s : State) (n a : Nat) (write : Bool) : Option (Node × Nat × List (Place × Nat)) :=
  match s.cxlFind n a with
  | none => none
  | some (h, off) =>
    if h.state ≠ 2 ∨ !hasAll h.rights.toNat (if write then rW else rR) ∨ s.nodeKind h.node ≠ kMemo then none
    else match s.places (65536 + n) h.node write false (pieces off 64) with
      | .error _ => none
      | .ok l =>
        if !s.nodeRelaxed h.node && (s.race (s.fn n).hostParty (if write then aWrite else aRead) (linesOf h.node off 64)).isSome
        then none else some (h.node, off, l)

/-- Sets ERRSTAT.MEMREF. -/
def State.memref (s : State) (n : Nat) : State := s.updFn n fun f => { f with errstat := f.errstat ||| 4 }

/-- The access of the port's party. -/
def State.cxlTouch (s : State) (n : Nat) (node : Node) (off kind : Nat) : State :=
  if s.nodeRelaxed node then s else s.touchAll (s.fn n).hostParty (whoWord 0 0 5 0) kind (linesOf node off 64)

/-- CXL_MEM_READ of function arg.a's window at arg.b. -/
def State.cxlMemRead (s : State) (n a : Nat) : State :=
  let (p, s) := s.portParty n
  let s := s.portEdges n p none
  match s.cxlLine n (a / 64 * 64) false with
  | none => (s.memref n).updFn n fun f => { f with cxlRead := none }
  | some (node, off, l) =>
    let bs := s.peekPlaces l
    (s.cxlTouch n node off aRead).updFn n fun f => { f with cxlRead := some bs }

def execCxlMemRead (s : State) : Host.Outcome State Fault Refusal := event s fun s => s.cxlMemRead s.arg.a s.arg.b

/-- CXL_MEM_WRITE of 64 bytes, arg.data, to function arg.a's window at arg.b. -/
def State.cxlMemWrite (s : State) (n a : Nat) (data : List Byte) : State :=
  let (p, s) := s.portParty n
  let s := s.portEdges n p none
  match s.cxlLine n (a / 64 * 64) true with
  | none => s.memref n
  | some (node, off, l) =>
    let bs := (data ++ List.replicate (64 - data.length) 0).take 64
    ((s.cxlTouch n node off aWrite).overwrite (objAddr node off) 64).pokePlaces l bs

def execCxlMemWrite (s : State) : Host.Outcome State Fault Refusal :=
  event s fun s => s.cxlMemWrite s.arg.a s.arg.b s.arg.data

/-! ### Management (R349) -/

/-- BOOTSTAT (R350). -/
def State.bootstat (s : State) : Nat := s.bootStage.toNat + s.bootCount.toNat * 2 ^ 32

def lifeCode : Life → Nat
  | .manufacture => 0
  | .provisioned => 1
  | .deployed => 2
  | .returned => 3

/-- The vendor-defined message's reply: BOOTSTAT, BOOTDIES, the life-cycle state, the dies' counters. -/
def State.vendorReply (s : State) : List Byte :=
  bytesOfNat 8 s.bootstat ++ bytesOfNat 8 s.bootDies.toNat ++ bytesOfNat 8 (lifeCode s.life)
    ++ (List.range 32).flatMap fun d => bytesOfNat 8 (tget 0 s.corrected d)

/-- MCTP_MESSAGE: arg.a is 0 for an MCTP control message of bytes arg.data, 1 for PLDM's read of sensor arg.b, and
anything else for the vendor-defined message. -/
def State.mctpMessage (s : State) (kind k : Nat) (data : List Byte) : State :=
  { s with
    fresh := s.fresh + 1
    mctp := match kind with
      | 0 => Config.mctpControl data
      | 1 => bytesOfNat 8 (Config.sensor (2 ^ 32 * s.fresh + k % 2 ^ 32)).toNat
      | _ => s.vendorReply }

def execMctpMessage (s : State) : Host.Outcome State Fault Refusal :=
  event s fun s => s.mctpMessage s.arg.a s.arg.b s.arg.data

end Sys2Proof.Machine
end

