-- ==== Sys2Proof/Machine/Scalar.lean ====
section
/-! DEFINITION. Scalar integer instructions, class 0x2 (R127 to R130). -/

namespace Sys2Proof.Machine

/-! ### The operations of R128 and R129, on n-bit patterns -/

/-- High n bits of the exact product. -/
def mulHigh (x y : Int) (n : Nat) : Nat := toBits n ((x * y) / (2 ^ n : Nat))

/-- DIV's quotient and REM's remainder (R129). -/
def divSigned (x y : Int) (n : Nat) : Int × Int :=
  if y = 0 then (-1, x)
  else if x = -((2 ^ (n - 1) : Nat) : Int) ∧ y = -1 then (x, 0)
  else (x.tdiv y, x - x.tdiv y * y)

/-- DIVU's quotient and REMU's remainder (R129). -/
def divUnsigned (a b n : Nat) : Nat × Nat := if b = 0 then (2 ^ n - 1, a) else (a / b, a % b)

/-- Left rotation of an n-bit pattern. -/
def rotLeft (a k n : Nat) : Nat := a * 2 ^ k % 2 ^ n + a / 2 ^ (n - k)

/-- Leading zeros of an n-bit pattern. -/
def clzN (a : Nat) : Nat → Nat
  | 0 => 0
  | n + 1 => if bitOn a n then 0 else 1 + clzN a n

/-- Trailing zeros below n bits. -/
def ctzN (a : Nat) : Nat → Nat
  | 0 => 0
  | n + 1 => if bitOn a 0 then 0 else 1 + ctzN (a / 2) n

/-- Set bits among the low n. -/
def popN (a : Nat) : Nat → Nat
  | 0 => 0
  | n + 1 => bits a n 1 + popN a n

/-- COND 0 to 5 of CMP and VCMP. -/
def condInt (c : Nat) (x y : Int) : Bool :=
  match c with
  | 0 => x == y
  | 1 => x != y
  | 2 => decide (x < y)
  | 3 => decide (x ≤ y)
  | 4 => decide (y < x)
  | _ => decide (y ≤ x)

/-- An n-bit pattern as the ETYPE reads it. -/
def etInt (et : EType) (x : Nat) : Int := if etSig et then asInt x (etWidth et) else x

/-- R128's frame: r from the truncated operands, extended into g[OD]. -/
def State.alu (s : State) (et : EType) (d a : GReg) (b : GI) (f : Nat → Nat → Nat → Nat) : State :=
  let n := etWidth et
  s.retG d (extTo (f (bits (s.t.rdG a).toNat 0 n) (bits (s.t.gi b).toNat 0 n) n % 2 ^ n) et)

/-- The same for one operand. -/
def State.alu1 (s : State) (et : EType) (d a : GReg) (f : Nat → Nat → Nat) : State :=
  let n := etWidth et
  s.retG d (extTo (f (bits (s.t.rdG a).toNat 0 n) n % 2 ^ n) et)

/-! ### The instructions -/

def execAdd (h : Head) (et : EType) (d a : GReg) (b : GI) (s : State) : Host.Outcome State Fault Refusal :=
  run h s fun s => s.alu et d a b fun a b _ => a + b

def execSub (h : Head) (et : EType) (d a : GReg) (b : GI) (s : State) : Host.Outcome State Fault Refusal :=
  run h s fun s => s.alu et d a b fun a b n => a + 2 ^ n - b

def execMul (h : Head) (et : EType) (d a : GReg) (b : GI) (s : State) : Host.Outcome State Fault Refusal :=
  run h s fun s => s.alu et d a b fun a b _ => a * b

def execMulh (h : Head) (et : EType) (d a : GReg) (b : GI) (s : State) : Host.Outcome State Fault Refusal :=
  run h s fun s => s.alu et d a b fun a b n => mulHigh (asInt a n) (asInt b n) n

def execMulhu (h : Head) (et : EType) (d a : GReg) (b : GI) (s : State) : Host.Outcome State Fault Refusal :=
  run h s fun s => s.alu et d a b fun a b n => a * b / 2 ^ n

def execDiv (h : Head) (et : EType) (d a : GReg) (b : GI) (s : State) : Host.Outcome State Fault Refusal :=
  run h s fun s => s.alu et d a b fun a b n => toBits n (divSigned (asInt a n) (asInt b n) n).1

def execDivu (h : Head) (et : EType) (d a : GReg) (b : GI) (s : State) : Host.Outcome State Fault Refusal :=
  run h s fun s => s.alu et d a b fun a b n => (divUnsigned a b n).1

def execRem (h : Head) (et : EType) (d a : GReg) (b : GI) (s : State) : Host.Outcome State Fault Refusal :=
  run h s fun s => s.alu et d a b fun a b n => toBits n (divSigned (asInt a n) (asInt b n) n).2

def execRemu (h : Head) (et : EType) (d a : GReg) (b : GI) (s : State) : Host.Outcome State Fault Refusal :=
  run h s fun s => s.alu et d a b fun a b n => (divUnsigned a b n).2

def execAnd (h : Head) (et : EType) (d a : GReg) (b : GI) (s : State) : Host.Outcome State Fault Refusal :=
  run h s fun s => s.alu et d a b fun a b _ => a &&& b

def execOr (h : Head) (et : EType) (d a : GReg) (b : GI) (s : State) : Host.Outcome State Fault Refusal :=
  run h s fun s => s.alu et d a b fun a b _ => a ||| b

def execXor (h : Head) (et : EType) (d a : GReg) (b : GI) (s : State) : Host.Outcome State Fault Refusal :=
  run h s fun s => s.alu et d a b fun a b _ => a ^^^ b

def execAndn (h : Head) (et : EType) (d a : GReg) (b : GI) (s : State) : Host.Outcome State Fault Refusal :=
  run h s fun s => s.alu et d a b fun a b n => a &&& (2 ^ n - 1 - b)

def execShl (h : Head) (et : EType) (d a : GReg) (b : GI) (s : State) : Host.Outcome State Fault Refusal :=
  run h s fun s => s.alu et d a b fun a b n => a * 2 ^ (b % n)

def execShr (h : Head) (et : EType) (d a : GReg) (b : GI) (s : State) : Host.Outcome State Fault Refusal :=
  run h s fun s => s.alu et d a b fun a b n => a / 2 ^ (b % n)

def execSra (h : Head) (et : EType) (d a : GReg) (b : GI) (s : State) : Host.Outcome State Fault Refusal :=
  run h s fun s => s.alu et d a b fun a b n => toBits n (asInt a n / (2 ^ (b % n) : Nat))

def execRot (h : Head) (et : EType) (d a : GReg) (b : GI) (s : State) : Host.Outcome State Fault Refusal :=
  run h s fun s => s.alu et d a b fun a b n => rotLeft a (b % n) n

def execMin (h : Head) (et : EType) (d a : GReg) (b : GI) (s : State) : Host.Outcome State Fault Refusal :=
  run h s fun s => s.alu et d a b fun a b n => if asInt a n ≤ asInt b n then a else b

def execMax (h : Head) (et : EType) (d a : GReg) (b : GI) (s : State) : Host.Outcome State Fault Refusal :=
  run h s fun s => s.alu et d a b fun a b n => if asInt a n ≤ asInt b n then b else a

def execMinu (h : Head) (et : EType) (d a : GReg) (b : GI) (s : State) : Host.Outcome State Fault Refusal :=
  run h s fun s => s.alu et d a b fun a b _ => Nat.min a b

def execMaxu (h : Head) (et : EType) (d a : GReg) (b : GI) (s : State) : Host.Outcome State Fault Refusal :=
  run h s fun s => s.alu et d a b fun a b _ => Nat.max a b

def execCmp (h : Head) (et : EType) (cond : BitVec 3) (d a : GReg) (b : GI) (s : State) : Host.Outcome State Fault Refusal :=
  run h s fun s =>
    let n := etWidth et
    s.retG d (if condInt cond.toNat (etInt et (bits (s.t.rdG a).toNat 0 n)) (etInt et (bits (s.t.gi b).toNat 0 n)) then 1 else 0)

def execSel (h : Head) (d : GReg) (a b : GI) (s : State) : Host.Outcome State Fault Refusal :=
  run h s fun s => s.retG d (if s.t.rdG d ≠ 0 then s.t.gi a else s.t.gi b)

def execClz (h : Head) (et : EType) (d a : GReg) (s : State) : Host.Outcome State Fault Refusal :=
  run h s fun s => s.alu1 et d a clzN

def execCtz (h : Head) (et : EType) (d a : GReg) (s : State) : Host.Outcome State Fault Refusal :=
  run h s fun s => s.alu1 et d a ctzN

def execPopc (h : Head) (et : EType) (d a : GReg) (s : State) : Host.Outcome State Fault Refusal :=
  run h s fun s => s.alu1 et d a popN

/-- A field specifier's POS and LEN, if the field is legal (R130). -/
def State.field (s : State) (et : EType) (b : GI) (f : Nat → Nat → State) : State :=
  let w := (s.t.gi b).toNat
  let pos := bits w 0 6
  let len := bits w 6 7
  if len = 0 ∨ etWidth et < pos + len then s.trapOperand 3 (giKind b) else f pos len

def execBfx (h : Head) (et : EType) (d a : GReg) (b : GI) (s : State) : Host.Outcome State Fault Refusal :=
  run h s fun s => s.field et b fun pos len =>
    let r := bits (bits (s.t.rdG a).toNat 0 (etWidth et)) pos len
    s.retG d (if etSig et then BitVec.ofInt 64 (asInt r len) else w64 r)

def execBfi (h : Head) (et : EType) (d a : GReg) (b : GI) (s : State) : Host.Outcome State Fault Refusal :=
  run h s fun s => s.field et b fun pos len =>
    s.retG d (extTo (setBits (bits (s.t.rdG d).toNat 0 (etWidth et)) pos len (s.t.rdG a).toNat) et)

def execSext (h : Head) (et : EType) (d a : GReg) (s : State) : Host.Outcome State Fault Refusal :=
  run h s fun s => s.retG d (BitVec.ofInt 64 (asInt (bits (s.t.rdG a).toNat 0 (etWidth et)) (etWidth et)))

def execZext (h : Head) (et : EType) (d a : GReg) (s : State) : Host.Outcome State Fault Refusal :=
  run h s fun s => s.retG d (w64 (bits (s.t.rdG a).toNat 0 (etWidth et)))

def execLi (h : Head) (d : GReg) (imm : Imm56) (s : State) : Host.Outcome State Fault Refusal :=
  run h s fun s => s.retG d (imm.signExtend 64)

def execLih (h : Head) (d : GReg) (imm : BitVec 8) (s : State) : Host.Outcome State Fault Refusal :=
  run h s fun s => s.retG d (w64 (setBits (s.t.rdG d).toNat 56 8 imm.toNat))

def execMov (h : Head) (d : GReg) (a : GI) (s : State) : Host.Outcome State Fault Refusal :=
  run h s fun s => s.retG d (s.t.gi a)

end Sys2Proof.Machine
end

