-- ==== Sys2Proof/Machine/VecInt.lean ====
section
/-! DEFINITION. Vector integer, logic and mask instructions, class 0x5 (R146 to R151). -/

namespace Sys2Proof.Machine

/-- SatS and SatU of R73, by the ETYPE, as n bits. -/
def satEt (et : EType) (x : Int) : Nat :=
  let n := etWidth et
  if etSig et then
    toBits n (max (-((2 ^ (n - 1) : Nat) : Int)) (min ((2 ^ (n - 1) - 1 : Nat) : Int) x))
  else (max 0 (min ((2 ^ n - 1 : Nat) : Int) x)).toNat

/-- The frame of R149's destructive instructions: d and s to the new element, for each active element. -/
def State.velem (s : State) (et : EType) (d : VReg) (a : VGI) (m : Option MReg) (f : Nat → Nat → Nat → Nat) : State :=
  let w := etSize et
  let t := s.t
  s.retV d (mapV (t.rdV d) (t.om m) w fun i => f (el (t.rdV d) i w) (t.vgi a i w) (8 * w))

/-- The frame of the instructions with one source (R149). -/
def State.velem1 (s : State) (et : EType) (d a : VReg) (m : Option MReg) (f : Nat → Nat → Nat) : State :=
  let w := etSize et
  let t := s.t
  s.retV d (mapV (t.rdV d) (t.om m) w fun i => f (el (t.rdV a) i w) (8 * w))

/-! ### Arithmetic and logic (R149) -/

def execVadd (h : Head) (et : EType) (sat : Bool) (d : VReg) (a : VGI) (m : Option MReg) (s : State) : Host.Outcome State Fault Refusal :=
  run h s fun s => s.velem et d a m fun d s _ => if sat then satEt et (etInt et d + etInt et s) else d + s

def execVsub (h : Head) (et : EType) (sat : Bool) (d : VReg) (a : VGI) (m : Option MReg) (s : State) : Host.Outcome State Fault Refusal :=
  run h s fun s => s.velem et d a m fun d s n => if sat then satEt et (etInt et d - etInt et s) else d + 2 ^ n - s

def execVmul (h : Head) (et : EType) (d : VReg) (a : VGI) (m : Option MReg) (s : State) : Host.Outcome State Fault Refusal :=
  run h s fun s => s.velem et d a m fun d s _ => d * s

def execVmulh (h : Head) (et : EType) (d : VReg) (a : VGI) (m : Option MReg) (s : State) : Host.Outcome State Fault Refusal :=
  run h s fun s => s.velem et d a m fun d s n => toBits n ((etInt et d * etInt et s) / (2 ^ n : Nat))

def execVmin (h : Head) (et : EType) (d : VReg) (a : VGI) (m : Option MReg) (s : State) : Host.Outcome State Fault Refusal :=
  run h s fun s => s.velem et d a m fun d s _ => if etInt et d ≤ etInt et s then d else s

def execVmax (h : Head) (et : EType) (d : VReg) (a : VGI) (m : Option MReg) (s : State) : Host.Outcome State Fault Refusal :=
  run h s fun s => s.velem et d a m fun d s _ => if etInt et d ≤ etInt et s then s else d

def execVand (h : Head) (et : EType) (d : VReg) (a : VGI) (m : Option MReg) (s : State) : Host.Outcome State Fault Refusal :=
  run h s fun s => s.velem et d a m fun d s _ => d &&& s

def execVor (h : Head) (et : EType) (d : VReg) (a : VGI) (m : Option MReg) (s : State) : Host.Outcome State Fault Refusal :=
  run h s fun s => s.velem et d a m fun d s _ => d ||| s

def execVxor (h : Head) (et : EType) (d : VReg) (a : VGI) (m : Option MReg) (s : State) : Host.Outcome State Fault Refusal :=
  run h s fun s => s.velem et d a m fun d s _ => d ^^^ s

def execVshl (h : Head) (et : EType) (d : VReg) (a : VGI) (m : Option MReg) (s : State) : Host.Outcome State Fault Refusal :=
  run h s fun s => s.velem et d a m fun d s n => d * 2 ^ (s % n)

def execVshr (h : Head) (et : EType) (d : VReg) (a : VGI) (m : Option MReg) (s : State) : Host.Outcome State Fault Refusal :=
  run h s fun s => s.velem et d a m fun d s n => d / 2 ^ (s % n)

def execVsra (h : Head) (et : EType) (d : VReg) (a : VGI) (m : Option MReg) (s : State) : Host.Outcome State Fault Refusal :=
  run h s fun s => s.velem et d a m fun d s n => toBits n (asInt d n / (2 ^ (s % n) : Nat))

/-- VMAD: every element (R149). -/
def execVmad (h : Head) (et : EType) (d a : VReg) (b : VGI) (s : State) : Host.Outcome State Fault Refusal :=
  run h s fun s =>
    let w := etSize et
    let t := s.t
    s.retV d (mkV w fun i => el (t.rdV a) i w * t.vgi b i w + el (t.rdV d) i w)

def execVabs (h : Head) (et : EType) (sat : Bool) (d a : VReg) (m : Option MReg) (s : State) : Host.Outcome State Fault Refusal :=
  run h s fun s => s.velem1 et d a m fun x n =>
    let v : Int := (asInt x n).natAbs
    if sat then satEt et v else toBits n v

def execVneg (h : Head) (et : EType) (sat : Bool) (d a : VReg) (m : Option MReg) (s : State) : Host.Outcome State Fault Refusal :=
  run h s fun s => s.velem1 et d a m fun x n => if sat then satEt et (-(asInt x n)) else toBits n (-(x : Int))

def execVnot (h : Head) (et : EType) (d a : VReg) (m : Option MReg) (s : State) : Host.Outcome State Fault Refusal :=
  run h s fun s => s.velem1 et d a m fun x n => 2 ^ n - 1 - x

/-! ### Masks (R150) -/

def execVcmp (h : Head) (et : EType) (cond : BitVec 3) (d : MReg) (a : VReg) (b : VGI) (s : State) : Host.Outcome State Fault Refusal :=
  run h s fun s =>
    let w := etSize et
    let t := s.t
    s.retM d (mkM w fun i => condInt cond.toNat (etInt et (el (t.rdV a) i w)) (etInt et (t.vgi b i w)))

def execLbc (h : Head) (et : EType) (d : MReg) (a : GReg) (b : GI) (s : State) : Host.Outcome State Fault Refusal :=
  run h s fun s =>
    let x : Int := if etSig et then (s.t.rdG a).toInt else (s.t.rdG a).toNat
    let y : Int := if etSig et then (s.t.gi b).toInt else (s.t.gi b).toNat
    s.retM d (mkM (etSize et) fun i => decide (x + i < y))

def execKand (h : Head) (d a b : MReg) (s : State) : Host.Outcome State Fault Refusal :=
  run h s fun s => s.retM d (s.t.rdM a &&& s.t.rdM b)

def execKor (h : Head) (d a b : MReg) (s : State) : Host.Outcome State Fault Refusal :=
  run h s fun s => s.retM d (s.t.rdM a ||| s.t.rdM b)

def execKnot (h : Head) (d a : MReg) (s : State) : Host.Outcome State Fault Refusal :=
  run h s fun s => s.retM d (~~~(s.t.rdM a))

def execKpopc (h : Head) (et : EType) (d : GReg) (a : MReg) (s : State) : Host.Outcome State Fault Refusal :=
  run h s fun s =>
    let w := etSize et
    s.retG d (w64 ((List.range (lanes w)).countP fun i => act (s.t.rdM a) i w))

def execKfirst (h : Head) (et : EType) (d : GReg) (a : MReg) (s : State) : Host.Outcome State Fault Refusal :=
  run h s fun s =>
    let w := etSize et
    s.retG d (match (List.range (lanes w)).find? fun i => act (s.t.rdM a) i w with
      | some i => w64 i
      | none => BitVec.allOnes 64)

/-! ### Lane movement (R151) -/

def execVsel (h : Head) (et : EType) (d : VReg) (a : VGI) (m : MReg) (s : State) : Host.Outcome State Fault Refusal :=
  run h s fun s =>
    let w := etSize et
    let t := s.t
    s.retV d (mapV (t.rdV d) (t.rdM m) w fun i => t.vgi a i w)

def execVmov (h : Head) (d a : VReg) (s : State) : Host.Outcome State Fault Refusal :=
  run h s fun s => s.retV d (s.t.rdV a)

/-- A lane index, modulo n. -/
def Thread.lane (t : Thread) (b : GI) (w : Nat) : Nat := (t.gi b).toNat % lanes w

def execVbcast (h : Head) (et : EType) (d a : VReg) (b : GI) (s : State) : Host.Outcome State Fault Refusal :=
  run h s fun s =>
    let w := etSize et
    let t := s.t
    s.retV d (mkV w fun _ => el (t.rdV a) (t.lane b w) w)

def execVextr (h : Head) (et : EType) (d : GReg) (a : VReg) (b : GI) (s : State) : Host.Outcome State Fault Refusal :=
  run h s fun s =>
    let x := el (s.t.rdV a) (s.t.lane b (etSize et)) (etSize et)
    s.retG d (if et.toNat ≤ 7 then extTo x et else w64 x)

def execVins (h : Head) (et : EType) (d : VReg) (a b : GI) (s : State) : Host.Outcome State Fault Refusal :=
  run h s fun s =>
    let w := etSize et
    let t := s.t
    s.retV d (mkV w fun i => if i = t.lane b w then (t.gi a).toNat else el (t.rdV d) i w)

def execViota (h : Head) (et : EType) (d : VReg) (a b : GI) (s : State) : Host.Outcome State Fault Refusal :=
  run h s fun s => s.retV d (mkV (etSize et) fun i => (s.t.gi a).toNat + i * (s.t.gi b).toNat)

def execVwid (h : Head) (d : GReg) (s : State) : Host.Outcome State Fault Refusal :=
  run h s fun s => s.retG d 2048

end Sys2Proof.Machine
end

