-- ==== Sys2Proof/Machine/VecFp.lean ====
section
/-! DEFINITION. Vector floating point, class 0x6 (R152 to R155). -/

namespace Sys2Proof.Machine

/-- Combines element results: the register's elements by number, and the flags of the active ones. -/
def gather (m : MWord) (w : Nat) (f : Nat → Nat × Fl) : List (Nat × Fl) :=
  (List.range (lanes w)).map fun i => if act m i w then f i else (0, {})

def allFlags (l : List (Nat × Fl)) : Fl := l.foldl (fun a x => a.or x.2) {}

/-- Writes elements with their flags where the mask is set (R147). -/
def State.retFp (s : State) (d : VReg) (m : MWord) (w : Nat) (f : Nat → Nat × Fl) : State :=
  let r := gather m w f
  s.updT fun t => ((t.wrV d (mapV (t.rdV d) m w fun i => (r.getD i (0, {})).1)).raise (allFlags r)).step

/-- VFADD's shape: d and s of each active element. -/
def State.fpElem (s : State) (et : EType) (d : VReg) (a : VG) (m : Option MReg) (f : Nat → Nat → Nat × Fl) : State :=
  let w := etSize et
  let t := s.t
  s.retFp d (t.om m) w fun i => f (el (t.rdV d) i w) (t.vg a i w)

/-- VFMA's shape: a, s and d of every element. -/
def State.fpFma (s : State) (et : EType) (d a : VReg) (b : VG) (f : Nat → Nat → Nat → Nat × Fl) : State :=
  let w := etSize et
  let t := s.t
  s.retFp d (BitVec.allOnes 256) w fun i => f (el (t.rdV a) i w) (t.vg b i w) (el (t.rdV d) i w)

def execVfadd (h : Head) (et : EType) (rnd : Rnd) (d : VReg) (a : VG) (m : Option MReg) (s : State) : Host.Outcome State Fault Refusal :=
  run h s fun s => s.fpElem et d a m (fAdd (fmt et.toNat) (s.t.mode rnd))

def execVfsub (h : Head) (et : EType) (rnd : Rnd) (d : VReg) (a : VG) (m : Option MReg) (s : State) : Host.Outcome State Fault Refusal :=
  run h s fun s => s.fpElem et d a m (fSub (fmt et.toNat) (s.t.mode rnd))

def execVfmul (h : Head) (et : EType) (rnd : Rnd) (d : VReg) (a : VG) (m : Option MReg) (s : State) : Host.Outcome State Fault Refusal :=
  run h s fun s => s.fpElem et d a m (fMul (fmt et.toNat) (s.t.mode rnd))

def execVfma (h : Head) (et : EType) (rnd : Rnd) (d a : VReg) (b : VG) (s : State) : Host.Outcome State Fault Refusal :=
  run h s fun s => s.fpFma et d a b (fMulAdd (fmt et.toNat) (s.t.mode rnd) false false)

def execVfms (h : Head) (et : EType) (rnd : Rnd) (d a : VReg) (b : VG) (s : State) : Host.Outcome State Fault Refusal :=
  run h s fun s => s.fpFma et d a b (fMulAdd (fmt et.toNat) (s.t.mode rnd) false true)

def execVfnma (h : Head) (et : EType) (rnd : Rnd) (d a : VReg) (b : VG) (s : State) : Host.Outcome State Fault Refusal :=
  run h s fun s => s.fpFma et d a b (fMulAdd (fmt et.toNat) (s.t.mode rnd) true false)

def execVfmin (h : Head) (et : EType) (d : VReg) (a : VG) (m : Option MReg) (s : State) : Host.Outcome State Fault Refusal :=
  run h s fun s => s.fpElem et d a m (fMinMax (fmt et.toNat) false)

def execVfmax (h : Head) (et : EType) (d : VReg) (a : VG) (m : Option MReg) (s : State) : Host.Outcome State Fault Refusal :=
  run h s fun s => s.fpElem et d a m (fMinMax (fmt et.toNat) true)

def execVfabs (h : Head) (et : EType) (d a : VReg) (m : Option MReg) (s : State) : Host.Outcome State Fault Refusal :=
  run h s fun s => s.retFp d (s.t.om m) (etSize et) fun i =>
    fSign (fmt et.toNat) (fun _ => false) (el (s.t.rdV a) i (etSize et))

def execVfneg (h : Head) (et : EType) (d a : VReg) (m : Option MReg) (s : State) : Host.Outcome State Fault Refusal :=
  run h s fun s => s.retFp d (s.t.om m) (etSize et) fun i =>
    fSign (fmt et.toNat) (fun b => !b) (el (s.t.rdV a) i (etSize et))

def execVfcmp (h : Head) (et : EType) (cond : BitVec 3) (d : MReg) (a : VReg) (b : VG) (s : State) : Host.Outcome State Fault Refusal :=
  run h s fun s =>
    let w := etSize et
    let t := s.t
    let r := (List.range (lanes w)).map fun i => fCmp (fmt et.toNat) cond.toNat (el (t.rdV a) i w) (t.vg b i w)
    s.updT fun t => ((t.wrM d (mkM w fun i => (r.getD i (false, {})).1)).raise (r.foldl (fun a x => a.or x.2) {})).step

/-- The identity of VRED's operation (R71): −0, −∞ or +∞. -/
def redIdentity (f : Fmt) (op : Nat) : Nat :=
  match op with
  | 0 => f.sgn
  | 1 => f.sgn + f.infCode
  | _ => f.infCode

def execVred (h : Head) (et : EType) (rnd : Rnd) (op : BitVec 2) (d : GReg) (a : VReg) (m : Option MReg) (s : State) : Host.Outcome State Fault Refusal :=
  run h s fun s =>
    let w := etSize et
    let f := fmt et.toNat
    let t := s.t
    let l := (List.range (lanes w)).map fun i =>
      if act (t.om m) i w then el (t.rdV a) i w else redIdentity f op.toNat
    let node := match op.toNat with
      | 0 => fAdd f (t.mode rnd)
      | 1 => fMinMax f true
      | _ => fMinMax f false
    let (x, fl) := pairTree node (Nat.log2 (lanes w)) l
    s.updT fun t => ((t.wrG d (w64 x)).raise fl).step

def execVfclass (h : Head) (et : EType) (d a : VReg) (m : Option MReg) (s : State) : Host.Outcome State Fault Refusal :=
  run h s fun s => s.retV d (mapV (s.t.rdV d) (s.t.om m) (etSize et) fun i =>
    fClass (fmt et.toNat) (el (s.t.rdV a) i (etSize et)))

end Sys2Proof.Machine
end

