-- ==== Sys2Proof/Machine/Mull.lean ====
section
/-! DEFINITION. Mull regions: their instructions and the link engines' exchanges (R296 to R311). -/

namespace Sys2Proof.Machine

/-! ### Exchanges (R298, R299) -/

/-- Whether the link engine of link l at a die exchanges the region. -/
def Region.linked (r : Region) (die l : Nat) : Bool :=
  r.live && decide (l < 4) && r.members.contains die && r.members.contains (torusTo die l)

/-- A held exchange that is not on its way is sent again, with its SEQ (R276, R299). -/
def State.mullResend (s : State) (i k : Nat) : State :=
  let x := (i, k / 4, k % 4)
  if ((s.region i).out (k / 4) (k % 4)).valid && !s.mullX.contains x then { s with mullX := s.mullX ++ [x] } else s

/-- MULL_EXCHANGE_SEND: link engine arg.b = 4 × die + link takes its next slot for region arg.a, or sends what it holds
again where `again` is not 0. A new CADENCE takes effect at the engine's next slot, which a CADENCE of 0 already stops
(R310; DESIGN CHOICE, log 212). -/
def State.mullSend (s : State) (i k again : Nat) : State :=
  if again ≠ 0 then s.mullResend i k else
  let r := s.region i
  let die := k / 4
  let l := k % 4
  let o := r.out die l
  if !r.linked die l ∨ r.cadence = 0 ∨ s.now < o.slotAt + 192 * o.period ∨ s.faulted r.fn ∨ 2 ≤ (s.fn r.fn).migr.st then s
  else if o.valid then s.setRegion i (r.setOut die l { o with slotAt := s.now, period := r.cadence })
  else
    let x := r.rep die o.cursor
    let o := { o with slotAt := s.now, period := r.cadence, cursor := (o.cursor + 1) % max 1 r.stripes }
    if x.damaged ∨ x.w < 2 then s.setRegion i (r.setOut die l o)
    else
      let st := (r.out die l).cursor
      let hs : Tab Int := tmap 0 (fun _ v => v / 2) x.s
      let y : Stripe := { x with s := tmap 0 (fun _ v => v - v / 2) x.s, w := x.w - x.w / 2 }
      let seq := (o.sendseq + 1) % 2 ^ 32
      let o := { o with valid := true, seq := seq, stripe := st, region := tget 0 r.slots die, hw := x.w / 2, hs := hs, sendseq := seq }
      { s.setRegion i ((r.setRep die st y).setOut die l o) with mullX := s.mullX ++ [(i, die, l)] }

def execMullExchangeSend (s : State) : Host.Outcome State Fault Refusal := event s fun s => s.mullSend s.arg.a s.arg.b s.arg.c

/-- MULL_EXCHANGE_APPLY: the exchange of region arg.a sent by arg.b = 4 × die + link arrives. -/
def State.mullApply (s : State) (i k : Nat) : State :=
  let r := s.region i
  let die := k / 4
  let l := k % 4
  let o := r.out die l
  if !s.mullX.contains (i, die, l) ∨ !o.valid then s
  else
    let nb := torusTo die l
    let back := torusBack l
    let b := r.out nb back
    let r := if b.applied = o.seq then r
      else (r.setRep nb o.stripe (applyHalf r.e (r.rep nb o.stripe) o.hw o.hs)).setOut nb back { b with applied := o.seq }
    { s.setRegion i r with mullX := s.mullX.erase (i, die, l), mullAcks := s.mullAcks ++ [(i, die, l)] }

/-- The transfer arrives, or is lost on the link where arg.c is not 0. -/
def execMullExchangeApply (s : State) : Host.Outcome State Fault Refusal :=
  event s fun s => if s.arg.c = 0 then s.mullApply s.arg.a s.arg.b
    else { s with mullX := s.mullX.erase (s.arg.a, s.arg.b / 4, s.arg.b % 4) }

/-- MULL_ACK: the acknowledgement for region arg.a reaches arg.b = 4 × die + link. -/
def State.mullAck (s : State) (i k : Nat) : State :=
  let r := s.region i
  let die := k / 4
  let l := k % 4
  if s.mullAcks.contains (i, die, l) then
    { s.setRegion i (r.setOut die l { r.out die l with valid := false }) with
      mullAcks := s.mullAcks.filter fun x => x != (i, die, l)
      mullX := s.mullX.filter fun x => x != (i, die, l) }
  else s

/-- The acknowledgement arrives, or is lost on the link where arg.c is not 0. -/
def execMullAck (s : State) : Host.Outcome State Fault Refusal :=
  event s fun s => if s.arg.c = 0 then s.mullAck s.arg.a s.arg.b
    else { s with mullAcks := s.mullAcks.erase (s.arg.a, s.arg.b / 4, s.arg.b % 4) }

/-! ### MLADD, MLREAD, MSPREAD, MLFENCE (R304 to R309) -/

/-- The region a handle's node is, where the issuing die is a member. -/
def State.regionOf (s : State) (n : Node) : Option Nat :=
  match n with
  | .made i => if (s.madeN i).kind = kMull ∧ (s.region (s.madeN i).region).members.contains (coreDie s.core_)
      then some (s.madeN i).region else none
  | _ => none

/-- R305's checks of `cnt` words through a memory operand: the region and the offset. -/
def State.mullWords (s : State) (m : MemOp) (cnt need field : Nat) : Except Trp (Nat × Nat) :=
  let p := s.ptr m.b
  match s.checkPtr s.t.ctx p m.b.toNat (dispOf m 8) (8 * cnt) need with
  | .error t => .error t
  | .ok (h, off) =>
    if off % 8 ≠ 0 then .error ⟨0x14, addrOf p off, 8 * cnt⟩
    else if off / 4096 ≠ (off + 8 * cnt - 1) / 4096 then .error ⟨0x10, addrOf p off, 8 * cnt⟩
    else match s.regionOf h.node with
      | some r => .ok (r, off)
      | none => .error (trOperand field 3)

/-- Every earlier addition of the issuing activation to the stripe. -/
def State.flushStripe (s : State) (r k : Nat) : State :=
  s.flushAdds fun a => a.party == s.me && a.region == r && a.stripe == k

/-- MLADD is posted. -/
def State.mladd (s : State) (mass : Bool) (mode : Nat) (m : MemOp) (v : VWord) (cnt : Nat) : State :=
  if cnt = 0 then s.next
  else s.try_ (s.mullWords m cnt rW 1) fun (r, off) =>
    let w := if mass then 8 else 4
    let a : MullAdd := { party := s.me, thread := s.cur, region := r, die := coreDie s.core_, stripe := off / 4096,
                         first := off % 4096 / 8, mass := mass, rnd := mode,
                         vals := (List.range cnt).map fun i => el v i w }
    { s with mullAdds := s.mullAdds ++ [a] }.next

def execMladd (h : Head) (mass : Bool) (rnd : Rnd) (d : MemOp) (a : VReg) (b : GI) (s : State) : Host.Outcome State Fault Refusal :=
  run h s fun s => s.mladd mass (s.t.mode rnd) d (s.t.rdV a) (min (s.t.gi b).toNat (if mass then 32 else 64))

/-- An estimate as MLREAD gives it (R307). -/
def estimate (mode : Nat) (e : Int) (x : Stripe) (i : Nat) : Nat × Fl :=
  if x.damaged then (nan32, { nv := true })
  else
    let v := tget 0 x.s i
    ratFp mode (decide (v < 0)) v.natAbs x.w e

/-- MLREAD's elements. -/
def State.mlread (s : State) (et : EType) (mode : Nat) (d : VReg) (m : MemOp) (cnt : Nat) : State :=
  if cnt = 0 then s.next
  else s.try_ (s.mullWords m cnt rR 2) fun (r, off) =>
    let s := s.flushStripe r (off / 4096)
    let g := s.region r
    let x := g.rep (coreDie s.core_) (off / 4096)
    let i0 := off % 4096 / 8
    let w := etSize et
    let els : List (Nat × Fl) := (List.range cnt).map fun i =>
      if et = 10 then estimate mode g.e x (i0 + i)
      else if et = 6 then (toBits 64 (tget 0 x.s (i0 + i)), {})
      else ([x.w, x.damaged.toNat, x.spread.toNat].getD i 0, {})
    s.updT fun t => ((t.wrV d (mkV w fun i => match els[i]? with
      | some e => e.1
      | none => el (t.rdV d) i w)).raise (allFlags els)).step

def execMlread (h : Head) (et : EType) (rnd : Rnd) (d : VReg) (a : MemOp) (b : Option GI) (s : State) : Host.Outcome State Fault Refusal :=
  run h s fun s =>
    let cnt := match b with
      | some x => min (s.t.gi x).toNat (if et = 10 then 64 else 32)
      | none => 3
    s.mlread et (s.t.mode rnd) d a cnt

/-- Some of the region's exchanges on their way to the die arrive. -/
def State.landSome (s : State) (r die m : Nat) : State :=
  ((s.mullX.filter fun x => x.1 == r && torusTo x.2.1 x.2.2 == die).take m).foldl (fun s x => s.mullApply x.1 (4 * x.2.1 + x.2.2)) s

/-- The largest of `c` spread words from stripe k on and `best`. The words are not read at one instant: between two of
them, exchanges may arrive, how many being left open (R308). -/
def State.spreadMax (s : State) (r die : Nat) : Nat → Nat → Nat → Nat × State
  | 0, _, best => (best, s)
  | c + 1, k, best =>
    let x := (s.region r).rep die k
    let best := max best (if x.damaged then fp32.infCode else x.spread.toNat)
    let s := if c = 0 then s else s.landSome r die (Config.landed s.fresh k)
    s.spreadMax r die c (k + 1) best

/-- MSPREAD: the largest spread word of c stripes. -/
def State.mspread (s : State) (d : GReg) (b : BReg) (c : Nat) : State :=
  let p := s.ptr b
  s.try_ (s.checkPtr s.t.ctx p b.toNat 0 (4096 * c) rR) fun (h, off) =>
    if off % 4096 ≠ 0 then s.trap 0x14 (addrOf p off) (4096 * c)
    else match s.regionOf h.node with
      | none => s.trapOperand 2 3
      | some r =>
        let (v, s) := s.spreadMax r (coreDie s.core_) c (off / 4096) 0
        s.retG d (w64 v)

def execMspread (h : Head) (d : GReg) (a : BReg) (b : GI) (s : State) : Host.Outcome State Fault Refusal :=
  run h s fun s =>
    let c := (s.t.gi b).toNat
    if c = 0 then s.trapOperand 3 (giKind b) else s.mspread d a c

def execMlfence (h : Head) (s : State) : Host.Outcome State Fault Refusal :=
  run h s fun s => (s.flushAdds fun a => a.party == s.me).next

/-! ### MLCFG (R310) -/

def opMLCFG : Nat := 840
def mlNO_RIGHTS : Nat := 3
def mlEXISTS : Nat := 9
def mlFULL : Nat := 10
def mlDISCONNECTED : Nat := 14
def mlINVALID : Nat := 15

/-- The physical die of a logical one under context c's route table, where the partition holds a quarto of it. -/
def State.mapDie (s : State) (c d : Nat) : Option Nat :=
  match s.tableRead c (bits (s.ctx c).routetab.toNat 0 20) d 1 with
  | some b =>
    let e := natOfBytes b
    let p := e % 32
    if bitOn e 7 ∧ (List.range 4).any (fun q => s.holds (s.ctx c).fn (q + 4 * p)) then some p else none
  | none => none

/-- The dies of a list that torus links between its members reach. -/
def spreadDies (all : List Nat) : Nat → List Nat → List Nat
  | 0, l => l
  | f + 1, l => spreadDies all f ((l ++ l.flatMap fun d => ((List.range 4).map (torusTo d)).filter all.contains).eraseDups)

/-- Frames of one replica on each die, or none where a die's HBM has no room. -/
def State.replicaFrames (s : State) (n size : Nat) : List Nat → Option (Tab (Option Nat) × State)
  | [] => some ([], s)
  | d :: r =>
    let cnt := footprint size / 65536
    match s.findRun n d 2 cnt (pageSize size / 65536) with
    | none => none
    | some f =>
      match (s.updFn n fun x => { x with runs := (f, cnt) :: x.runs }).replicaFrames n size r with
      | none => none
      | some (t, s) => some (tset none t d (some f), s)

/-- The lowest region slot that a die has free, 0 to 15 (R300). -/
def State.regionSlot (s : State) (d : Nat) : Nat :=
  ((List.range 16).find? fun k => !(s.mull.any fun e => e.2.live && e.2.members.contains d && tget 0 e.2.slots d == k)).getD 0

/-- CREATE from a configuration block, whose reserved bits are ignored (R7): the status. -/
def State.mullCreate (s : State) (x : Nat) : Nat × State :=
  let c := s.t.ctx
  let n := s.ctxFn c
  let stripes := bits x 320 24
  let mask := bits x 256 32
  let dies := ((List.range 32).filter (bitOn mask)).map (s.mapDie c)
  let members := dies.filterMap id
  match unpad (bytesOfNat 32 (bits x 0 256)) with
  | none => (mlINVALID, s)
  | some name =>
    if stripes = 0 ∨ 65536 < stripes ∨ mask = 0 ∨ !pathOk 1 name then
      (mlINVALID, s)
    else if dies.contains none then (mlNO_RIGHTS, s)
    else if (spreadDies members 32 (members.take 1)).length < members.eraseDups.length then (mlDISCONNECTED, s)
    else if (s.child c .mulls name).isSome then (mlEXISTS, s)
    else if members.any fun d => decide (16 ≤ s.mull.countP fun e => e.2.live && e.2.members.contains d) then (mlFULL, s)
    else match s.replicaFrames n (4096 * stripes) members.eraseDups with
      | none => (mlFULL, s)
      | some (frames, s) =>
        let k := ((s.mull.map fun e => e.1 + 1).foldl max 0)
        -- its node is homed on die 0, as everything outside /dies (R242)
        let m : Made := { kind := kMull, grant := BitVec.ofNat 8 (bits x 376 8), home := 0, size := 4096 * stripes, fn := n,
                          base := (tget none frames (members.headD 0)).getD 0, region := k }
        match s.make m (some (.mulls, name, none)) with
        | none => (mlFULL, s)
        | some (i, s) =>
          (0, s.setRegion k { node := i, live := true, members := members.eraseDups, stripes := stripes,
                              e := asInt (bits x 368 8) 8, cadence := bits x 352 16, prio := bits x 344 3, ctx := c, fn := n,
                              frames := frames, slots := members.foldl (fun t d => tset 0 t d (s.regionSlot d)) [] })

def execMlcfgCreate (h : Head) (d : GReg) (a : BReg) (b : GI) (s : State) : Host.Outcome State Fault Refusal :=
  run h s fun s => s.atLeast 1 opMLCFG fun s =>
    if s.t.gi b ≠ 0 then s.trapOperand 3 (giKind b)
    else s.try_ (s.reach (s.ptr a) a.toNat 0 64 rR .load 16 (ownPad s.myPad 2)) fun hit =>
      s.try_ (s.readHit (s.ptr a) hit 64 0 0) fun (bs, s) =>
        let (st, s) := s.mullCreate (natOfBytes bs)
        s.retG d (w64 st)

/-- The made node and region that a region pointer names: TAG and REVOKED only, then the kind. -/
def State.mullPtr (s : State) (b : BReg) : Except Trp (Nat × Nat) :=
  match s.checkHandle s.t.ctx (s.ptr b) b.toNat with
  | .error t => .error t
  | .ok h => match h.node with
    | .made i => if (s.madeN i).kind = kMull then .ok (i, (s.madeN i).region) else .error (trOperand 2 3)
    | _ => .error (trOperand 2 3)

def execMlcfgCadence (h : Head) (d : GReg) (a : BReg) (b : GI) (s : State) : Host.Outcome State Fault Refusal :=
  run h s fun s => s.atLeast 1 opMLCFG fun s =>
    let v := (s.t.gi b).toNat
    if 65535 < v then s.trapOperand 3 (giKind b)
    else s.try_ (s.mullPtr a) fun (_, r) => (s.updRegion r fun x => { x with cadence := v }).retG d 0

/-- An OUT register is discarded, with the receiver's APPLIED advanced past it. -/
def Region.discardOut (r : Region) (die l : Nat) : Region :=
  let o := r.out die l
  let nb := torusTo die l
  let back := r.out nb (torusBack l)
  (r.setOut die l { o with valid := false }).setOut nb (torusBack l) { back with applied := o.seq }

/-- RESET of stripes f to f + n − 1 at every member. -/
def Region.reset (r : Region) (f n : Nat) : Region :=
  let r := r.outs.foldl (fun r o =>
    if o.2.valid && decide (f ≤ o.2.stripe) && decide (o.2.stripe < f + n) then r.discardOut (o.1 / 4) (o.1 % 4) else r) r
  { r with reps := tdrop (fun k => decide (f ≤ k % 65536) && decide (k % 65536 < f + n)) r.reps }

/-- Exchanges and acknowledgements on their way whose OUT register is no longer valid are gone. -/
def State.pruneMull (s : State) : State :=
  { s with
    mullX := s.mullX.filter fun x => ((s.region x.1).out x.2.1 x.2.2).valid
    mullAcks := s.mullAcks.filter fun x => ((s.region x.1).out x.2.1 x.2.2).valid }

def execMlcfgReset (h : Head) (d : GReg) (a : BReg) (b : GI) (s : State) : Host.Outcome State Fault Refusal :=
  run h s fun s => s.atLeast 1 opMLCFG fun s =>
    let n := (s.t.gi b).toNat
    if n = 0 then s.trapOperand 3 (giKind b)
    else s.try_ (s.mullPtr a) fun (_, r) =>
      let f := (s.ptr a).cursor / 4096
      if (s.region r).stripes < f + n then s.retG d (w64 mlINVALID)
      else ((s.updRegion r fun x => x.reset f n).pruneMull).retG d 0

/-- A region and its node are gone. -/
def State.mullDestroy (s : State) (i r : Nat) : State :=
  let g := s.region r
  let (_, s) := s.revokeAll (.made i) none
  let s := s.updFn g.fn fun x => { x with runs := x.runs.filter fun y => !(g.frames.any fun e => e.2 == some y.1) }
  let s := (s.unmake i).setRegion r {}
  { s.pruneMull with mullAdds := s.mullAdds.filter fun a => a.region != r }

def execMlcfgDestroy (h : Head) (d : GReg) (a : BReg) (b : GI) (s : State) : Host.Outcome State Fault Refusal :=
  run h s fun s => s.atLeast 1 opMLCFG fun s =>
    if s.t.gi b ≠ 0 then s.trapOperand 3 (giKind b)
    else s.try_ (s.mullPtr a) fun (i, r) => (s.mullDestroy i r).retG d 0

/-- Every exchange of a function's regions in flight is applied and acknowledged (R331). -/
def State.mullSettle (s : State) (n : Nat) : State :=
  let s := (s.mullX.filter fun x => (s.region x.1).fn == n).foldl (fun s x => s.mullApply x.1 (4 * x.2.1 + x.2.2)) s
  (s.mullAcks.filter fun x => (s.region x.1).fn == n).foldl (fun s x => s.mullAck x.1 (4 * x.2.1 + x.2.2)) s

end Sys2Proof.Machine
end

