-- ==== Sys2Proof/Machine/Boot.lean ====
section
/-! DEFINITION. Resets, boot, device errors and life-cycle fuses (R259, R321, R343, R349, R350, R355). -/

namespace Sys2Proof.Machine

/-! ### Boot (R350) -/

/-- MODULE_RESET: everything as at reset but the fuses, the boot counter and what is to come from outside. -/
def State.moduleReset (s : State) : State :=
  { State.reset with agenda := s.agenda, fresh := s.fresh, life := s.life, identityErased := s.identityErased,
                     bootCount := s.bootCount }

def execModuleReset (s : State) : Host.Outcome State Fault Refusal := event s State.moduleReset

/-- Whether flash slot k holds firmware that stage 1 accepts: signed under the fused key, and of no version below
the fused minimum. -/
def slotVerifies (k : Nat) : Bool :=
  match Config.readFirmware (Config.flashSlot k) with
  | none => false
  | some f => Config.shake256 f.key == Config.fusedKey && Config.xmssOk f.key f.signature f.signed
      && decide (Config.fusedVersion ≤ f.version)

/-- BOOT_STAGE: the ROM's next stage. Slot A is tried, else slot B; `failed` has a bit for each compute die that
fails to train in stage 2 or 3. -/
def State.bootStep (s : State) (failed : Nat) : State :=
  let mask : BitVec 32 := BitVec.ofNat 32 failed
  match s.bootStage.toNat with
  | 0 => { s with bootCount := s.bootCount + 1, bootStage := if slotVerifies 0 || slotVerifies 1 then 1 else 0x81 }
  | 1 => { s with bootDies := ~~~mask, bootStage := if mask = 0 then 2 else 0x82 }
  | 2 | 0x82 => { s with bootDies := s.bootDies &&& ~~~mask, bootStage := if mask = 0 then 3 else 0x83 }
  | 3 | 0x83 => { s with bootStage := 4 }
  | 4 => { s with bootStage := 5 }
  | _ => s

def execBootStage (s : State) : Host.Outcome State Fault Refusal := event s fun s => s.bootStep s.arg.b

/-! ### Device errors (R355) -/

/-- DEVICE_ERROR: cause arg.a and unit arg.b; arg.data names the affected partitions. -/
def State.deviceError (s : State) (cause unit : Nat) (fns : List Byte) : State :=
  if cause = 1 ∨ cause = 3 ∨ cause = 4 then
    fns.foldl (fun s n => if s.fns.any (·.1 == n.toNat) then s.faultFn n.toNat cause unit else s) s
  else s

def execDeviceError (s : State) : Host.Outcome State Fault Refusal :=
  event s fun s => s.deviceError s.arg.a s.arg.b s.arg.data

/-- CORRECTABLE_ERROR: die arg.a's counter rises. -/
def execCorrectableError (s : State) : Host.Outcome State Fault Refusal :=
  event s fun s => { s with corrected := tset 0 s.corrected s.arg.a (tget 0 s.corrected s.arg.a + 1) }

/-! ### Function-level reset (R259, R355, R356) -/

/-- Whether a machine granule is function n's: it lies in a quarto that the function holds, or MAP2 has given it
the function where no function holds its quarto (R264). -/
def State.granuleIn (s : State) (n g : Nat) : Bool :=
  let i := g / 64
  let q := (if granTier g = 0 then i / 8192 else i / 32768) + 4 * granDie g
  s.holds n q || (s.ownerOf q).isNone && (s.fn n).s2.any (·.2 == g + 2)

/-- Whether a model address is in the partition's memory: its granules, its pads. -/
def State.addrIn (s : State) (n a : Nat) : Bool :=
  if a < 2 ^ 44 then s.granuleIn n (a / 2 ^ 21) else if a < 2 ^ 45 then s.holds n (padQuarto ((a - 2 ^ 44) / 2 ^ 21)) else false

/-- The partition's memory is zero, with no tag or mark, and no access of it is remembered. -/
def State.zeroMem (s : State) (n : Nat) : State :=
  { s with
    mem := tdrop (s.addrIn n) s.mem
    tags := tdrop (fun k => s.addrIn n (16 * k)) s.tags
    marks := tdrop (fun k => s.addrIn n (64 * k)) s.marks
    lines := tdrop (fun k => s.addrIn n (64 * k)) s.lines
    vars := tdrop (s.addrIn n) s.vars
    joinCarry := tdrop (fun k => s.addrIn n (64 * k)) s.joinCarry
    swCarry := tdrop (fun k => s.holds n (padQuarto (k / 2 ^ 22))) s.swCarry }

/-- Every context, those of lower levels first. -/
def State.destroyAll (s : State) (n : Nat) : State :=
  [0, 1, 2].foldl (fun s p => ((s.rotation n).filter fun c => (s.ctx c).priv == p).foldl (fun s c => s.destroyCtx n c) s) s

/-- The host context's handles are closed, but for entry 0. -/
def State.closeHost (s : State) (n : Nat) : State :=
  (((s.fn n).hostHandles.filter fun e => e.2.used && e.1 != 0).map (·.1)).foldl (fun s k => s.freeHandle (65536 + n) k) s

/-- Objects and regions of the function are gone. -/
def State.dropObjects (s : State) (n : Nat) : State :=
  let s := (s.mull.filter fun e => e.2.live && e.2.fn == n).foldl (fun s e => s.mullDestroy e.2.node e.1) s
  (s.made.filter fun e => e.2.fn == n).foldl (fun s e => if s.made.any (·.1 == e.1) then (s.revokeAll (.made e.1) none).2.unmake e.1 else s) s

/-- The function as it is once its record has been accepted: its port is empty, nothing is migrating. -/
def Fn.afterReset (f : Fn) : Fn :=
  { recd := f.recd, hostHandles := f.hostHandles, hostParty := f.hostParty, hostFseq := f.hostFseq }

/-- FUNCTION_LEVEL_RESET of function arg.a. -/
def State.functionReset (s : State) (n : Nat) : State :=
  let s := ((s.destroyAll n).closeHost n).dropObjects n
  let s := { s with
    oldMaps := s.oldMaps.filter fun o => (s.txn o.txn).host != some n
    txns := tkeep (fun _ t => t.host != some n) s.txns }
  let s := (s.quartosOf n).foldl (fun s q => s.resetQuarto q) (s.zeroMem n)
  s.updFn n Fn.afterReset

def execFunctionLevelReset (s : State) : Host.Outcome State Fault Refusal := event s fun s => s.functionReset s.arg.a

/-! ### Life cycle (R343) -/

def lifeOf : Nat → Life
  | 0 => .manufacture
  | 1 => .provisioned
  | 2 => .deployed
  | _ => .returned

/-- LIFE_CYCLE_CHANGE: the fuses move to a later state; entering RETURNED erases the identity key. -/
def State.lifeChange (s : State) (k : Nat) : State :=
  let l := lifeOf k
  if lifeCode l ≤ lifeCode s.life then s
  else { s with life := l, identityErased := s.identityErased || l == .returned }

def execLifeCycleChange (s : State) : Host.Outcome State Fault Refusal := event s fun s => s.lifeChange s.arg.a

end Sys2Proof.Machine
end

