-- ==== Sys2Proof/Machine/Butterfly.lean ====
section
/-! DEFINITION. Butterfly instructions, class 0xB (R218 to R229). -/

namespace Sys2Proof.Machine

/-! ### MTWID (R221) -/

/-- Divides out one prime as often as it goes, at most `fuel` times. -/
def divOut (p n : Nat) : Nat → Nat
  | 0 => n
  | f + 1 => if n % p = 0 then divOut p (n / p) f else n

/-- No prime factor but 2, 3 and 5. -/
def smooth (n : Nat) : Bool := divOut 5 (divOut 3 (divOut 2 n 17) 17) 17 == 1

/-- A valid plan word's N, B, T and DIR. -/
def planWord (w : Word) : Option (Nat × Nat × Nat × Bool) :=
  let x := w.toNat
  let n := bits x 0 17
  let b := bits x 17 15
  let t := bits x 32 4
  if bits x 37 27 ≠ 0 ∨ n < 2 ∨ 65536 < n ∨ b = 0 ∨ 4096 < b ∨ t = 0 ∨ 8 < t ∨ !smooth n then none
  else if (n ≤ 8192 ∧ n * b ≤ 8192) ∨ (8192 < n ∧ n % 8192 = 0 ∧ b = 1 ∧ t = n / 8192) then some (n, b, t, bitOn x 36)
  else none

def radixOf (code : Nat) : Nat := [2, 3, 4, 5, 8].getD code 0

/-- A valid radix word's radices, for N points. A bit beyond the first L stages makes it invalid (R221); bits [7:5],
below the codes, are ignored (R7). -/
def radixWord (w : Word) (n : Nat) : Option (List Nat) :=
  let x := w.toNat
  let l := bits x 0 5
  let codes := (List.range l).map fun i => bits x (8 + 3 * i) 3
  if l = 0 ∨ 16 < l ∨ (codes.any fun c => decide (4 < c)) ∨ x / 2 ^ (8 + 3 * l) ≠ 0 then none
  else
    let rs := codes.map radixOf
    if rs.foldl (· * ·) 1 = n then some rs else none

def execMtwid (h : Head) (d a : GReg) (s : State) : Host.Outcome State Fault Refusal :=
  run h s fun s => s.ofRole [rPress] 704 fun s =>
    match planWord (s.t.rdG d) with
    | none => s.trapOperand 1 1
    | some (n, b, t, inv) => match radixWord (s.t.rdG a) n with
      | none => s.trapOperand 2 1
      | some rs =>
        let p : Plan := { n := n, b := b, t := t, inv := inv, radices := rs }
        (s.updQuarto s.myQuarto fun x => { x with plans := tset {} x.plans s.t.ctx p }).next

/-- The issuing context's plan at its quarto. -/
def State.plan (s : State) : Plan := tget {} (s.quarto s.myQuarto).plans s.t.ctx

/-! ### Runs (R218, R219) -/

/-- A run operand: its first sheet, or ILLEGAL_OPERAND where it passes sheet 127. -/
def State.runNum (s : State) (x : GI) (t field : Nat) : Except Trp Nat :=
  let v := (s.t.gi x).toNat
  if v + t ≤ 128 ∧ v ≤ 127 then .ok v else .error (trOperand field (giKind x))

/-- Every sheet of a run is held. -/
def State.runCheck (s : State) (f t : Nat) : Except Trp Unit :=
  match (List.range t).find? fun i => !s.holdsSheet s.t.ctx s.myQuarto (f + i) with
  | some i => .error ⟨0x23, 0, f + i⟩
  | none => .ok ()

/-- The half is held. -/
def State.halfCheck (s : State) (h : Nat) : Except Trp Unit := s.sheetCheck [s.myQuarto] (128 + h)

/-- A butterfly command is accepted. -/
def State.acceptB (s : State) (cmd : PortCmd) : State :=
  s.accept { cmd := cmd, quarto := s.myQuarto, core := s.core_, ctx := s.t.ctx }

/-! ### MDREV, MBFLY, MCMUL (R222, R224, R226) -/

def execMdrev (h : Head) (d a : GI) (s : State) : Host.Outcome State Fault Refusal :=
  run h s fun s => s.ofRole [rPress] 705 fun s =>
    let p := s.plan
    if p = {} then s.trapOperand 1 (giKind d)
    else s.try_ (s.runNum d p.t 1) fun dst => s.try_ (s.runNum a p.t 2) fun src =>
      s.try_ (s.runCheck dst p.t) fun _ => s.try_ (s.runCheck src p.t) fun _ => (s.acceptB (.mdrev dst src p)).next

def execMbfly (h : Head) (scale : BitVec 3) (d a : GI) (b : GReg) (s : State) : Host.Outcome State Fault Refusal :=
  run h s fun s => s.ofRole [rPress] 706 fun s =>
    let p := s.plan
    let x := (s.t.rdG b).toNat
    let l := bits x 0 5
    let hf := bits x 8 1
    if p = {} then s.trapOperand 1 (giKind d)
    else s.try_ (s.runNum d p.t 1) fun dst => s.try_ (s.runNum a p.t 2) fun src =>
      if bits x 9 55 ≠ 0 ∨ bits x 5 3 ≠ 0 ∨ l = 0 ∨ p.radices.length < l then s.trapOperand 3 1
      else s.try_ (s.runCheck dst p.t) fun _ => s.try_ (s.runCheck src p.t) fun _ => s.try_ (s.halfCheck hf) fun _ =>
        if (s.half s.myQuarto hf).mode.toNat ≠ mBFLY then s.trapOperand 3 1
        else (s.acceptB (.mbfly dst src p l hf scale.toNat)).next

def execMcmul (h : Head) (scale : BitVec 3) (conj : Bool) (d a : GI) (b : GReg) (s : State) : Host.Outcome State Fault Refusal :=
  run h s fun s => s.ofRole [rPress] 708 fun s =>
    let x := (s.t.rdG b).toNat
    let t := bits x 12 4
    let hf := bits x 8 1
    let bs := bits x 0 7
    -- a run of T sheets needs a valid T; its field is judged with the other fields of the control word
    if t = 0 ∨ 8 < t then s.trapOperand 3 1
    else s.try_ (s.runNum d t 1) fun dst => s.try_ (s.runNum a t 2) fun src =>
      if bits x 16 48 ≠ 0 ∨ bits x 9 3 ≠ 0 ∨ bits x 7 1 ≠ 0 ∨ 128 < bs + t then s.trapOperand 3 1
      else s.try_ (s.runCheck dst t) fun _ => s.try_ (s.runCheck src t) fun _ => s.try_ (s.runCheck bs t) fun _ =>
        s.try_ (s.halfCheck hf) fun _ => (s.acceptB (.mcmul dst src bs t hf scale.toNat conj)).next

/-! ### MBEXP (R227) -/

/-- Reads a sheet's exponent in port order; with `new`, sets it in the same port step. -/
def State.bexp (s : State) (x : Nat) (new : Option Word) : Word × State :=
  let q := s.myQuarto
  let s := s.portBefore [rSheet q x] (if new.isSome then [rSheet q x] else [])
  (BitVec.ofInt 64 (s.expOf q x), match new with
    | some v => s.setExp q x (asInt (bits v.toNat 0 16) 16)
    | none => s)

/-- MBEXP's checks. -/
def State.bexpOp (s : State) (d : GReg) (a : GI) (new : Option Word) : State :=
  s.try_ (s.sheetNum a 2) fun x => s.try_ (s.runCheck x 1) fun _ =>
    let (w, s) := s.bexp x new
    s.retG d w

def execMbexp (h : Head) (d : GReg) (a : GI) (s : State) : Host.Outcome State Fault Refusal :=
  run h s fun s => s.ofRole [rPress] 707 fun s => s.bexpOp d a none

def execMbexpSet (h : Head) (d : GReg) (a b : GI) (s : State) : Host.Outcome State Fault Refusal :=
  run h s fun s => s.ofRole [rPress] 707 fun s => s.bexpOp d a (some (s.t.gi b))

end Sys2Proof.Machine
end

