-- ==== Sys2Proof/Machine/Control.lean ====
section
/-! DEFINITION. Control flow, class 0x1 (R124 to R126). -/

namespace Sys2Proof.Machine

/-- pc + 12 × IMM56 (R125). -/
def Thread.rel (t : Thread) (imm : Imm56) : Nat := toBits 64 ((t.pc : Int) + 12 * imm.toInt)

/-- A register target: a multiple of 12, or ALIGN at the branch (R104). -/
def State.target (s : State) (v : Word) (f : Nat → State) : State :=
  if v.toNat % 12 = 0 then f v.toNat else s.trap 0x14 0 12

def execBr (h : Head) (imm : Imm56) (s : State) : Host.Outcome State Fault Refusal :=
  run h s fun s => s.updT fun t => { t with pc := t.rel imm }

def execBri (h : Head) (a : GReg) (s : State) : Host.Outcome State Fault Refusal :=
  run h s fun s => s.target (s.t.rdG a) fun x => s.updT fun t => { t with pc := x }

def execCall (h : Head) (d : GReg) (imm : Imm56) (s : State) : Host.Outcome State Fault Refusal :=
  run h s fun s => s.updT fun t => { t.wrG d (w64 (t.pc + 12)) with pc := t.rel imm }

def execCalli (h : Head) (d a : GReg) (s : State) : Host.Outcome State Fault Refusal :=
  run h s fun s => s.target (s.t.rdG a) fun x => s.updT fun t => { t.wrG d (w64 (t.pc + 12)) with pc := x }

def execRet (h : Head) (a : GReg) (s : State) : Host.Outcome State Fault Refusal :=
  run h s fun s => s.target (s.t.rdG a) fun x => s.updT fun t => { t with pc := x }

def execEndAct (h : Head) (s : State) : Host.Outcome State Fault Refusal :=
  run h s fun s => s.try_ s.endCheck fun _ => s.endActivation s.cur false false

/-- END.done: the contribution, along a full edge, then the end (R126). -/
def State.endDone (s : State) (v : Word) : State :=
  let s := s.flushMine
  let t := s.t
  let s := match t.launch with
    | some i => s.contribute i s.core_ t.lcore t.ctx v (s.carry t.party)
    | none => s
  s.endActivation s.cur true false

def execEndDone (h : Head) (a : Option GReg) (s : State) : Host.Outcome State Fault Refusal :=
  run h s fun s => s.try_ s.endCheck fun _ => s.endDone (match a with | some r => s.t.rdG r | none => 0)

/-- LOOP: the count falls by one and the branch is taken unless it is then 0 (R125). -/
def execLoop (h : Head) (d : GReg) (imm : Imm56) (s : State) : Host.Outcome State Fault Refusal :=
  run h s fun s => s.updT fun t =>
    let v := t.rdG d - 1
    let t' := t.wrG d v
    if t'.rdG d = 0 then t'.step else { t' with pc := t.rel imm }

end Sys2Proof.Machine
end

