-- ==== Sys2Proof/Machine/Convert.lean ====
section
/-! DEFINITION. Conversion, permutation and special functions, class 0x7 (R156 to R162). -/

namespace Sys2Proof.Machine

/-! ### Conversion (R157 to R159) -/

/-- The source element that destination element j of VCVT takes; none where it is unchanged. -/
def cvtSource (ws wd part j : Nat) : Option Nat :=
  if ws ≤ wd then some ((if ws < wd then part * lanes wd else 0) + j)
  else if part * lanes ws ≤ j ∧ j < (part + 1) * lanes ws then some (j - part * lanes ws) else none

def execVcvt (h : Head) (et src : EType) (rnd : Rnd) (sat : Bool) (part : BitVec 2) (d a : VReg) (m : Option MReg) (s : State) : Host.Outcome State Fault Refusal :=
  run h s fun s =>
    let wd := etSize et
    let ws := etSize src
    let t := s.t
    s.retFp d (t.om m) wd fun j => match cvtSource ws wd part.toNat j with
      | some i => cvt src.toNat et.toNat (t.mode rnd) sat (el (t.rdV a) i ws)
      | none => (el (t.rdV d) j wd, {})

def execVpack2 (h : Head) (et : EType) (rnd : Rnd) (sat : Bool) (d a b : VReg) (s : State) : Host.Outcome State Fault Refusal :=
  run h s fun s =>
    let t := s.t
    s.retFp d (BitVec.allOnes 256) 2 fun i =>
      cvt 10 et.toNat (t.mode rnd) sat (if i < 64 then el (t.rdV a) i 4 else el (t.rdV b) (i - 64) 4)

/-- VPACK4's 256 results. -/
def pack4 (t : Thread) (et : EType) (mode : Nat) (sat : Bool) (a : VReg) : List (Nat × Fl) :=
  (List.range 256).map fun j => cvt 10 et.toNat mode sat (el (t.rdV (a + BitVec.ofNat 5 (j / 64))) (j % 64) 4)

def execVpack4 (h : Head) (et : EType) (rnd : Rnd) (sat half : Bool) (d a : VReg) (s : State) : Host.Outcome State Fault Refusal :=
  run h s fun s =>
    let r := pack4 s.t et (s.t.mode rnd) sat a
    let code (j : Nat) : Nat := (r.getD j (0, {})).1
    s.updT fun t => ((t.wrV d (mkV 1 fun i =>
      if et.toNat ≠ 13 then code i
      else
        let k := i - half.toNat * 128
        if half.toNat * 128 ≤ i ∧ k < 128 then code (2 * k) + 16 * code (2 * k + 1) else el (t.rdV d) i 1)).raise (allFlags r)).step

/-- Source element i of VUNPK, decoded. -/
def unpackEl (t : Thread) (et : EType) (a : VReg) (b : Option GReg) (part i : Nat) : Fp :=
  let j := part * 64 + i
  if et.toNat < 13 then decodeFp (fmt et.toNat) (el (t.rdV a) j (etSize et))
  else
    let code := bits (t.rdV a).toNat (4 * j) 4
    if et.toNat = 13 then decodeFp (fmt 13) code
    else decodeB4 (bits (match b with | some r => t.rdG r | none => 0).toNat (8 * (i / 32)) 8) code

def execVunpk (h : Head) (et : EType) (part : BitVec 3) (d a : VReg) (b : Option GReg) (s : State) : Host.Outcome State Fault Refusal :=
  run h s fun s => s.retFp d (BitVec.allOnes 256) 4 fun i =>
    encodeFp fp32 0 false (unpackEl s.t et a b part.toNat i)

/-! ### Permutations (R160) -/

def execVperm (h : Head) (et : EType) (d a b : VReg) (s : State) : Host.Outcome State Fault Refusal :=
  run h s fun s =>
    let w := etSize et
    let t := s.t
    s.retV d (mkV w fun i =>
      let k := el (t.rdV b) i w
      if k < lanes w then el (t.rdV a) k w else 0)

def execVslide (h : Head) (et : EType) (d a : VReg) (b : GI) (s : State) : Host.Outcome State Fault Refusal :=
  run h s fun s =>
    let w := etSize et
    let t := s.t
    s.retV d (mkV w fun i =>
      let j : Int := i + (t.gi b).toInt
      if 0 ≤ j ∧ j < lanes w then el (t.rdV a) j.toNat w else el (t.rdV d) i w)

def execVzip (h : Head) (et : EType) (hi : Bool) (d a b : VReg) (s : State) : Host.Outcome State Fault Refusal :=
  run h s fun s =>
    let w := etSize et
    let t := s.t
    let x := if hi then lanes w / 2 else 0
    s.retV d (mkV w fun i => el (if i % 2 = 0 then t.rdV a else t.rdV b) (x + i / 2) w)

def execVuzp (h : Head) (et : EType) (hi : Bool) (d a b : VReg) (s : State) : Host.Outcome State Fault Refusal :=
  run h s fun s =>
    let w := etSize et
    let t := s.t
    let n := lanes w / 2
    s.retV d (mkV w fun i => if i < n then el (t.rdV a) (2 * i + hi.toNat) w else el (t.rdV b) (2 * (i - n) + hi.toNat) w)

/-! ### Special functions (R161, R162) -/

/-- Makes a request of the tile's unit; the thread waits for its result. -/
def State.sfuAsk (s : State) (op : Nat) (mode : Nat) (d a : VReg) (m : Option MReg) : State :=
  let t := s.t
  let r : SfuReq :=
    { thread := s.cur, op := op, rnd := BitVec.ofNat 3 mode, dst := d, src := t.rdV a, mask := t.om m }
  let s := s.updT fun t => { t with stat := .sfu }
  { s with sfu := tset [] s.sfu s.myPad (tget [] s.sfu s.myPad ++ [r]) }

def execVexp2 (h : Head) (d a : VReg) (m : Option MReg) (s : State) : Host.Outcome State Fault Refusal :=
  run h s fun s => s.sfuAsk 0 0 d a m
def execVlog2 (h : Head) (d a : VReg) (m : Option MReg) (s : State) : Host.Outcome State Fault Refusal :=
  run h s fun s => s.sfuAsk 1 0 d a m
def execVrcp (h : Head) (rnd : Rnd) (d a : VReg) (m : Option MReg) (s : State) : Host.Outcome State Fault Refusal :=
  run h s fun s => s.sfuAsk 2 (s.t.mode rnd) d a m
def execVrsq (h : Head) (rnd : Rnd) (d a : VReg) (m : Option MReg) (s : State) : Host.Outcome State Fault Refusal :=
  run h s fun s => s.sfuAsk 3 (s.t.mode rnd) d a m
def execVsin (h : Head) (d a : VReg) (m : Option MReg) (s : State) : Host.Outcome State Fault Refusal :=
  run h s fun s => s.sfuAsk 4 0 d a m
def execVcos (h : Head) (d a : VReg) (m : Option MReg) (s : State) : Host.Outcome State Fault Refusal :=
  run h s fun s => s.sfuAsk 5 0 d a m
def execVtanh (h : Head) (d a : VReg) (m : Option MReg) (s : State) : Host.Outcome State Fault Refusal :=
  run h s fun s => s.sfuAsk 6 0 d a m

/-- The result of one element. -/
def sfValue (op mode x : Nat) : Nat × Fl :=
  match op with
  | 0 => sfExp2 x
  | 1 => sfLog2 x
  | 2 => sfRcp mode x
  | 3 => sfRsq mode x
  | 4 => sfSin x
  | 5 => sfCos x
  | _ => sfTanh x

/-- The unit of pad `pad` finishes the request at its queue's head. -/
def State.sfuServe (s : State) (pad : Nat) : State :=
  match tget [] s.sfu pad with
  | [] => s
  | r :: q =>
    let s := { s with sfu := tset [] s.sfu pad q }
    let out := gather r.mask 4 fun i => sfValue r.op r.rnd.toNat (el r.src i 4)
    s.updThread r.thread fun t =>
      ((({ t with stat := .running }).wrV r.dst (mapV (t.rdV r.dst) r.mask 4 fun i => (out.getD i (0, {})).1)).raise (allFlags out)).step

/-- SPECIAL_FUNCTION_RESULT: the unit of pad `arg.a` finishes a request (R162). -/
def execSpecialFunctionResult (s : State) : Host.Outcome State Fault Refusal :=
  event s fun s => s.sfuServe s.arg.a

end Sys2Proof.Machine
end

