-- ==== Sys2Proof/Machine/Copies.lean ====
section
/-! DEFINITION. The copy engine's own steps (R231 to R240). -/

namespace Sys2Proof.Machine

/-! ### Stores to the aperture as steps of the machine -/

/-- Whether the store that thread s.cur issues next is an ST to its own tile's aperture at an offset, and
with a value, that `want` names. -/
def State.aperture (s : State) (i : Instr) (want : Nat → Nat → Bool) : Bool :=
  match i with
  | .st h et _ _ (.mem m) a =>
    let size := etSize et
    s.t.guard h && size == 8 && (match s.checkPtr s.t.ctx (s.ptr m.b) m.b.toNat (dispOf m size) size rW with
      | .ok (e, off) => s.ownCopy e.node && off % 8 == 0 && want off (s.t.gi a).toNat
      | .error _ => false)
  | _ => false

/-- Thread k issues its next instruction, where that is such a store. -/
def State.apertureStore (s : State) (k : Nat) (want : Nat → Nat → Bool) : State :=
  match s.nextInstr k with
  | none => s
  | some (i, t) =>
    if t.aperture i want then
      match i with
      | .st _ et od sc d a => t.store et od sc d a
      | _ => s
    else s

/-- COPY_START: thread arg.a's store to a START (R233). -/
def execCopyStart (s : State) : Host.Outcome State Fault Refusal :=
  event s fun s => s.apertureStore s.arg.a fun off _ => decide (off < 0x40)

/-- COPY_TTAB_WRITE: thread arg.a's store to TTAB (R231). -/
def execCopyTtabWrite (s : State) : Host.Outcome State Fault Refusal :=
  event s fun s => s.apertureStore s.arg.a fun off _ => off == 0x40

/-- COPY_WINDOW_WRITE: thread arg.a's store to a WIN (R237). -/
def execCopyWindowWrite (s : State) : Host.Outcome State Fault Refusal :=
  event s fun s => s.apertureStore s.arg.a fun off _ => decide (0xC0 ≤ off)

/-- Whether a store is to a CTL with the action. -/
def isCtl (action off v : Nat) : Bool := decide (0x80 ≤ off) && decide (off < 0xC0) && bits v 0 2 == action

/-- COPY_FAULT_RESUME: thread arg.a's store to a CTL with action 1 (R238). -/
def execCopyFaultResume (s : State) : Host.Outcome State Fault Refusal :=
  event s fun s => s.apertureStore s.arg.a (isCtl 1)

/-- COPY_FAULT_ABORT: thread arg.a's store to a CTL with action 2 (R238). -/
def execCopyFaultAbort (s : State) : Host.Outcome State Fault Refusal :=
  event s fun s => s.apertureStore s.arg.a (isCtl 2)

/-- COPY_REFUSED: store arg.a of those on their way reaches another tile's aperture (R231). -/
def execCopyRefused (s : State) : Host.Outcome State Fault Refusal :=
  event s fun s => s.performAt s.arg.a fun q => isCopy q.node

/-! ### The geometry of a command (R234, R235) -/

def CopyCmd.esize (c : CopyCmd) : Nat := 2 ^ c.f 498 3
def CopyCmd.n0 (c : CopyCmd) : Nat := c.f 256 16
def CopyCmd.n1 (c : CopyCmd) : Nat := c.f 272 16
def CopyCmd.n2 (c : CopyCmd) : Nat := c.f 288 16
def CopyCmd.sstep1 (c : CopyCmd) : Int := asInt (c.f 304 32) 32
def CopyCmd.sstep2 (c : CopyCmd) : Int := asInt (c.f 336 32) 32
def CopyCmd.dstep1 (c : CopyCmd) : Int := asInt (c.f 368 32) 32
def CopyCmd.dstep2 (c : CopyCmd) : Int := asInt (c.f 400 32) 32
def CopyCmd.swen (c : CopyCmd) : Bool := bitOn c.tmpl.toNat 497
def CopyCmd.swoff (c : CopyCmd) : Nat := 16 * c.f 480 17
/-- The lines of the sync word that counts the beats, in the issuing tile's pad. -/
def CopyCmd.swLines (c : CopyCmd) (pad : Nat) : List Nat := linesOf (padNode pad) c.swoff 16
def CopyCmd.total (c : CopyCmd) : Nat := c.n0 * c.n1 * c.n2

/-- Offset of element k, in traversal order, from its pointer's cursor. -/
def CopyCmd.elem (c : CopyCmd) (s1 s2 : Int) (k : Nat) : Int :=
  (k % c.n0 * c.esize : Nat) + (k / c.n0 % c.n1 : Nat) * s1 + (k / c.n0 / c.n1 : Nat) * s2

def CopyCmd.srcOff (c : CopyCmd) (k : Nat) : Int := c.src.cursor + c.elem c.sstep1 c.sstep2 k
def CopyCmd.dstOff (c : CopyCmd) (k : Nat) : Int := c.dst.cursor + c.elem c.dstep1 c.dstep2 k

/-- First byte and length of a pointer's footprint, from its cursor. -/
def CopyCmd.footprint (c : CopyCmd) (s1 s2 : Int) : Int × Nat :=
  let a := ((c.n1 : Int) - 1) * s1
  let b := ((c.n2 : Int) - 1) * s2
  let lo := min 0 a + min 0 b
  (lo, (max 0 a + max 0 b - lo).toNat + c.n0 * c.esize)

/-! ### The check at the head (R235) -/

/-- The object a template's pointer names, where its handle is not revoked. -/
def State.copyNode (s : State) (ctx : Nat) (p : Ptr) : Option Node := (s.hlook ctx p.hidx p.gen).map (·.node)

/-- A memory object of the HBM, LPDDR, L2-store or HOSTMEM kind. -/
def State.copyMem (s : State) (n : Node) : Bool :=
  s.nodeKind n == kMemo && (nodePad n).isNone && s.nodeTier n != 0

/-- Check 1. -/
def CopyCmd.fieldsOk (c : CopyCmd) (padsz : Nat) : Bool :=
  let e := c.esize
  c.f 509 3 == 0 && decide (c.f 498 3 < 5) && c.n0 != 0 && c.n1 != 0 && c.n2 != 0 && decide (c.f 502 3 < 5)
    && decide (c.f 506 3 < 5) && c.sstep1 % e == 0 && c.sstep2 % e == 0 && c.dstep1 % e == 0 && c.dstep2 % e == 0
    && (!c.swen || decide (c.swoff + 16 ≤ padsz))

/-- Check 2, for the pointers that name an object; a revoked one is left to check 3. -/
def State.copyObjects (s : State) (pad : Nat) (c : CopyCmd) : Bool :=
  let own (n : Node) : Bool := nodePad n == some pad
  match s.copyNode c.ctx c.src, s.copyNode c.ctx c.dst with
  | some a, some b => (own a && s.copyMem b) || (own b && s.copyMem a)
  | some a, none => own a || s.copyMem a
  | none, some b => own b || s.copyMem b
  | none, none => true

/-- Whether some page of a pointer's footprint stands in another world (R109; log 84). -/
def State.copyWorld (s : State) (ctx : Nat) (p : Ptr) (off : Int) (n : Nat) : Bool :=
  match s.copyNode ctx p with
  | some node =>
    let a := off.toNat
    (List.range ((a + n - 1) / 65536 - a / 65536 + 1)).any fun i =>
      match s.place ctx node (max a ((a / 65536 + i) * 65536)) false false with
      | .error e => e.cause == 0x1A
      | .ok _ => false
  | none => false

/-- The STATUS of the first failed check. -/
def State.copyCheck (s : State) (pad : Nat) (c : CopyCmd) : Option Nat :=
  if !c.fieldsOk (s.padSize c.ctx pad) then some 0x02
  else if !s.copyObjects pad c then some 0x02
  else
    let (lo, n) := c.footprint c.sstep1 c.sstep2
    let (lo', n') := c.footprint c.dstep1 c.dstep2
    match s.checkPtr c.ctx c.src 0 lo n rR with
    | .error t => some t.cause
    | .ok _ => match s.checkPtr c.ctx c.dst 0 lo' n' rW with
      | .error t => some t.cause
      | .ok _ =>
        if c.src.cursor % c.esize ≠ 0 ∨ c.dst.cursor % c.esize ≠ 0 then some 0x14
        else if s.copyWorld c.ctx c.src (c.src.cursor + lo) n ∨ s.copyWorld c.ctx c.dst (c.dst.cursor + lo') n' then
          some 0x1A
        else none

/-- COPY_HEAD_CHECK: the command at the head of channel arg.a is checked before it moves data. -/
def State.copyHeadCheck (s : State) (key : Nat) : State :=
  let pad := key / 8
  match s.copyQ key with
  | [] => s
  | c :: r =>
    if c.checked ∨ !s.onTiles c.ctx (padDie pad) then s
    else match s.copyCheck pad c with
      | some st => s.copyEnd pad (key % 8) st
      | none => s.setCopyQ key ({ c with checked := true } :: r)

def execCopyHeadCheck (s : State) : Host.Outcome State Fault Refusal :=
  event s fun s => s.copyHeadCheck s.arg.a

/-! ### Beats (R235 to R238) -/

/-- How many elements from `k` make the next beat: those of one 64-byte destination line, at most 64 bytes. -/
def CopyCmd.beatLen (c : CopyCmd) (line : Int) : Nat → Nat → Nat
  | 0, _ => 0
  | f + 1, k => if k < c.total ∧ c.dstOff k / 64 = line then 1 + c.beatLen line f (k + 1) else 0

def CopyCmd.beat (c : CopyCmd) : List Nat :=
  (List.range (c.beatLen (c.dstOff c.next / 64) (64 / c.esize) c.next)).map (c.next + ·)

/-- Places of the beat's elements at one end, or the first error with its offset. -/
def State.elemPlaces (s : State) (ctx : Nat) (n : Node) (write : Bool) (e : Nat) :
    List Nat → Except XErr (List (List (Place × Nat)))
  | [] => .ok []
  | o :: r => match s.places ctx n write false (pieces o e) with
    | .error x => .error x
    | .ok l => match s.elemPlaces ctx n write e r with
      | .error x => .error x
      | .ok ls => .ok (l :: ls)

/-- Copies element by element, in traversal order. -/
def State.moveElems (s : State) : List (List (Place × Nat)) → List (List (Place × Nat)) → State
  | a :: as, b :: bs => (s.pokePlaces b (s.peekPlaces a)).moveElems as bs
  | _, _ => s

/-- A beat's translation fault: the channel waits, with a fault record (R238). -/
def State.copyFault (s : State) (key : Nat) (c : CopyCmd) (r : List CopyCmd) (p : Ptr) (x : XErr) : State :=
  let (q, s) := s.takeFseq c.core
  let s := s.setCopyQ key ({ c with fault := some (q, x.cause) } :: r)
  s.postFault (s.faultTarget c.ctx (x.cause == cS2 || s.ctxPriv c.ctx != 0)) (quartoOf c.core)
    { ctx := c.ctx, lcore := c.lword, hidx := c.hidx, cause := x.cause, taddr := addrOf p x.off,
      tinfo := x.tinfo % 8 + key % 8 * 256 + 2048, fseq := q, launch := c.launch }

/-- The lines of the beat's elements. -/
def beatLines (n : Node) (e : Nat) (offs : List Nat) : List Nat := (offs.flatMap fun o => linesOf n o e).eraseDups

/-- A beat that passed every check is performed. -/
def State.performBeat (s : State) (key : Nat) (c : CopyCmd) (a b : Node) (src dst : List Nat)
    (pa pb : List (List (Place × Nat))) : State :=
  let pad := key / 8
  let e := c.esize
  let who := whoWord 0 c.xferid 1 c.lword
  let s := if s.nodeRelaxed a then s else s.touchAll c.party who aRead (beatLines a e src)
  let s := if s.nodeRelaxed b then s else s.touchAll c.party who aWrite (beatLines b e dst)
  let s := dst.foldl (fun s o => s.overwrite (objAddr b o) e) s
  let s := s.moveElems pa pb
  let n := src.length * e
  let c' : CopyCmd := { c with next := c.next + src.length, bytes := c.bytes + n }
  let s := match s.copyQ key with
    | _ :: r => s.setCopyQ key (c' :: r)
    | [] => s
  let s := if c.swen then
      let s := s.touchAll c.party who aAtomW (c.swLines pad)
      s.swLand pad c.swoff n (s.carry c.party)
    else s
  if c'.total ≤ c'.next then s.copyEnd pad (key % 8) 0 else s

/-- Whether the command at a channel's head moves data: it has been checked, waits on no fault, and its context holds
the tile. -/
def State.copyRuns (s : State) (key : Nat) : Bool :=
  match s.copyQ key with
  | [] => false
  | c :: _ => c.checked && c.fault.isNone && s.onTiles c.ctx (padDie (key / 8))

/-- The tile's channel that moves next: in channel order, after the one that moved last (R232). -/
def State.copyTurn (s : State) (pad : Nat) : Option Nat :=
  ((List.range 8).map fun i => 8 * pad + (tget 0 s.copyLast pad + i) % 8).find? s.copyRuns

/-- COPY_BEAT: where it is channel arg.a's turn, the next beat of its head is checked at its homes and performed or
refused. -/
def State.copyBeat (s : State) (key : Nat) : State :=
  let pad := key / 8
  match s.copyQ key with
  | [] => s
  | c :: r =>
    if s.copyTurn pad ≠ some key then s
    else
      let s := { s with copyLast := tset 0 s.copyLast pad (key % 8 + 1) }
      let ks := c.beat
      let src := ks.map fun k => (c.srcOff k).toNat
      let dst := ks.map fun k => (c.dstOff k).toNat
      match s.copyNode c.ctx c.src, s.copyNode c.ctx c.dst with
      | some a, some b =>
        match s.elemPlaces c.ctx a false c.esize src with
        | .error x => if x.cause = 0x1A then s.copyEnd pad (key % 8) 0x1A else s.copyFault key c r c.src x
        | .ok pa => match s.elemPlaces c.ctx b true c.esize dst with
          | .error x => if x.cause = 0x1A then s.copyEnd pad (key % 8) 0x1A else s.copyFault key c r c.dst x
          | .ok pb =>
            let clashA := !s.nodeRelaxed a && (s.race c.party aRead (beatLines a c.esize src)).isSome
            let clashB := !s.nodeRelaxed b && (s.race c.party aWrite (beatLines b c.esize dst)).isSome
            -- the sync word's update is an atomic access of the command (R54, R179)
            let clashS := c.swen && (s.race c.party aAtomW (c.swLines pad)).isSome
            if clashA ∨ clashB ∨ clashS then s.copyEnd pad (key % 8) 0x20
            else s.performBeat key c a b src dst pa pb
      | _, _ => s.copyEnd pad (key % 8) 0x12

def execCopyBeat (s : State) : Host.Outcome State Fault Refusal :=
  event s fun s => s.copyBeat s.arg.a

end Sys2Proof.Machine
end

