-- ==== Sys2Proof/Machine/SlotObj.lean ====
section
/-! DEFINITION. A context slot's control object: node records, and the core, route and handler tables
(R24, R43, R326). -/

namespace Sys2Proof.Machine

/-! ### Who writes, and to which context (R326) -/

/-- Transaction i as a write of a slot object: function and slot. -/
def State.slotWrite (s : State) (i : Nat) : Option (Nat × Nat × Txn) :=
  let t := s.txn i
  match t.ctl with
  | some (.ctxslot n k) => if t.op = opWRITE then some (n, k, t) else none
  | _ => none

/-- Acts for the slot's context, where it exists and the writer reaches it. -/
def State.onSlot (s : State) (i n k : Nat) (t : Txn) (f : Nat → State) : State :=
  match s.slotCtx n k with
  | none => s.failTxn i nsNOT_BOUND
  | some c => if s.reachesSlot t.ctx n c then f c else s.failTxn i nsNO_RIGHTS

/-! ### The node record -/

def nrOP (x : Nat) : Nat := bits x 0 8
def nrGRANT (x : Nat) : Nat := bits x 8 8
def nrRANK (x : Nat) : Nat := bits x 16 8
def nrMODE (x : Nat) : Nat := bits x 24 2
def nrQDIE (x : Nat) : Nat := bits x 64 5
def nrQTILE (x : Nat) : Nat := bits x 70 5
def nrQDESC (x : Nat) : Nat := bits x 75 21
def nrPEERM (x : Nat) : Nat := bits x 112 16
def nrSHND (x : Nat) : Nat := bits x 128 20
def nrSGEN (x : Nat) : Nat := bits x 148 12

/-- VALUE of a node record's write: status, name status, component. -/
def nrValue (status ns idx : Nat) : Nat := status + ns * 256 + idx % 32 * 65536

/-- The value for a name unit's status of PATH, NAME or SHND. -/
def nrFail (ns idx : Nat) : Nat :=
  nrValue (if ns = nsEXISTS then 9 else if ns = nsFULL then 10 else if ns = nsNO_RIGHTS then 2 else 3) ns idx

/-- The mount point that PATH names in context c's tree, not crossed; or the name status and component. -/
def State.pointAt (s : State) (c : Nat) (path : List Byte) : Except (Nat × Nat) (Node × Nat) :=
  let top := s.rootOf c
  let g := s.nodeGrant c top
  if path = [] then .ok (top, g)
  else
    let cs := splitSlash path
    match s.walkAll c 0 (s.enter c 65 { node := top, grant := g, cross := 0 }) cs.dropLast with
    | .error e => .error e
    | .ok p =>
      let j := cs.length - 1
      if s.nodeKind p.node ≠ kDir then .error (nsNOT_DIR, j)
      else match s.view c 65 p.node p.grant with
        | none => .error (nsLOOP, j)
        | some (_, ms) => match s.searchView c (cs.getLastD []) ms with
          | .error e => .error (e, j)
          | .ok (_, x) => .ok (x, s.nodeGrant c x)

/-- Transaction i's node record with this OP, once its form, its writer and PATH are right: `f` gets the
context, the record, and the point. -/
def State.nodeRecord (s : State) (i op : Nat) (bad : Nat → Bool) (f : Nat → Txn → Nat → Node × Nat → State) : State :=
  match s.slotWrite i with
  | none => s
  | some (n, k, t) =>
    let x := natOfBytes t.data
    if t.off ≠ 0 ∨ t.arg ≠ 256 ∨ nrOP x ≠ op then s
    else s.onSlot i n k t fun c =>
      match unpad (t.data.drop 64) with
      | none => s.okTxn i 1
      | some path =>
        if bad x ∨ (path ≠ [] ∧ !pathOk 16 path) then s.okTxn i 1
        else match s.pointAt c path with
          | .error (ns, j) => s.okTxn i (nrFail ns j)
          | .ok p =>
            if s.nodeKind p.1 ≠ kDir then s.okTxn i (nrFail nsNOT_DIR ((splitSlash path).length - 1))
            else f c t x p

/-- NAME, one component. -/
def nrName (t : Txn) : Option (List Byte) :=
  match unpad ((t.data.drop 32).take 32) with
  | some b => if pathOk 1 b then some b else none
  | none => none

/-- Adds a node NAME, which the slot's context alone sees, to the directory at the point. -/
def State.addEntry (s : State) (i c : Nat) (t : Txn) (p : Node × Nat) (m : Made) : State :=
  match nrName t with
  | none => s.okTxn i 1
  | some name =>
    let d := s.behind c 65 p
    if s.nodeKind d.1 ≠ kDir then s.okTxn i (nrFail nsNOT_DIR 0)
    else if s.present c p.1 p.2 name then s.okTxn i (nrFail nsEXISTS 0)
    else match s.make m (some (d.1, name, some c)) with
      | none => s.okTxn i 10
      | some (_, s) => s.okTxn i 0

/-- The pad of logical tile and die under context c's tables. -/
def State.mapPad (s : State) (c die tile : Nat) : Option Nat :=
  ((List.range 3).findSome? fun role => s.mapCore c (die + 32 * tile + 1024 * role)).map padOf

/-- MAKEQ: transaction arg.a. -/
def State.makeq (s : State) (i : Nat) : State :=
  s.nodeRecord i 1 (fun x => nrQDESC x % 32 != 0) fun c t x p =>
    match s.mapPad c (nrQDIE x) (nrQTILE x) with
    | none => s.okTxn i 3
    | some pad =>
      let (d, s) := s.seeing c pad fun s => (s.desc pad (nrQDESC x), s)
      if s.padSize c pad < nrQDESC x + 32 ∨ d.faulty (s.padSize c pad) then s.okTxn i 3
      else s.addEntry i c t p
        { kind := kQueue, grant := BitVec.ofNat 8 (nrGRANT x &&& (rR + rW)), home := padDie pad, size := d.slotBytes,
          fn := (s.ctx c).fn, qpad := pad, qdesc := nrQDESC x, qctx := c }

def execMakeq (s : State) : Host.Outcome State Fault Refusal := event s fun s => s.makeq s.arg.a

/-- MAKEPEER: transaction arg.a. -/
def State.makepeer (s : State) (i : Nat) : State :=
  s.nodeRecord i 2 (fun _ => false) fun c t x p =>
    s.addEntry i c t p { kind := kPeer, grant := BitVec.ofNat 8 (nrGRANT x &&& rX), fn := (s.ctx c).fn, peer := nrPEERM x }

def execMakepeer (s : State) : Host.Outcome State Fault Refusal := event s fun s => s.makepeer s.arg.a

/-- SLOT_BIND: transaction arg.a. -/
def State.slotBind (s : State) (i : Nat) : State :=
  let bad (x : Nat) : Bool := !((nrMODE x == 1 && nrRANK x != 128) || (nrMODE x == 2 && nrRANK x == 0))
  s.nodeRecord i 3 bad fun c t x p =>
    match s.hlook t.ctx (nrSHND x) (nrSGEN x) with
    | none => s.okTxn i (nrFail nsREVOKED 0)
    | some src =>
      match s.bindAt c p.1 { point := p.1, src := src.node, shadow := nrMODE x == 2, rank := nrRANK x,
                             bySup := some (BitVec.ofNat 8 (nrGRANT x)), grant := src.grant } with
      | .error ns => s.okTxn i (nrFail ns 0)
      | .ok s => s.okTxn i 0

def execSlotBind (s : State) : Host.Outcome State Fault Refusal := event s fun s => s.slotBind s.arg.a

/-- SLOT_UNBIND: transaction arg.a. -/
def State.slotUnbind (s : State) (i : Nat) : State :=
  s.nodeRecord i 4 (fun _ => false) fun c _ _ p =>
    (s.setBinds c ((s.bindsOf c).filter fun b => !(b.point = p.1 && b.bySup.isSome))).okTxn i 0

def execSlotUnbind (s : State) : Host.Outcome State Fault Refusal := event s fun s => s.slotUnbind s.arg.a

/-! ### The tables -/

/-- Reserved bits of core, route and handler table entries are not stored (R7). -/
def coreTabByte (a : Nat) (b : Byte) : Byte := if a % 2 = 0 then b &&& 0x7F else b &&& 0x80
def routeTabByte (b : Byte) : Byte := b &&& 0x9F
def entryByte (a : Nat) (b : Byte) : Byte := BitVec.ofNat 8 (bits (keepEntry (b.toNat * 2 ^ (8 * (a % 64)))) (8 * (a % 64)) 8)

/-- Writes bytes of a table that context c's handle names; a translation fault holds the access (R268). A core or route
table changes as the result is posted, for instructions issued after that (R326). -/
def State.tableWrite (s : State) (i c handle off : Nat) (late : Bool) (bs : List Byte) : State :=
  let h := s.hent c handle
  if !h.used ∨ h.size < off + bs.length then s.failTxn i nsNO_RIGHTS
  else match s.places c h.node true false (pieces off bs.length) with
    | .error x => s.stopTxn i { x with off := (s.txn i).off + (x.off - off) }
    | .ok l =>
      let t := s.txn i
      if late then s.settleTxn i { handle := t.ha.1, gen := t.ha.2, value := w64 bs.length, late := .table l bs }
      else (s.pokePlaces l bs).okTxn i bs.length

/-- A write of a slot object that is no node record. -/
def State.slotTables (s : State) (i c : Nat) (t : Txn) : State :=
  let x := s.ctx c
  let a := t.off
  let e := t.off + t.arg
  if 0x10000 ≤ a ∧ e ≤ 0x12000 then
    s.tableWrite i c (bits x.coretab.toNat 0 20) (a - 0x10000) true (t.data.zipIdx.map fun b => coreTabByte (a + b.2) b.1)
  else if 0x12000 ≤ a ∧ e ≤ 0x12020 then
    s.tableWrite i c (bits x.routetab.toNat 0 20) (a - 0x12000) true (t.data.map routeTabByte)
  else if 0x20000 ≤ a ∧ e ≤ 0x20000 + 64 * (x.htsize.toNat % 65536) then
    s.tableWrite i c (bits x.hbase.toNat 0 20) (a - 0x20000) false (t.data.zipIdx.map fun b => entryByte (a + b.2) b.1)
  else s.failTxn i nsNO_RIGHTS

end Sys2Proof.Machine
end

