-- ==== Sys2Proof/Machine/CtlWrite.lean ====
section
/-! DEFINITION. Control-object writes with no row of their own: channels, trace words, records of a wrong size
or OP, and places that hold no record (R28, R324 to R326, R330, R336, R337). -/

namespace Sys2Proof.Machine

/-! ### Features (R343) -/

def featSTOP : Nat := 0
def featXCTX : Nat := 1
def featTAP : Nat := 2

/-- Whether a feature is open: closed only in DEPLOYED, unless a token opened it. -/
def State.feature (s : State) (k : Nat) : Bool := decide (s.life ≠ .deployed) || bitOn s.unlocked.toNat k

/-! ### Channels (R28) -/

/-- A write of [off, off + n) of a channel's word by context `by_`: BACKH, which names an object of its writer,
BACKDEPTH and MODE are stored. -/
def State.chanWrite (s : State) (by_ ch off : Nat) (data : List Byte) : State :=
  let old := s.chanNum ch
  let at_ (i lo n : Nat) : Nat := if off ≤ i ∧ i < off + data.length then (data.getD (i - off) 0).toNat else bits old lo n
  let x := ((List.range 16).map fun i => at_ i (8 * i) 8 * 2 ^ (8 * i)).sum
  let s := s.updChan ch fun c => { c with
    mode := if bits x 0 2 < 2 then BitVec.ofNat 2 (bits x 0 2) else c.mode
    backCtx := if off < 8 ∧ 5 < off + data.length then by_ else c.backCtx
    backH := BitVec.ofNat 20 (bits x 44 20)
    backDepth := BitVec.ofNat 32 (bits x 64 32) }
  (((s.chan ch).ingress.map (·.ctx)).eraseDups).foldl (fun s c => s.refill ch c) s

/-- A channel's write, by supervisor contexts alone. -/
def State.chanStep (s : State) (i ch : Nat) (t : Txn) : State :=
  if s.ctxPriv t.ctx ≠ 1 then s.failTxn i nsNO_RIGHTS
  else if 32 < t.off + t.arg then s.failTxn i nsNO_RIGHTS
  else (s.chanWrite t.ctx ch t.off t.data).okTxn i t.arg

/-! ### Trace words (R337, R343) -/

/-- Supervisor contexts and the host write a trace unit. -/
def State.traceWriter (s : State) (t : Txn) : Bool := t.host.isSome || s.ctxPriv t.ctx == 1

/-- BUF or CAPBUF names a RELAXED memory object, writable through the handle, of at least `unit` bytes a
slot; 0 slots names no ring. -/
def State.ringOk (s : State) (c v unit : Nat) : Bool :=
  let h := s.hent c (bits v 44 20)
  bits v 0 32 == 0 || (h.state == 2 && hasAll h.rights.toNat rW && s.nodeKind h.node == kMemo && s.nodeRelaxed h.node
    && decide (unit * bits v 0 32 ≤ h.size))

/-- CTL's fields are in range, and every context only with XCTX. -/
def State.ctlOk (s : State) (v : Nat) : Bool :=
  let p := bits v 43 5
  (p == 0 || (decide (10 ≤ p) && decide (p ≤ 24))) && (bits v 48 16 != 0xFFFF || s.feature featXCTX)

/-- A trace unit after an 8-byte write of a word, where the write is allowed. -/
def State.traceSet (s : State) (c : Nat) (u : Trace) (off v : Nat) : Option Trace :=
  match off with
  | 0x000 => if s.ctlOk v then some { u with ctl := w64 (setBits v 16 27 0) } else none
  | 0x008 => if s.ringOk c v 32 then some { u with buf := w64 (setBits v 32 12 0), bufCtx := c } else none
  | 0x018 => some { u with rdptr := v }
  | 0x028 => if s.feature featSTOP then some (u.aim (bits v 48 16)) else none
  | 0x030 => if s.feature featSTOP then some { u with trig := w64 (setBits v 16 16 0) } else none
  | 0x038 =>
    if s.feature featSTOP && s.ringOk c v 256 then
      some { u with capbuf := w64 (setBits v 32 12 0), capCtx := c, capFrom := u.capptr }
    else none
  | _ => none

/-- TOKEN's place (R337). -/
def tokenAt : Nat := 0x1000
def tokenSize : Nat := 2868

/-- A trace unit's write that is no stop, resume, replay or verification. -/
def State.traceStep (s : State) (i d : Nat) (t : Txn) : State :=
  let u := s.traceU d
  if !s.traceWriter t then s.failTxn i nsNO_RIGHTS
  else if tokenAt ≤ t.off ∧ t.off + t.arg ≤ tokenAt + tokenSize then
    if t.host.isNone then s.failTxn i nsNO_RIGHTS
    else (s.setTrace d { u with token := writeBytes u.token (t.off - tokenAt) t.data }).okTxn i t.arg
  else if t.arg ≠ 8 then s.failTxn i nsNO_RIGHTS
  else match s.traceSet t.ctx u t.off (natOfBytes t.data) with
    | some u => (s.setTrace d u).okTxn i 8
    | none => s.failTxn i nsNO_RIGHTS

/-- Trace words whose writes are steps of their own: STOP with REQ or RESUME, REPLAY, VERIFY. -/
def traceOwn (t : Txn) : Bool :=
  t.arg == 8 && ((t.off == 0x028 && bits (natOfBytes t.data) 1 2 != 0) || t.off == 0x048 || t.off == 0xFF0)

/-! ### /vf/n/ctl and /vf/n/migrate -/

/-- Records of /vf/n/ctl whose writes are steps of their own. -/
def vfctlOwn (t : Txn) : Bool :=
  (t.off == 0 && t.arg == 64) || (t.off == 0x40 && t.arg == 8) || (t.off == 0x100 && t.arg == 32)
    || (decide (0x200 ≤ t.off) && decide (t.off < 0xA00) && t.off % 32 == 0 && t.arg == 32)
    || (t.off == 0xB00 && t.arg == 48)
    || (decide (0xC00 ≤ t.off) && decide (t.off < 0x1000) && t.off % 64 == 0 && t.arg == 64
        && decide (1 ≤ xOP (natOfBytes t.data)) && decide (xOP (natOfBytes t.data) ≤ 3))
    || (decide (0x1000 ≤ t.off) && decide (t.off < 0x5000) && t.off % 16 == 0 && t.arg == 16)

/-- A write of /vf/n/ctl that names no record, or a context record with another OP. -/
def State.vfctlStep (s : State) (i : Nat) (t : Txn) : State :=
  if 0xC00 ≤ t.off ∧ t.off < 0x1000 ∧ t.off % 64 = 0 ∧ t.arg = 64 then s.okTxn i 1 else s.failTxn i nsNO_RIGHTS

/-- The data window of the migration object (R332). -/
def windowAt : Nat := 0x100000

/-- STATE writes that some transition permits (R331). -/
def migrOwn (st v : Nat) : Bool :=
  (v == 1) || (v == 2) || (v == 4) || (v == 0 && (st == 1 || st == 3 || st == 4))

/-- Sets ERR to BADTRANS (R330). -/
def State.badTrans (s : State) (n : Nat) : State := s.updFn n fun f => { f with migr := { f.migr with err := 1 } }

/-- Transaction i as a host's 8-byte write of STATE: function and value. -/
def State.migrWrite (s : State) (i : Nat) : Option (Nat × Nat) :=
  let t := s.txn i
  match t.ctl with
  | some (.vfmigrate n) =>
    if t.op = opWRITE ∧ t.off = 0 ∧ t.arg = 8 ∧ t.host.isSome ∧ t.res.isNone then some (n, bits (natOfBytes t.data) 0 3) else none
  | _ => none

/-- A write of the migration object that no step of its own performs. -/
def State.migrStep (s : State) (i n : Nat) (t : Txn) : State :=
  if t.host.isNone ∨ t.arg ≠ 8 then s.failTxn i nsNO_RIGHTS
  else if t.off = 0 then (s.badTrans n).okTxn i 8
  else s.failTxn i nsNO_RIGHTS

/-! ### The step -/

/-- Whether a control write waits for a step of its own. -/
def State.ownStep (s : State) (n : Node) (t : Txn) : Bool :=
  match n with
  | .vfctl _ => vfctlOwn t
  | .vfmigrate m =>
    decide (windowAt ≤ t.off) || (t.off == 8 && t.arg == 8 && t.host.isSome)
      || (t.off == 0 && t.arg == 8 && t.host.isSome && migrOwn (s.fn m).migr.st (bits (natOfBytes t.data) 0 3))
  | .ctxslot _ _ => t.off == 0 && t.arg == 256 && decide (1 ≤ nrOP (natOfBytes t.data)) && decide (nrOP (natOfBytes t.data) ≤ 4)
  | .group _ => true
  | .trace _ => traceOwn t
  | .delay _ _ _ => t.off == 2112 && t.arg == 8
  | _ => false

/-- CONTROL_WRITE: transaction arg.a, a write of a control object that no other row performs. -/
def State.controlWrite (s : State) (i : Nat) : State :=
  let t := s.txn i
  match t.ctl with
  | none => s
  | some n =>
    if t.op ≠ opWRITE ∨ t.held.isSome ∨ s.ownStep n t then s
    else match n with
      | .vfctl _ => s.vfctlStep i t
      | .vfmigrate m => s.migrStep i m t
      | .ctxslot m k =>
        s.onSlot i m k t fun c => if t.off = 0 ∧ t.arg = 256 then s.okTxn i 1 else s.slotTables i c t
      | .chan d x c k => s.chanStep i (16 * coreOf d x c + k) t
      | .trace d => s.traceStep i d t
      | _ => s.failTxn i nsNO_RIGHTS

def execControlWrite (s : State) : Host.Outcome State Fault Refusal := event s fun s => s.controlWrite s.arg.a

end Sys2Proof.Machine
end

