-- ==== Sys2Proof/Machine/Debug.lean ====
section
/-! DEFINITION. The debug and trace unit, the test access port, life-cycle tokens and the power forecast
(R319, R336 to R344). -/

namespace Sys2Proof.Machine

/-! ### Samples (R339) -/

/-- Whether the unit traces context c. -/
def Trace.traces (u : Trace) (c : Nat) : Bool := bits u.ctl.toNat 48 16 == 0xFFFF || bits u.ctl.toNat 48 16 == c

/-- TRACE_SAMPLE: a period ends at core arg.a, and one of its busy threads of a traced context is sampled,
round-robin. -/
def State.traceSample (s : State) (core : Nat) : State :=
  let d := coreDie core
  let u := s.traceU d
  let p := bits u.ctl.toNat 43 5
  if p = 0 ∨ s.now % 2 ^ p ≠ 0 ∨ tget 0 u.sampled core = s.now + 1 then s
  else
    let next := tget 0 u.rr core
    match ((List.range 8).map fun j => (next + j) % 8).find? fun j =>
        (s.thread (8 * core + j)).stat != .free && u.traces (s.thread (8 * core + j)).ctx with
    | none => s
    | some j =>
      let t := s.thread (8 * core + j)
      let pc := match t.stat with
        | .parked _ _ => t.tepc.toNat
        | _ => t.pc
      let s := s.setTrace d { u with rr := tset 0 u.rr core ((j + 1) % 8), sampled := tset 0 u.sampled core (s.now + 1) }
      s.traceThread (8 * core + j) 6 pc 0

def execTraceSample (s : State) : Host.Outcome State Fault Refusal := event s fun s => s.traceSample s.arg.a

/-! ### Stops (R340) -/

/-- Transaction i as an 8-byte write at `off` of a trace unit: die, transaction and value. -/
def State.traceWord (s : State) (i off : Nat) : Option (Nat × Txn × Nat) :=
  let t := s.txn i
  match t.ctl with
  | some (.trace d) => if t.op = opWRITE ∧ t.off = off ∧ t.arg = 8 then some (d, t, natOfBytes t.data) else none
  | _ => none

/-- A writer with feature STOP. -/
def State.mayStop (s : State) (t : Txn) : Bool := s.traceWriter t && s.feature featSTOP

/-- TRACE_STOP_REQUEST: transaction arg.a, a write of STOP with REQ. -/
def State.stopRequest (s : State) (i : Nat) : State :=
  match s.traceWord i 0x028 with
  | none => s
  | some (d, t, v) =>
    if bitOn v 2 ∨ !bitOn v 1 then s
    else if !s.mayStop t then s.failTxn i nsNO_RIGHTS
    else
      (s.setTrace d ((s.traceU d).request (bits v 48 16))).okTxn i 8

def execTraceStopRequest (s : State) : Host.Outcome State Fault Refusal := event s fun s => s.stopRequest s.arg.a

/-- Whether a thread of context c on a die still runs. -/
def State.runsOn (s : State) (d c : Nat) : Bool :=
  s.threads.any fun e => coreDie (e.1 / 8) == d && e.2.ctx == c && (match e.2.stat with
    | .free => false
    | .parked _ _ => false
    | _ => true)

/-- STOP_COMPLETE: on die arg.a only parked threads of a context remain whose stop is requested: the STOP word's, or
else another's. -/
def State.stopComplete (s : State) (d : Nat) : State :=
  let u := s.traceU d
  let done (c : Nat) (u : Trace) : State := (s.setTrace d u).traceEvent (coreOf d 0 0) 0 9 c 0 0 0 0 c
  if u.stopReq ∧ !u.stopped ∧ !s.runsOn d u.stopCtx then done u.stopCtx { u with stopReq := false, stopped := true }
  else match u.others.find? fun e => !e.2 && !s.runsOn d e.1 with
    | some e => done e.1 { u with others := u.others.map fun x => if x.1 = e.1 then (x.1, true) else x }
    | none => s

def execStopComplete (s : State) : Host.Outcome State Fault Refusal := event s fun s => s.stopComplete s.arg.a

/-- TRACE_RESUME: transaction arg.a, a write of STOP with RESUME. -/
def State.traceResume (s : State) (i : Nat) : State :=
  match s.traceWord i 0x028 with
  | none => s
  | some (d, t, v) =>
    if !bitOn v 2 then s
    else if !s.mayStop t then s.failTxn i nsNO_RIGHTS
    else
      let u := s.traceU d
      -- CTXID of the write names the context, where a stop of it is held (log 149)
      let u := if u.holdsStop (bits v 48 16) then u.aim (bits v 48 16) else u
      (s.setTrace d { u with stopReq := false, stopped := false }).okTxn i 8

def execTraceResume (s : State) : Host.Outcome State Fault Refusal := event s fun s => s.traceResume s.arg.a

/-! ### Replay (R341) -/

/-- One captured slot is injected at die d as an arrival in context c, or skipped with a DISPATCH record. -/
def State.replaySlot (s : State) (d c : Nat) (bytes : List Byte) : State :=
  let h : BitVec 128 := BitVec.ofNat 128 (natOfBytes (bytes.take 16))
  let skip (s : State) : State := s.traceEvent (coreOf d 0 0) 0 7 c (hdrHidx h) 0 0 0 (4 + natOfBytes (bytes.take 8) % 2 ^ 56 * 256)
  if 60 < hdrLen h ∨ bits h.toNat 125 3 ≠ 0 then skip s
  else match s.mapCore c (hdrDst h) with
    | none => skip s
    | some core =>
      if coreDie core ≠ d then skip s
      else s.arriveRec { isMsg := true, hdr := h, payload := (bytes.drop 16).take (4 * hdrLen h), hidx := hdrHidx h, ctx := c,
                         core := core, lcore := hdrDst h, key := hdrSrc h, sendTs := hdrTs h }

/-- TRACE_REPLAY: transaction arg.a, a write of REPLAY. -/
def State.traceReplay (s : State) (i : Nat) : State :=
  match s.traceWord i 0x048 with
  | none => s
  | some (d, t, v) =>
    let u := s.traceU d
    let h := s.hent t.ctx (bits v 44 20)
    let first := bits v 16 28
    let n := bits v 0 16
    if !s.mayStop t ∨ !u.stopped ∨ h.state ≠ 2 ∨ !hasAll h.rights.toNat rR ∨ h.size < 256 * (first + n) then s.failTxn i nsNO_RIGHTS
    else match s.places t.ctx h.node false false (pieces (256 * first) (256 * n)) with
      | .error _ => s.failTxn i nsNO_RIGHTS
      | .ok l =>
        let bs := s.peekPlaces l
        ((List.range n).foldl (fun s j => s.replaySlot d u.stopCtx ((bs.drop (256 * j)).take 256)) s).okTxn i 8

def execTraceReplay (s : State) : Host.Outcome State Fault Refusal := event s fun s => s.traceReplay s.arg.a

/-! ### Tokens (R343) -/

/-- TOKEN_VERIFY: transaction arg.a, a write of 1 to VERIFY, starts a verification. -/
def State.tokenVerify (s : State) (i : Nat) : State :=
  match s.traceWord i 0xFF0 with
  | none => s
  | some (d, t, v) =>
    let u := s.traceU d
    if !s.traceWriter t ∨ u.verifying.isSome then (if u.verifying = some i then s else s.failTxn i nsNO_RIGHTS)
    else if v ≠ 1 then s.failTxn i nsNO_RIGHTS
    else s.setTrace d { u with verifying := some i }

def execTokenVerify (s : State) : Host.Outcome State Fault Refusal := event s fun s => s.tokenVerify s.arg.a

/-- The status of a token, header and signature. -/
def State.tokenStatus (s : State) (u : Trace) : Nat :=
  let h := natOfBytes (readBytes u.token 0 48)
  if bits h 3 29 ≠ 0 ∨ !Config.xmssOk (bytesOfNat 32 Config.fusedKey.toNat) (readBytes u.token 48 2820) (readBytes u.token 0 48) then 1
  else if bits h 128 256 ≠ Config.identityDigest.toNat then 2
  else if bits h 64 64 ≠ u.nonce.toNat then 3
  else if bits h 32 32 < s.bootCount.toNat then 4
  else if s.life ≠ .deployed then 5
  else 0

/-- VERIFY_DONE: die arg.a's verification ends: a fresh NONCE, and an accepted token opens its features. -/
def State.verifyDone (s : State) (d : Nat) : State :=
  let u := s.traceU d
  match u.verifying with
  | none => s
  | some i =>
    let st := s.tokenStatus u
    let s := if st = 0 then { s with unlocked := s.unlocked ||| BitVec.ofNat 3 (readByte u.token 0).toNat } else s
    let s := { s with fresh := s.fresh + 1 }.setTrace d { u with verifying := none, nonce := Config.freshNonce s.fresh }
    if (s.txn i).ctl.isSome then s.okTxn i st else s

def execVerifyDone (s : State) : Host.Outcome State Fault Refusal := event s fun s => s.verifyDone s.arg.a

/-! ### Delay tables (R336) -/

/-- DELAY_CLEAR: transaction arg.a, a write of a delay object's control word. It clears, at that core, the
tables of the writer and of the contexts it governs. -/
def State.delayClear (s : State) (i : Nat) : State :=
  let t := s.txn i
  match t.ctl with
  | some (.delay d x k) =>
    if t.op ≠ opWRITE ∨ t.off ≠ 2112 ∨ t.arg ≠ 8 then s
    else if s.ctxPriv t.ctx = 0 then s.failTxn i nsNO_RIGHTS
    else if !bitOn (natOfBytes t.data) 0 then s.okTxn i 8
    else
      let core := coreOf d x k
      let hit (key : Nat) : Bool := key / 131072 == core
        && (key % 131072 == t.ctx || ((s.ctx (key % 131072)).live && (s.ctx (key % 131072)).govern == t.ctx))
      { s with delays := tdrop hit s.delays }.okTxn i 8
  | _ => s

def execDelayClear (s : State) : Host.Outcome State Fault Refusal := event s fun s => s.delayClear s.arg.a

/-! ### Freeze and the test access port (R342) -/

/-- FREEZE: FREEZE_N is driven low. -/
def execFreeze (s : State) : Host.Outcome State Fault Refusal := event s fun s => { s with frozen := true }

/-- An OUT register's bits (R300). -/
def Out.num (o : Out) : Nat :=
  (joinFields 64 512 fun i => toBits 64 (tget 0 o.hs i)) + o.hw % 2 ^ 64 * 2 ^ 32768 + o.valid.toNat * 2 ^ 32832
    + o.region % 16 * 2 ^ 32864 + o.stripe % 2 ^ 24 * 2 ^ 32868 + o.seq % 2 ^ 32 * 2 ^ 32892

/-- A queue register's words. -/
def QReg.word (q : QReg) (w : Nat) : Word :=
  if w = 0 then w64 (q.bound.toNat + q.prod.toNat * 2 + q.desc * 2 ^ 8 + q.pos % 256 * 2 ^ 32 + q.left % 256 * 2 ^ 40)
  else w64 q.start

/-- A plan's words: its sizes, and its radices, one to a byte. -/
def Plan.word (p : Plan) (w : Nat) : Word :=
  if w = 0 then w64 (p.n % 2 ^ 16 + p.b % 2 ^ 16 * 2 ^ 16 + p.t % 2 ^ 16 * 2 ^ 32 + p.inv.toNat * 2 ^ 48)
  else w64 (joinFields 8 8 fun i => p.radices.getD (8 * (w - 1) + i) 0)

/-- An arrival's words. -/
def Arrival.word (a : Arrival) (w : Nat) : Word :=
  match w with
  | 0 => a.ctl
  | 1 => a.stream
  | 2 => w64 (a.core % 2 ^ 12 + a.lcore % 2 ^ 12 * 2 ^ 12 + a.et.toNat * 2 ^ 24 + a.nib.toNat * 2 ^ 28 + a.prio % 8 * 2 ^ 29
      + a.hidx % 2 ^ 16 * 2 ^ 32 + a.thread % 8 * 2 ^ 48)
  | 3 => w64 a.at_
  | 4 => a.actstart
  | _ => w64 a.pc

/-- A link's words: the next number to send and to accept, its failed resends, and the numbers it holds. -/
def Link.word (l : Link) (w : Nat) : Word :=
  match w with
  | 0 => w64 l.nextSeq
  | 1 => w64 l.expect
  | 2 => w64 (l.resends % 2 ^ 8 + l.failed.toNat * 2 ^ 8)
  | w => w64 (l.held.getD (w - 3) 0)

/-- The word that a place of the frozen state holds, as it stands (R342, R344); how a place packs fields that no rule
lays out is DESIGN CHOICE (log 214). -/
def State.frozenWord (s : State) (a : Nat) : Config.FreezeLoc → Word
  | .out i d l w => w64 (bits ((s.region i).out d l).num (64 * w) 64)
  | .applied i d l => w64 ((s.region i).out d l).applied
  | .sendseq i d l => w64 ((s.region i).out d l).sendseq
  | .trace d w => w64 ((s.traceU d).word w)
  | .memory x => w64 (s.peekN x 8)
  | .pc k => w64 (s.thread k).pc
  | .greg k r => (s.thread k).rdG (BitVec.ofNat _ r)
  | .vreg k r w => w64 (bits ((s.thread k).rdV (BitVec.ofNat _ r)).toNat (64 * w) 64)
  | .breg k r w => w64 (bits ((s.thread k).rdB (BitVec.ofNat _ r)).raw.toNat (64 * w) 64)
  | .mreg k r w => w64 (bits ((s.thread k).rdM (BitVec.ofNat _ r)).toNat (64 * w) 64)
  | .creg k i => ({ s with cur := k } : State).crRead i
  | .qreg k r w => ((s.thread k).rdQ (BitVec.ofNat _ r)).word w
  | .payload k w => w64 (natOfBytes (((s.thread k).payload.drop (8 * w)).take 8))
  | .btag k r => w64 ((s.thread k).rdB (BitVec.ofNat _ r)).tag.toNat
  | .tag k => w64 (tget false s.tags k).toNat
  | .mark l => w64 (tget false s.marks l).toNat
  | .chan core k w => w64 (bits (s.chanNum (16 * core + k)) (64 * w) 64)
  | .record core k i w =>
    let c := s.chan (16 * core + k)
    w64 (natOfBytes ((((c.onchip ++ c.ingress).getD i {}).image.drop (8 * w)).take 8))
  | .handle c i w => w64 (bits (s.entryWord (s.hent c i)).toNat (64 * w) 64)
  | .copyReg c pad w => let r := s.copyRegs c pad; if w = 8 then r.ttab else tget 0 r.win w
  | .template ch i w => w64 (bits ((s.copyQ ch).getD i {}).tmpl.toNat (64 * w) 64)
  | .sem k => w64 (tget 0 s.sems k)
  | .holder q k => w64 (tget 0 (s.quarto q).holder k)
  | .sheet x => w64 (natOfBytes (cellBytes 8 0 (takeRange s.sheetMem x 8)))
  | .weight q x => w64 (natOfBytes (cellBytes 8 0 (takeRange (s.quarto q).weights.data x 8)))
  | .half q h =>
    let x := tget {} (s.quarto q).halves h
    w64 (x.mode.toNat + x.sat.toNat * 2 ^ 3 + x.anyInex.toNat * 2 ^ 4 + x.anyOvf.toNat * 2 ^ 5 + x.anySpec.toNat * 2 ^ 6
      + toBits 32 x.anchor * 2 ^ 32)
  | .acc q i w =>
    let x := tget {} s.acc (256 * 128 * q + i)
    if w < 2 then w64 (bits x.val.toNat (64 * w) 64) else w64 (x.inex.toNat + x.ovf.toNat * 2 + x.spec.toNat * 4)
  | .plan q c w => (tget {} (s.quarto q).plans c).word w
  | .arrival q c i w => ((tget [] (s.quarto q).barrier c).getD i {}).word w
  | .link k w => (tget {} s.links k).word w
  | .stripe i d k w =>
    let x := (s.region i).rep d k
    if w < 512 then w64 (toBits 64 (tget 0 x.s w)) else if w = 512 then w64 x.w else w64 (x.spread.toNat + x.damaged.toNat * 2 ^ 32)
  | .group g w => w64 (bits (s.group g).num (64 * w) 64)
  | .slot i p w => w64 (bits (tget {} (s.slots.getD i {}).arr p).data.toNat (64 * w) 64)
  | .function n w => w64 (natOfBytes ((List.range 8).map fun j => s.vfctlByte n (8 * w + j)))
  | .lslot n k i w => w64 (natOfBytes ((((s.lqueue n k).slots.getD i {}).bytes.drop (8 * w)).take 8))
  | .delay core c w => w64 (natOfBytes ((List.range 8).map fun j => (s.delayTab core c).byte (8 * w + j)))
  | .other => Config.freezeValue a s.now

/-- FREEZEREAD of address arg.a: the private instruction, with feature TAP in a frozen module. -/
def State.freezeRead (s : State) (a : Nat) : State :=
  if s.frozen && s.feature featTAP then
    { s with tap := { ir := .freezeread, data := s.frozenWord a (Config.freezeMap a) } }
  else s

def execFreezeread (s : State) : Host.Outcome State Fault Refusal := event s fun s => s.freezeRead s.arg.a

/-- BYPASS: the one-bit register captures 0. -/
def execTapBypass (s : State) : Host.Outcome State Fault Refusal :=
  event s fun s => { s with tap := { ir := .bypass, data := 0 } }

/-- IDCODE: 32 bits, of which bit 0 is 1. -/
def execTapIdcode (s : State) : Host.Outcome State Fault Refusal :=
  event s fun s => { s with tap := { ir := .idcode, data := BitVec.ofNat 64 (2 * Config.idcode.toNat + 1) } }

/-- SAMPLE/PRELOAD: the boundary register captures the pins. -/
def execTapSamplePreload (s : State) : Host.Outcome State Fault Refusal :=
  event s fun s => { s with fresh := s.fresh + 1, tap := { ir := .sample, data := Config.pins s.fresh } }

/-- EXTEST: the boundary register, preloaded with arg.a, drives the pins. -/
def execTapExtest (s : State) : Host.Outcome State Fault Refusal :=
  event s fun s => { s with tap := { ir := .extest, data := BitVec.ofNat 64 s.arg.a } }

/-! ### The power forecast (R319) -/

/-- Records held in the channels of a cluster's cores: those of the context that holds them, the others' having left
for their save areas (R328). -/
def State.heldIn (s : State) (q : Nat) : Nat :=
  ((s.chans.filter fun e => coreRole (e.1 / 16) != 3 && quartoOf (e.1 / 16) == q).map fun e =>
    let c := (s.runCtx (e.1 / 16)).getD 0
    countMine (e.1 / 16) c e.2.onchip + countMine (e.1 / 16) c e.2.spilled).sum

/-- Whether a launch record of context c places onto cluster q. -/
def State.placesOn (s : State) (c q r : Nat) : Bool :=
  match s.tableRead c (lPLACEH r) 0 (16 * lNINIT r) with
  | none => false
  | some bs => (List.range (lNINIT r)).any fun i =>
    (s.entryCore c (entryOf (natOfBytes ((bs.drop (16 * i)).take 16)))).any fun core => quartoOf core == q

/-- Ready launch records that place onto cluster q. -/
def State.readyOn (s : State) (q : Nat) : Nat :=
  (s.fns.map fun e => (e.2.lqs.map fun l =>
    let c := s.lqCtx e.1 l.1
    if !s.serves e.1 then 0
    else if s.depOnly e.1 l.1 then
      (l.2.slots.take (min 16 (s.blockedFrom e.1 l.1))).countP fun x => s.slotReady c x && s.placesOn c q x.lrec
    else if (s.readySlot e.1 l.1).isSome then (l.2.slots.take 1).countP fun x => s.placesOn c q x.lrec
    else 0).sum).sum

/-- FCST of a cluster. -/
def State.forecast (s : State) (q : Nat) : Nat := min 255 (s.heldIn q / 4 + 16 * s.readyOn q)

/-- A cluster's GATE: the largest that any die of its partition requires. -/
def State.gateOf (s : State) (q : Nat) : Nat :=
  let own (p : Nat) : Nat := (Config.gateFor (tget 0 s.afr (p / 4)) (p % 4)).toNat
  match s.ownerOf q with
  | none => own q
  | some n => ((s.quartosOf n).map own).foldl max 0

/-- FORECAST_UPDATE: the scheduler writes die arg.a's forecast for the window that begins 4 µs ahead, with the gates that
follow from it then. -/
def State.forecastUpdate (s : State) (d : Nat) : State :=
  let s := { s with afr := tset 0 s.afr d (w64 (joinFields 16 4 fun q => s.forecast (q + 4 * d))) }
  let new := (List.range 32).foldl (fun g e => tset 0 g e (w64 (joinFields 8 4 fun q => s.gateOf (q + 4 * e)))) ([] : Tab Word)
  { s with gate := s.gatesNow, gateNext := (s.gateNext.filter fun e => decide (s.now < e.1)) ++ [(s.now + 12000, new)] }

def execForecastUpdate (s : State) : Host.Outcome State Fault Refusal := event s fun s => s.forecastUpdate s.arg.a

end Sys2Proof.Machine
end

