-- ==== Sys2Proof/Machine/System.lean ====
section
/-! DEFINITION. System instructions, class 0x0 (R116 to R123), and words that are no instruction. -/

namespace Sys2Proof.Machine

def execNop (h : Head) (s : State) : Host.Outcome State Fault Refusal := run h s State.next

def execTrap (h : Head) (imm : Imm) (s : State) : Host.Outcome State Fault Refusal :=
  run h s fun s => s.trap 0x30 0 (immW imm).toNat

def execEret (h : Head) (s : State) : Host.Outcome State Fault Refusal :=
  run h s fun s => s.atLeast 1 2 State.trapReturn

def execCrd (h : Head) (d : GReg) (a : CReg) (s : State) : Host.Outcome State Fault Refusal :=
  runCr h s a.toNat 2 fun s => s.retG d (s.crRead a.toNat)

def execCwr (h : Head) (d : CReg) (a : GI) (s : State) : Host.Outcome State Fault Refusal :=
  runCr h s d.toNat 1 fun s => s.crStore d.toNat (s.t.gi a)

def execCset (h : Head) (d : CReg) (a : GI) (s : State) : Host.Outcome State Fault Refusal :=
  runCr h s d.toNat 1 fun s => s.crStore d.toNat (s.crRead d.toNat ||| s.t.gi a)

def execCclr (h : Head) (d : CReg) (a : GI) (s : State) : Host.Outcome State Fault Refusal :=
  runCr h s d.toNat 1 fun s => s.crStore d.toNat (s.crRead d.toNat &&& ~~~(s.t.gi a))

def execTstamp (h : Head) (d : GReg) (s : State) : Host.Outcome State Fault Refusal :=
  run h s fun s => s.retG d (w64 s.ts)

def execBrk (h : Head) (imm : Imm) (s : State) : Host.Outcome State Fault Refusal :=
  run h s fun s => s.trap cBREAK 0 (immW imm).toNat

def execTmark (h : Head) (a : GI) (s : State) : Host.Outcome State Fault Refusal :=
  run h s fun s => (s.traceThread s.cur 1 s.t.pc (s.t.gi a).toNat).next

def execWdog (h : Head) (d : GReg) (s : State) : Host.Outcome State Fault Refusal :=
  run h s fun s => s.retG d (w64 (s.t.wdEnd - s.now))

/-- HALT (R120): the activation ends and its core goes idle. -/
def State.halt (s : State) : State :=
  s.try_ s.endCheck fun _ => (s.endActivation s.cur false false).updCore s.core_ fun c => { c with idle := true }

def execHalt (h : Head) (s : State) : Host.Outcome State Fault Refusal :=
  run h s fun s => s.atLeast 2 11 State.halt

/-- PMINT (R121). -/
def State.mint (s : State) (d : BReg) (spec len : Word) : State :=
  let i := bits spec.toNat 0 20
  let perms := bits spec.toNat 20 8
  let e := s.hent s.t.ctx i
  if s.hcap s.t.ctx ≤ i ∨ !e.used then s.trap 0x12 0 0
  else if !hasAll e.rights.toNat perms then s.trap 0x11 0 perms
  else if e.size < len.toNat then s.trap 0x10 0 len.toNat
  else s.retB d (mintPtr perms e.gen i len.toNat)

def execPmint (h : Head) (d : BReg) (a b : GReg) (s : State) : Host.Outcome State Fault Refusal :=
  run h s fun s => s.atLeast 1 12 fun s => s.mint d (s.t.rdG a) (s.t.rdG b)

/-- Whether the issuer may act on a thread of context c (R122): its governor, or the hypervisor of its
function; a supervisor may not name a PAGE_FAULT_S2 park. -/
def State.mayAct (s : State) (c : Nat) (hyp : Bool) : Bool :=
  (s.priv == 1 && (s.ctx c).govern == s.t.ctx && !hyp) || (decide (2 ≤ s.priv) && (s.ctx c).fn == s.ctxFn s.t.ctx)

/-- SRESUME and TKILL (R122): finds the named thread and acts on it, with the status in g[OD]. Where a supervisor names a
thread on PAGE_FAULT_S2 with another FSEQ, statuses 1 and 2 both fit the table: it gets 2 (DESIGN CHOICE, log 226). -/
def State.onParked (s : State) (d : GReg) (word : Word) (actOn : State → Nat → State) : State :=
  let w := bits word.toNat 0 12
  let c := bits word.toNat 16 16
  match s.mapCore c w with
  | none => s.trap 0x02 0 w
  | some core =>
    if coreDie core ≠ coreDie s.core_ then s.trap 0x02 0 w
    else
      let k := 8 * core + bits word.toNat 12 3
      let t := s.thread k
      let hyp := match t.stat with | .parked _ x => x && t.ctx == c | _ => false
      if !s.mayAct c hyp then s.retG d 2
      else match t.stat with
        | .parked q _ =>
          if q = bits word.toNat 32 32 ∧ t.ctx = c then actOn (s.retG d 0) k else s.retG d 1
        | _ => s.retG d 1

/-- The thread runs again from offset `pc`. -/
def State.unpark (s : State) (k pc : Nat) : State := s.updThread k fun t => { t with stat := .running, pc := pc }

def execSresume (h : Head) (d a : GReg) (s : State) : Host.Outcome State Fault Refusal :=
  run h s fun s => s.atLeast 1 13 fun s => s.onParked d (s.t.rdG a) fun s k => s.unpark k (s.thread k).pc

def execSresumeSkip (h : Head) (d a : GReg) (s : State) : Host.Outcome State Fault Refusal :=
  run h s fun s => s.atLeast 1 13 fun s => s.onParked d (s.t.rdG a) fun s k => s.unpark k ((s.thread k).tepc.toNat + 12)

def execTkill (h : Head) (d a : GReg) (s : State) : Host.Outcome State Fault Refusal :=
  run h s fun s => s.atLeast 1 14 fun s => s.onParked d (s.t.rdG a) fun s k => s.kill k 8

/-- ICSYNC's effect on a code object: its generation increments (R123). -/
def State.icsync (s : State) (i : Nat) : State := s.updMade i fun m => { m with codeGen := m.codeGen + 1 }

def execIcsync (h : Head) (a : GReg) (s : State) : Host.Outcome State Fault Refusal :=
  run h s fun s => s.atLeast 1 15 fun s =>
    let i := bits (s.t.rdG a).toNat 0 20
    let e := s.hent s.t.ctx i
    if s.hcap s.t.ctx ≤ i ∨ !e.used then s.trap 0x12 (i * 2 ^ 44) e.gen
    else match e.node with
      | .made m => if (s.madeN m).kind = kCode then (s.icsync m).next else s.trapOperand 1 1
      | _ => s.trapOperand 1 1

/-- A word whose OPC is unassigned (R100): the encoding trap of R102, whatever its guard. -/
def execIllegalOpcode (_ : BitVec 96) (s : State) : Host.Outcome State Fault Refusal :=
  if s.t.stat = .running then .next (s.trap 0x01 0 0) else .fault .noActivation

end Sys2Proof.Machine
end

