-- ==== Sys2Proof/Machine/Loader.lean ====
section
/-! DEFINITION. The loader: containers and patches (R25, R35, R44, R83 to R89, R351 to R354). -/

namespace Sys2Proof.Machine

open Sys2Proof.Config (Container GatheringImage HandlerImage Sect)

/-! ### Outcomes -/

/-- A refused load: status, name status, failing index. -/
abbrev LoadErr := Nat × Nat × Nat

def ldMALFORMED : Nat := 1
def ldBADSIG : Nat := 2
def ldHASH : Nat := 3
def ldBIND : Nat := 4
def ldPLACE : Nat := 5
def ldSEW : Nat := 6
def ldSPACE : Nat := 7
def ldRACE : Nat := 8

/-! ### Step 1: the signer, the signature, the digest -/

/-- Bytes [0, n) of a HOSTMEM object that context c's handle names, open with R (R16). -/
def State.hostBytes (s : State) (c h gen n : Nat) : Option (List Byte) :=
  match s.hlook c h gen with
  | some e =>
    if s.opened c h rR ∧ s.nodeKind e.node = kMemo ∧ s.nodeTier e.node = 4 ∧ n ≤ e.size then
      match s.places c e.node false false (pieces 0 n) with
      | .ok l => some (s.peekPlaces l)
      | .error _ => none
    else none
  | none => none

/-- The bytes that every container starts with (R351). -/
def ngfMagic : List Byte := [0x4E, 0x47, 0x46, 0x01]

/-- Bytes of a signature (R351). -/
def signatureBytes : Nat := 2820

/-- The bytes of one section, which lies behind the header and inside the container. -/
def sectionBytes (bs : List Byte) (x : Sect × Nat × Nat) : Option (Sect × List Byte) :=
  if 64 ≤ x.2.1 ∧ x.2.1 + x.2.2 ≤ bs.length then some (x.1, (bs.drop x.2.1).take x.2.2) else none

/-- A container's bytes (R351): the 64-byte header with its magic, the sections it lists, the one COLOPHON with a
signature of 2,820 bytes, and every other section, which the digest covers in order. One hash stands for each
64 KiB page of each code object, and no two gatherings have one role. `none` where they break the format. -/
def parseNgf (bs : List Byte) : Option Container :=
  if bs.length < 64 ∨ bs.take 4 ≠ ngfMagic then none
  else match (Config.sectionTable ((bs.take 64).drop 4)).bind fun l => l.mapM (sectionBytes bs) with
    | none => none
    | some secs =>
      let rest := secs.filter fun e => e.1 != .colophon
      match secs.filter (fun e => e.1 == .colophon), Config.readBody rest with
      | [(_, c)], some body => match Config.readColophon c with
        | some col =>
          if col.signature.length = signatureBytes ∧ (body.gatherings.map (·.role)).eraseDups.length = body.gatherings.length
              ∧ body.gatherings.all (fun g => g.hashes.length == cdiv g.code.length 65536)
          then some { body with colophon := col, signed := rest.flatMap (·.2) } else none
        | none => none
      | _, _ => none

/-- The container that the bytes hold, once its signature and digest are right. -/
def checkContainer (bytes : Option (List Byte)) (keyDig : Option Nat) : Except LoadErr Container :=
  match bytes.bind parseNgf with
  | none => .error (ldMALFORMED, 0, 0)
  | some x =>
    let c := x.colophon
    if (keyDig.any fun k => k != (Config.shake256 c.key).toNat) ∨ !Config.xmssOk c.key c.signature (bytesOfNat 32 c.digest.toNat) then
      .error (ldBADSIG, 0, 0)
    else if Config.shake256 x.signed ≠ c.digest then .error (ldHASH, 0, 0)
    else .ok x

/-! ### Placement (R89) -/

/-- Dies and tiles lie in the logical coordinate space: each at most 31 (R43). -/
def placeIn (g : GatheringImage) : Bool := g.place.all fun (d0, d1, t0, t1) => [d0, d1, t0, t1].all fun x => decide (x < 32)

/-- Logical words of a gathering's cores. -/
def wordsOf (g : GatheringImage) : List Nat :=
  g.place.flatMap fun (d0, d1, t0, t1) =>
    (List.range (d1 + 1 - d0)).flatMap fun i => (List.range (t1 + 1 - t0)).map fun j => d0 + i + 32 * (t0 + j) + 1024 * g.role

/-- Pads of a gathering's tiles; none where a core is unmapped. -/
def State.gatherPads (s : State) (c : Nat) (g : GatheringImage) : Option (List Nat) :=
  (wordsOf g).foldr (fun w acc => match s.mapCore c w, acc with
    | some core, some l => some (padOf core :: l)
    | _, _ => none) (some [])

/-- A logical die's sew source, following edges at most `fuel` times, ends outside a cycle. -/
def sewEnds (sew : List (Nat × Nat)) : Nat → Nat → Bool
  | 0, _ => false
  | f + 1, d => match sew.find? fun e => e.2 == d with
    | none => true
    | some e => sewEnds sew f e.1

/-- The sew edges join neighbours on the torus of logical dies and form a forest (R43, R44, R89). -/
def sewOk (g : GatheringImage) : Bool :=
  g.sew.all fun e => decide (e.1 < 32) && decide (e.2 < 32) && ((List.range 4).any fun l => torusTo e.1 l == e.2)
    && g.sew.countP (fun x => x.2 == e.2) == 1 && sewEnds g.sew 33 e.2

/-- A role that is none, or a service gathering of a user context. R83 has the loader refuse a service gathering in a
user container and R352 names no status for it: MALFORMED is the model's choice (log 176). A hypervisor's or a
monitor's container is none, and its service gathering is accepted: R83 speaks of supervisor containers alone (DESIGN
CHOICE, log 223). -/
def State.roleBad (s : State) (c : Nat) (x : Container) : Bool :=
  x.gatherings.any fun g => decide (3 < g.role) || (g.role == 3 && decide (s.ctxPriv c = 0))

/-- Two gatherings on one logical core, a core that no table maps, one outside the coordinate space among them, or a sew table that is no forest: the first fault. -/
def State.placeErr (s : State) (c : Nat) (x : Container) : Option LoadErr :=
  let ws := x.gatherings.flatMap fun g => (wordsOf g).eraseDups
  match x.gatherings.findIdx? fun g => !placeIn g with
  | some i => some (ldPLACE, 0, i)
  | none =>
    if ws.any fun w => 1 < ws.countP (· == w) then some (ldPLACE, 0, 0)
    else match x.gatherings.findIdx? fun g => (s.gatherPads c g).isNone with
    | some i => some (ldPLACE, 0, i)
    | none => (x.gatherings.findIdx? fun g => !sewOk g).map fun i => (ldSEW, 0, i)

/-! ### Frames (R25, R85, R86) -/

def up64 (n : Nat) : Nat := cdiv n 64 * 64

/-- How far service-core frames of the function's contexts reach in the service pads (R322). -/
def State.svcTop (s : State) (n : Nat) : Nat :=
  ((s.rotation n).flatMap fun c => (List.range ((s.ctx c).htsize.toNat % 65536)).map fun i => match s.handler c i with
    | some e => if eROLE e = 3 ∧ eFRAMESZ e ≠ 0 then 64 * (eFRAMEOFF e + eFRAMESZ e) else 0
    | none => 0).foldl max 0

/-- Offsets of the frames: above every pad image, and for a container with a service gathering above the
frames already on service cores. -/
def State.frameOffs (s : State) (n : Nat) (x : Container) : List Nat :=
  let pads := up64 ((x.gatherings.map fun g => g.pad.length).foldl max 0)
  let base := if x.gatherings.any (·.role == 3) then max pads (s.svcTop n) else pads
  (x.frames.foldl (fun acc f => (acc.1 ++ [acc.2], acc.2 + up64 f)) (([] : List Nat), base)).1

/-- The end of the last frame, or of the pad images. -/
def imageEnd (offs : List Nat) (x : Container) : Nat :=
  ((offs.zip x.frames).map fun e => e.1 + e.2).foldl max ((x.gatherings.map fun g => g.pad.length).foldl max 0)

/-- Pads on which frame f is placed: the tiles of the gatherings whose handlers name it. -/
def State.framePads (s : State) (c f : Nat) (x : Container) : List Nat :=
  (x.gatherings.filter fun g => x.handlers.any fun h => h.frame == some f && eROLE h.entry.toNat == g.role).flatMap
    fun g => ((s.gatherPads c g).getD []).eraseDups

/-! ### Step 2: code objects and the handler table -/

/-- A code object with its bytes and page hashes, opened with R and X: its handle. -/
def State.loadCode (s : State) (n c : Nat) (g : GatheringImage) : Option (Nat × State) :=
  let grant := BitVec.ofNat 8 (rR + rX)
  match s.make { kind := kCode, tier := 2, grant := grant, home := (s.diesOf n).headD 0, size := g.code.length, fn := n,
                 digests := g.hashes, named := false } none with
  | none => none
  | some (k, s) => match s.places c (.made k) true false (pieces 0 g.code.length) with
    | .error _ => none
    | .ok l => (s.pokePlaces l g.code).takeHandle c { state := 2, node := .made k, rights := grant, grant := grant, size := g.code.length }

/-- Code objects of every gathering, as roles with handles. -/
def State.loadCodes (s : State) (n c : Nat) : List GatheringImage → Option (List (Nat × Nat) × State)
  | [] => some ([], s)
  | g :: r => match s.loadCode n c g with
    | none => none
    | some (h, s) => match s.loadCodes n c r with
      | none => none
      | some (l, s) => some ((g.role, h) :: l, s)

/-- A handler entry as R24's reset column gives it: SAVEIX and RESTIX name no routine. The model writes it
where no handler takes an index (R84; log 177). -/
def absentEntry : Nat := setBits (setBits 0 352 16 0xFFFF) 368 16 0xFFFF

/-- A handler's 64 bytes with CODEH, FRAMEOFF and CTHANDLE filled in, its reserved bits left out (R7). -/
def entryImage (codes : List (Nat × Nat)) (offs : List Nat) (cells : List (Nat × HEntry)) (h : HandlerImage) : Nat :=
  let e := keepEntry h.entry.toNat
  let e := setBits e 32 20 ((codes.find? fun x => x.1 == eROLE e).elim 0 (·.2))
  let e := match h.frame with
    | some f => setBits e 256 15 (offs.getD f 0 / 64)
    | none => e
  match h.join with
  | some b => setBits e 288 20 ((cells.getD b (0, {})).1)
  | none => e

/-- Entries of the HANDLERS section. -/
def entryCount (x : Container) : Nat := (x.handlers.map fun h => h.index + 1).foldl max 0

/-- The table that hbase names holds the section's entries. -/
def State.tableFits (s : State) (c : Nat) (x : Container) : Bool :=
  let h := s.hent c (bits (s.ctx c).hbase.toNat 0 20)
  h.used && decide (64 * entryCount x ≤ h.size) && decide (entryCount x ≤ 65535)

/-! ### Steps 2 and 4: the loader's writes -/

/-- The loader as races describe it (R51). -/
def loaderWho : BitVec 64 := whoWord 0 0 7 0

/-- A plain write of the loader to a pad, as context c's state has it; none where it races. -/
def State.loadPad (s : State) (p c pad off : Nat) (bytes : List Byte) (tag : Bool) : Option State :=
  let ls := linesOf (padNode pad) off bytes.length
  let (ok, s) := s.seeing c pad fun s =>
    if (s.race p aWrite ls).isSome then (false, s)
    else
      let s := (s.touchAll p loaderWho aWrite ls).overwrite (padAddr pad off) bytes.length
      let s := s.poke (padAddr pad off) bytes
      (true, if tag then { s with tags := tset false s.tags (padAddr pad off / 16) true } else s)
  if ok then some s else none

/-- A plain write of the loader at offset 0 of an object, as context c's state has it: RACE where it races, and `bad`
where it does not translate. -/
def State.loadObj (s : State) (p c : Nat) (n : Node) (bytes : List Byte) (bad : LoadErr) : Except LoadErr State :=
  match nodePad n with
  | some pad => (s.loadPad p c pad 0 bytes false).elim (.error (ldRACE, 0, 0)) .ok
  | none => match s.places c n true false (pieces 0 bytes.length) with
    | .error _ => .error bad
    | .ok l =>
      let ls := if s.nodeRelaxed n then [] else linesOf n 0 bytes.length
      if (s.race p aWrite ls).isSome then .error (ldRACE, 0, 0)
      else .ok (((s.touchAll p loaderWho aWrite ls).overwrite (objAddr n 0) bytes.length).pokePlaces l bytes)

/-- Writes the section into the table that hbase names, and sets htsize. -/
def State.loadHandlers (s : State) (p c : Nat) (codes : List (Nat × Nat)) (offs : List Nat) (cells : List (Nat × HEntry))
    (x : Container) : Except LoadErr State :=
  let k := entryCount x
  if !s.tableFits c x then .error (ldSPACE, 0, 0)
  else
    let image := (List.range k).flatMap fun i => bytesOfNat 64 (match x.handlers.find? (·.index == i) with
      | some e => entryImage codes offs cells e
      | none => absentEntry)
    (s.loadObj p c (s.hent c (bits (s.ctx c).hbase.toNat 0 20)).node image (ldSPACE, 0, 0)).map fun s =>
      s.updCtx c fun y => { y with htsize := w64 k }

/-- Writes in turn; none at the first that cannot be performed. -/
def tryAll {α : Type} (f : State → α → Option State) : List α → State → Option State
  | [], s => some s
  | a :: r, s => match f s a with
    | none => none
    | some s => tryAll f r s

/-- Pad images on every tile of their gathering. -/
def State.loadPads (s : State) (p c : Nat) (x : Container) : Option State :=
  tryAll (fun s (e : Nat × List Byte) => if e.2 = [] then some s else s.loadPad p c e.1 0 e.2 false)
    (x.gatherings.flatMap fun g => ((s.gatherPads c g).getD []).eraseDups.map fun pad => (pad, g.pad)) s

/-- The components of a bind path: it may start with a slash, as in `/dies/0/hbm/kv`, and has any number of them
(R88). -/
def bindPath (path : List Byte) : Option (List (List Byte)) :=
  let cs := splitSlash (if path.head? = some 0x2F then path.drop 1 else path)
  if cs.all fun c => decide (1 ≤ c.length) && decide (c.length ≤ 32) && !c.contains 0 then some cs else none

/-- Walks and opens one cell's path: the handle. -/
def State.openCell (s : State) (c i : Nat) (path : List Byte) (perms : Nat) : Except LoadErr ((Nat × HEntry) × State) :=
  let top := s.rootOf c
  match bindPath path with
  | none => .error (ldBIND, nsNOT_BOUND, i)
  | some cs => match s.walkAll c 0 (s.enter c 65 { node := top, grant := s.nodeGrant c top, cross := 0 }) cs with
    | .error (ns, _) => .error (ldBIND, ns, i)
    | .ok q =>
      if !hasAll q.grant perms then .error (ldBIND, nsNO_RIGHTS, i)
      else
        let e := s.newEntry c 2 q.node perms q.grant q.via
        match s.takeHandle c e with
        | none => .error (ldBIND, nsFULL, i)
        | some (h, s) => .ok ((h, s.hent c h), s)

/-- Every cell's handle, in order. -/
def State.openCells (s : State) (c : Nat) : Nat → List Config.BindCell → Except LoadErr (List (Nat × HEntry) × State)
  | _, [] => .ok ([], s)
  | i, b :: r => match s.openCell c i b.path b.perms.toNat with
    | .error e => .error e
    | .ok (h, s) => match s.openCells c (i + 1) r with
      | .error e => .error e
      | .ok (l, s) => .ok (h :: l, s)

/-- A `.data` image at offset 0 of the object its cell names; a pad is written as the context's state has it. The
manual names no status for an image larger than its object, nor for an object that does not translate: SPACE, and
BIND with name status 0, are the model's choice (log 178). A code object keeps its bytes, since no writer but a patch
changes them (R354), and the load is refused as BIND with name status 0; an image whose cell names another node that is
no memory object goes to storage of the node's own, and the load is OK; the cell's permissions bound its pointer and
not the loader's write: DESIGN CHOICE (log 215). -/
def State.loadData (s : State) (p c : Nat) (e : HEntry) (bytes : List Byte) : Except LoadErr State :=
  if e.size < bytes.length then .error (ldSPACE, 0, 0)
  else if s.nodeKind e.node = kCode then .error (ldBIND, 0, 0)
  else s.loadObj p c e.node bytes (ldBIND, 0, 0)

def State.loadDatas (s : State) (p c : Nat) (cells : List (Nat × HEntry)) : List (Nat × List Byte) → Except LoadErr State
  | [] => .ok s
  | (i, bs) :: r => match s.loadData p c (cells.getD i (0, {})).2 bs with
    | .error e => .error e
    | .ok s => s.loadDatas p c cells r

/-- The pointer cells of every placement of their frames. -/
def State.loadCells (s : State) (p c : Nat) (offs : List Nat) (cells : List (Nat × HEntry)) (x : Container) : Option State :=
  tryAll (fun s (e : Nat × Nat × Quad) => s.loadPad p c e.1 e.2.1 (bytesOfNat 16 e.2.2.toNat) true)
    ((x.binds.zip cells).flatMap fun (b, h) =>
      (s.framePads c b.frame x).eraseDups.map fun pad =>
        (pad, offs.getD b.frame 0 + b.off, (mintPtr b.perms.toNat h.2.gen h.1 h.2.size).raw)) s

/-- A frame handle on every tile where a frame of the context is first placed (R35). -/
def State.openFrames (s : State) (c : Nat) (x : Container) : Option State :=
  let rights := BitVec.ofNat 8 (rR + rW + rA + rS)
  tryAll (fun s (pad : Nat) =>
    if tget 0 (s.ctx c).frames pad ≠ 0 then some s
    else
      let n := padNode pad
      match s.takeHandle c { state := 2, node := n, rights := rights, grant := BitVec.ofNat 8 (s.nodeGrant c n), size := s.nodeSize c n } with
      | none => none
      | some (h, s) => some (s.updCtx c fun y => { y with frames := tset 0 y.frames pad h }))
    ((List.range x.frames.length).flatMap fun f => s.framePads c f x).eraseDups s

/-- Step 4 and the handler table, whose entries name the cells' handles. -/
def State.fill (s : State) (n c p : Nat) (codes : List (Nat × Nat)) (x : Container) : Except LoadErr State :=
  let offs := s.frameOffs n x
  let room := if x.gatherings.any (·.role == 3) then min 524288 (s.padMax n) else s.padMax n
  if room < imageEnd offs x ∨ x.gatherings.any (fun g => decide (1048576 < g.pad.length)) then .error (ldSPACE, 0, 0)
  else match s.openCells c 0 x.binds with
    | .error e => .error e
    | .ok (cells, s) => match s.loadHandlers p c codes offs cells x with
      | .error e => .error e
      | .ok s => match s.loadPads p c x with
        | none => .error (ldRACE, 0, 0)
        | some s => match s.loadDatas p c cells x.datas with
          | .error e => .error e
          | .ok s => match s.loadCells p c offs cells x with
            | none => .error (ldRACE, 0, 0)
            | some s => match s.openFrames c x with
              | none => .error (ldSPACE, 0, 0)
              | some s => .ok (s.updCtx c fun y => { y with stopped := false })

/-- Steps 2 to 4 for context c, the loader being party p: what each step refuses is judged in its turn. -/
def State.place_ (s : State) (n c p : Nat) (x : Container) : Except LoadErr State :=
  if s.roleBad c x then .error (ldMALFORMED, 0, 0)
  else match s.loadCodes n c x.gatherings with
    | none => .error (ldSPACE, 0, 0)
    | some (codes, s) =>
      if !s.tableFits c x then .error (ldSPACE, 0, 0)
      else match s.placeErr c x with
        | some e => .error e
        | none => s.fill n c p codes x

/-! ### Containers (R352) -/

def cHANDLE (x : Nat) : Nat := bits x 0 20
def cGEN (x : Nat) : Nat := bits x 20 12
def cCTXID (x : Nat) : Nat := bits x 32 16
def cLEN (x : Nat) : Nat := bits x 64 64
def cKEYDIG (x : Nat) : Nat := bits x 128 256

/-- CONTAINER_LOAD: transaction arg.a, a host write at 0xB00: the loader takes it when it has no other load. -/
def State.containerLoad (s : State) (i : Nat) : State :=
  match s.vfWrite i 0xB00 48 with
  | none => s
  | some (n, t) =>
    if t.host.isNone then s.failTxn i nsNO_RIGHTS
    else if (s.fn n).load.isSome ∨ s.bootStage ≠ 5 then s
    else s.updFn n fun f => { f with load := some (i, s.nextLaunch) }

def execContainerLoad (s : State) : Host.Outcome State Fault Refusal := event s fun s => s.containerLoad s.arg.a

/-- The four steps for a load's record, by party p. -/
def State.load_ (s : State) (n p x : Nat) : Except LoadErr State :=
  let c := cCTXID x
  if !(s.ctx c).live ∨ (s.ctx c).fn ≠ n then .error (ldMALFORMED, 0, 0)
  else match checkContainer (s.hostBytes (65536 + n) (cHANDLE x) (cGEN x) (cLEN x)) (some (cKEYDIG x)) with
    | .error e => .error e
    | .ok y => s.place_ n c p y

/-- Whether a patch of the function that the loader took before number `mark` is running: the loader performs loads and
patches whole, in the order in which it takes them (R356). -/
def State.patchBefore (s : State) (n mark : Nat) : Bool :=
  s.launches.any fun e => decide (e.1 < mark) && e.2.fn == n && e.2.patch.isSome && !e.2.closed

/-- LOAD_COMPLETE: function arg.a's load is done, and its result is a full edge to the host, which receives it
where it reads the result. The loader starts with what comes before the load's NWRITE at the port: a host access made
after it is unordered with the loader's writes (R352). A refused load leaves nothing. -/
def State.loadComplete (s : State) (n : Nat) : State :=
  match (s.fn n).load with
  | none => s
  | some (i, mark) =>
    if s.patchBefore n mark then s else
    let t := s.txn i
    let s := s.updFn n fun f => { f with load := none }
    let (p, s') := s.newParty t.know
    match s'.load_ n p (natOfBytes t.data) with
    | .error (st, ns, k) => s.okTxn i (st + ns * 256 + k % 65536 * 65536)
    | .ok s' => (s'.endParty p).settleTxn i { handle := t.ha.1, gen := t.ha.2, know := s'.carry p }

def execLoadComplete (s : State) : Host.Outcome State Fault Refusal := event s fun s => s.loadComplete s.arg.a

/-! ### Patches (R354) -/

/-- The code object that context c's handlers of a role run. -/
def State.codeOf (s : State) (c role : Nat) : Option Nat :=
  (List.range ((s.ctx c).htsize.toNat % 65536)).findSome? fun i => match s.handler c i with
    | some e =>
      if eROLE e = role then match (s.hent c (eCODEH e)).node with
        | .made k => if (s.madeN k).kind = kCode then some k else none
        | _ => none
      else none
    | none => none

/-- New code and hashes for a role, zeros behind shorter code, then ICSYNC; activations pinned to older generations
keep the old bytes and the old hashes. -/
def State.patchCode (s : State) (c : Nat) (g : GatheringImage) : Option State :=
  match s.codeOf c g.role with
  | none => none
  | some k =>
    let m := s.madeN k
    if m.size < g.code.length then none
    else match s.places c (.made k) true false (pieces 0 m.size), s.places c (.made k) false true (pieces 0 m.size) with
      | .ok l, .ok all =>
        let old := s.peekPlaces all
        let s := s.pokePlaces l (g.code ++ List.replicate (m.size - g.code.length) 0)
        some ((s.updMade k fun m => { m with oldCode := m.oldCode ++ [(m.codeGen, old)], digests := g.hashes
                                             oldDigests := m.oldDigests ++ [(m.codeGen, m.digests)], poisoned := [] }).icsync k)
      | _, _ => none

/-- Every gathering of a patch, or none of them. -/
def State.patchAll (s : State) (c : Nat) (x : Container) : Option State := tryAll (fun s g => s.patchCode c g) x.gatherings s

/-- PATCH_COMPLETE: launch arg.a, a patch: checked, written, ICSYNC done, and DONEQ written with the status. -/
def State.patchComplete (s : State) (i : Nat) : State :=
  let l := s.launch i
  match l.patch with
  | none => s
  | some h =>
    if l.closed ∨ s.patchBefore l.fn i ∨ (s.fn l.fn).load.any (fun e => decide (e.2 ≤ i)) then s
    else
      let e := s.hlook l.ctx h.toNat l.patchGen
      let done (s : State) (st : Nat) : State := s.writeDone i (w64 (st * 2 ^ 16))
      match checkContainer (e.bind fun e => s.hostBytes l.ctx h.toNat l.patchGen e.size) none with
      | .error (st, _, _) => done s st
      | .ok x => match s.patchAll l.ctx x with
        | none => done s ldMALFORMED
        | some s => done s 0

def execPatchComplete (s : State) : Host.Outcome State Fault Refusal := event s fun s => s.patchComplete s.arg.a

end Sys2Proof.Machine
end

