-- ==== Sys2Proof/Machine/Layout.lean ====
section
/-! DEFINITION. A way to lay plain data out as bytes and to read it back. It shows that a migration image can have a
layout (R332); which layout a part has stays open, and nothing else uses this one. -/

namespace Sys2Proof.Machine

/-- A layout of values: their bytes, and what the front of a list of bytes reads back as. -/
structure Code (α : Type) where
  enc : α → List Byte
  dec : List Byte → Option (α × List Byte)
  ok : ∀ a r, dec (enc a ++ r) = some (a, r)

namespace Code

/-! ### Numbers, pairs and lists -/

def decNat : List Byte → Option (Nat × List Byte)
  | [] => none
  | b :: r => if b = 0 then some (0, r) else (decNat r).map fun x => (x.1 + 1, x.2)

theorem decNat_ok (n : Nat) (r : List Byte) : decNat (List.replicate n 1 ++ 0 :: r) = some (n, r) := by
  induction n with
  | zero => simp [decNat]
  | succ n ih => simp [List.replicate_succ, decNat]; simpa using ih

/-- n ones, then a zero. -/
def nat : Code Nat := ⟨fun n => List.replicate n 1 ++ [0], decNat, fun n r => by simpa using decNat_ok n r⟩

/-- A layout of a type whose values another type's show. -/
def iso {α β : Type} (c : Code β) (back : β → α) (of_ : α → β) (h : ∀ a, back (of_ a) = a) : Code α :=
  ⟨fun a => c.enc (of_ a), fun l => (c.dec l).map fun x => (back x.1, x.2), fun a r => by simp [c.ok, h]⟩

def pair {α β : Type} (c : Code α) (d : Code β) : Code (α × β) where
  enc x := c.enc x.1 ++ d.enc x.2
  dec l := (c.dec l).bind fun x => (d.dec x.2).map fun y => ((x.1, y.1), y.2)
  ok a r := by simp [c.ok, d.ok]

def decList {α : Type} (c : Code α) : Nat → List Byte → Option (List α × List Byte)
  | 0, l => some ([], l)
  | n + 1, l => (c.dec l).bind fun x => (decList c n x.2).map fun y => (x.1 :: y.1, y.2)

theorem decList_ok {α : Type} (c : Code α) (l : List α) (r : List Byte) :
    decList c l.length (l.flatMap c.enc ++ r) = some (l, r) := by
  induction l with
  | nil => rfl
  | cons a l ih => simp [decList, c.ok, ih]

def list {α : Type} (c : Code α) : Code (List α) where
  enc l := nat.enc l.length ++ l.flatMap c.enc
  dec b := (nat.dec b).bind fun x => decList c x.1 x.2
  ok l r := by simp [nat.ok, decList_ok]

/-! ### The other plain types -/

def bv (w : Nat) : Code (BitVec w) := iso nat (BitVec.ofNat w) BitVec.toNat fun a => by simp
def bool : Code Bool := iso nat (· == 1) Bool.toNat fun a => by cases a <;> rfl
def int : Code Int := iso (pair nat nat) (fun x => (x.1 : Int) - x.2) (fun i => (i.toNat, (-i).toNat)) fun a => by omega
def opt {α : Type} (c : Code α) : Code (Option α) := iso (list c) (·.head?) Option.toList fun a => by cases a <;> rfl
def tab {α : Type} (c : Code α) : Code (Tab α) := list (pair nat c)
def know : Code Know := list (pair nat nat)
def cell : Code Host.Cell := pair nat (bv 8)

/-- A node as the number of its constructor and its arguments. -/
def nodeOf : Node → Nat × Nat × Nat × Nat × Nat
  | .root => (0, 0, 0, 0, 0) | .dies => (1, 0, 0, 0, 0)
  | .die a => (2, a, 0, 0, 0) | .tiles a => (3, a, 0, 0, 0)
  | .tile a b => (4, a, b, 0, 0) | .pad a b => (5, a, b, 0, 0)
  | .copy a b => (6, a, b, 0, 0) | .sem a b => (7, a, b, 0, 0)
  | .cores a b => (8, a, b, 0, 0) | .core a b c => (9, a, b, c, 0)
  | .chans a b c => (10, a, b, c, 0) | .chan a b c d => (11, a, b, c, d)
  | .delay a b c => (12, a, b, c, 0) | .services a => (13, a, 0, 0, 0)
  | .service a b => (14, a, b, 0, 0) | .spad a b => (15, a, b, 0, 0)
  | .hbm a => (16, a, 0, 0, 0) | .lpddr a => (17, a, 0, 0, 0)
  | .l2store a => (18, a, 0, 0, 0) | .trace a => (19, a, 0, 0, 0)
  | .fabric => (20, 0, 0, 0, 0) | .groups => (21, 0, 0, 0, 0)
  | .reduces => (22, 0, 0, 0, 0) | .group a => (23, a, 0, 0, 0)
  | .reduce a => (24, a, 0, 0, 0) | .mulls => (25, 0, 0, 0, 0)
  | .vfs => (26, 0, 0, 0, 0) | .vf a => (27, a, 0, 0, 0)
  | .vfctl a => (28, a, 0, 0, 0) | .vfmigrate a => (29, a, 0, 0, 0)
  | .launches a => (30, a, 0, 0, 0) | .launch a b => (31, a, b, 0, 0)
  | .ctxs a => (32, a, 0, 0, 0) | .ctxslot a b => (33, a, b, 0, 0)
  | .host => (34, 0, 0, 0, 0) | .peers => (35, 0, 0, 0, 0)
  | .peer a => (36, a, 0, 0, 0) | .priv a => (37, a, 0, 0, 0)
  | .made a => (38, a, 0, 0, 0)

def nodeTo : Nat × Nat × Nat × Nat × Nat → Node
  | (0, _, _, _, _) => .root | (1, _, _, _, _) => .dies
  | (2, a, _, _, _) => .die a | (3, a, _, _, _) => .tiles a
  | (4, a, b, _, _) => .tile a b | (5, a, b, _, _) => .pad a b
  | (6, a, b, _, _) => .copy a b | (7, a, b, _, _) => .sem a b
  | (8, a, b, _, _) => .cores a b | (9, a, b, c, _) => .core a b c
  | (10, a, b, c, _) => .chans a b c | (11, a, b, c, d) => .chan a b c d
  | (12, a, b, c, _) => .delay a b c | (13, a, _, _, _) => .services a
  | (14, a, b, _, _) => .service a b | (15, a, b, _, _) => .spad a b
  | (16, a, _, _, _) => .hbm a | (17, a, _, _, _) => .lpddr a
  | (18, a, _, _, _) => .l2store a | (19, a, _, _, _) => .trace a
  | (20, _, _, _, _) => .fabric | (21, _, _, _, _) => .groups
  | (22, _, _, _, _) => .reduces | (23, a, _, _, _) => .group a
  | (24, a, _, _, _) => .reduce a | (25, _, _, _, _) => .mulls
  | (26, _, _, _, _) => .vfs | (27, a, _, _, _) => .vf a
  | (28, a, _, _, _) => .vfctl a | (29, a, _, _, _) => .vfmigrate a
  | (30, a, _, _, _) => .launches a | (31, a, b, _, _) => .launch a b
  | (32, a, _, _, _) => .ctxs a | (33, a, b, _, _) => .ctxslot a b
  | (34, _, _, _, _) => .host | (35, _, _, _, _) => .peers
  | (36, a, _, _, _) => .peer a | (37, a, _, _, _) => .priv a
  | (38, a, _, _, _) => .made a
  | _ => .root

def node : Code Node :=
  iso (pair nat <| pair nat <| pair nat <| pair nat nat) nodeTo nodeOf fun n => by cases n <;> rfl

def page : Code Page := iso (opt (opt (opt nat)))
  (fun | none => .own | some none => .absent | some (some none) => .zone | some (some (some f)) => .frame f)
  (fun | .own => none | .absent => some none | .zone => some (some none) | .frame f => some (some (some f)))
  fun p => by cases p <;> rfl

/-! ### The structures of State that an image carries -/

def hEntry : Code HEntry :=
  iso (pair nat <| pair nat <| pair node <| pair (bv 8) <| pair (bv 8) <| pair nat (opt (pair node (list (bv 8)))))
    (fun (a0, a1, a2, a3, a4, a5, a6) => ⟨a0, a1, a2, a3, a4, a5, a6⟩) (fun x => (x.state, x.gen, x.node, x.rights,
    x.grant, x.size, x.via)) fun _ => rfl
def bind : Code Bind :=
  iso (pair node <| pair node <| pair bool <| pair nat <| pair (opt (bv 8)) (bv 8)) (fun (a0, a1, a2, a3, a4, a5) =>
    ⟨a0, a1, a2, a3, a4, a5⟩) (fun x => (x.point, x.src, x.shadow, x.rank, x.bySup, x.grant)) fun _ => rfl
def copyRegs : Code CopyRegs :=
  iso (pair (bv 64) (tab (bv 64))) (fun (a0, a1) => ⟨a0, a1⟩) (fun x => (x.ttab, x.win)) fun _ => rfl
def copyCmd : Code CopyCmd :=
  iso (pair (bv 512) <| pair bool <| pair bool <| pair nat <| pair nat <| pair nat <| pair (opt nat) <| pair nat <|
    pair bool <| pair bool <| pair nat <| pair nat <| pair (opt (pair nat nat)) nat) (fun (a0, a1, a2, a3, a4, a5,
    a6, a7, a8, a9, a10, a11, a12, a13) => ⟨a0, a1, a2, a3, a4, a5, a6, a7, a8, a9, a10, a11, a12, a13⟩) (fun x =>
    (x.tmpl, x.srcTag, x.dstTag, x.core, x.lword, x.ctx, x.launch, x.prio, x.boosted, x.checked, x.next, x.bytes,
    x.fault, x.party)) fun _ => rfl
def lineAcc : Code LineAcc :=
  iso (pair nat <| pair nat <| pair nat (bv 64)) (fun (a0, a1, a2, a3) => ⟨a0, a1, a2, a3⟩) (fun x => (x.party,
    x.kind, x.id, x.who)) fun _ => rfl
def loc : Code Loc :=
  iso (pair nat nat) (fun (a0, a1) => ⟨a0, a1⟩) (fun x => (x.core, x.width)) fun _ => rfl
def relHead : Code RelHead :=
  iso (pair loc <| pair nat know) (fun (a0, a1, a2) => ⟨a0, a1, a2⟩) (fun x => (x.loc, x.scope, x.carry)) fun _ =>
    rfl
def syncVar : Code SyncVar :=
  iso (pair nat <| pair (list relHead) <| pair (list relHead) (tab (list nat))) (fun (a0, a1, a2, a3) => ⟨a0, a1,
    a2, a3⟩) (fun x => (x.size, x.heads, x.past, x.recorded)) fun _ => rfl
def saved : Code Saved :=
  iso (pair nat <| pair (list cell) <| pair (tab bool) <| pair (tab bool) <| pair (tab nat) <| pair (tab (list
    copyCmd)) <| pair (tab (list lineAcc)) <| pair (tab syncVar) <| pair (tab know) <| pair (tab know) (tab know))
    (fun (a0, a1, a2, a3, a4, a5, a6, a7, a8, a9, a10) => ⟨a0, a1, a2, a3, a4, a5, a6, a7, a8, a9, a10⟩) (fun x =>
    (x.size, x.cells, x.tags, x.marks, x.sems, x.copies, x.lines, x.vars, x.semCarry, x.swCarry, x.joinCarry)) fun _
    => rfl
def ctx : Code Ctx :=
  iso (pair bool <| pair nat <| pair nat <| pair nat <| pair nat <| pair nat <| pair nat <| pair (bv 256) <| pair
    (tab hEntry) <| pair (list bind) <| pair (bv 64) <| pair (bv 64) <| pair (bv 64) <| pair (bv 64) <| pair (bv 64)
    <| pair (bv 64) <| pair (bv 64) <| pair (tab nat) <| pair bool <| pair (tab copyRegs) <| pair (tab saved) <|
    pair (tab (list nat)) nat) (fun (a0, a1, a2, a3, a4, a5, a6, a7, a8, a9, a10, a11, a12, a13, a14, a15, a16, a17,
    a18, a19, a20, a21, a22) => ⟨a0, a1, a2, a3, a4, a5, a6, a7, a8, a9, a10, a11, a12, a13, a14, a15, a16, a17,
    a18, a19, a20, a21, a22⟩) (fun x => (x.live, x.fn, x.slot, x.priv, x.govern, x.htent, x.hlog, x.halves,
    x.handles, x.binds, x.tvec, x.tscratch, x.hbase, x.htsize, x.coretab, x.routetab, x.dvec, x.frames, x.stopped,
    x.copyRegs, x.saved, x.restores, x.ran)) fun _ => rfl
def made : Code Made :=
  iso (pair nat <| pair nat <| pair (bv 8) <| pair nat <| pair nat <| pair bool <| pair nat <| pair nat <| pair (tab
    page) <| pair nat <| pair nat <| pair nat <| pair nat <| pair nat <| pair nat <| pair (list (bv 256)) <| pair (tab
    (list (bv 8))) <| pair (tab (list (bv 256))) <| pair (list nat) <| pair (list (pair nat (pair nat nat))) bool)
    (fun (a0, a1, a2, a3, a4, a5, a6, a7, a8, a9, a10, a11, a12, a13, a14, a15, a16, a17, a18, a19, a20) => ⟨a0, a1,
    a2, a3, a4, a5, a6, a7, a8, a9, a10, a11, a12, a13, a14, a15, a16, a17, a18, a19, a20⟩) (fun x => (x.kind, x.tier,
    x.grant, x.home, x.size, x.relaxed, x.fn, x.base, x.pages, x.qpad, x.qdesc, x.qctx, x.peer, x.region, x.codeGen,
    x.digests, x.oldCode, x.oldDigests, x.poisoned, x.hashed, x.named)) fun _ => rfl
def nameEnt : Code NameEnt :=
  iso (pair node <| pair (list (bv 8)) <| pair node (opt nat)) (fun (a0, a1, a2, a3) => ⟨a0, a1, a2, a3⟩) (fun x =>
    (x.dir, x.name, x.node, x.only)) fun _ => rfl
def lSlot : Code LSlot :=
  iso (pair (list (bv 8)) <| pair bool <| pair (opt nat) <| pair nat know) (fun (a0, a1, a2, a3, a4) => ⟨a0, a1, a2,
    a3, a4⟩) (fun x => (x.bytes, x.started, x.launch, x.arrTs, x.know)) fun _ => rfl
def lQueue : Code LQueue :=
  iso (pair (bv 256) <| pair (list lSlot) <| pair (opt nat) know) (fun (a0, a1, a2, a3) => ⟨a0, a1, a2, a3⟩) (fun x
    => (x.cfg, x.slots, x.busy, x.carry)) fun _ => rfl
def launch : Code Launch :=
  iso (pair nat <| pair nat <| pair nat <| pair (bv 64) <| pair (bv 20) <| pair nat <| pair nat <| pair nat <| pair (list
    (pair nat nat)) <| pair nat <| pair nat <| pair (opt nat) <| pair (opt (bv 20)) <| pair (list nat) <| pair (tab (pair
    (bv 64) nat)) <| pair (tab know) <| pair (tab (bv 4)) <| pair know <| pair (opt (list (bv 8))) <| pair bool <|
    pair (opt (pair (bv 20) nat)) (list (pair nat nat))) (fun (a0, a1, a2, a3, a4, a5, a6, a7, a8, a9, a10, a11, a12,
    a13, a14, a15, a16, a17, a18, a19, a20, a21) => ⟨a0, a1, a2, a3, a4, a5, a6, a7, a8, a9, a10, a11, a12, a13, a14, a15,
    a16, a17, a18, a19, a20, a21⟩) (fun x => (x.fn, x.queue, x.ctx, x.lid, x.doneq, x.doneqGen, x.sigGen, x.patchGen, x.cores, x.root, x.dlimit, x.deadline, x.patch, x.contributed, x.words,
    x.knows, x.history, x.know, x.pending, x.written, x.sig, x.pins)) fun _ => rfl
def ptr : Code Ptr :=
  iso (pair bool <| pair (bv 128) bool) (fun (a0, a1, a2) => ⟨a0, a1, a2⟩) (fun x => (x.tag, x.raw, x.pay)) fun _ =>
    rfl
def rec_ : Code Rec :=
  iso (pair bool <| pair (bv 128) <| pair (list (bv 8)) <| pair ptr <| pair (bv 64) <| pair bool <| pair nat <| pair
    nat <| pair bool <| pair nat <| pair nat <| pair nat <| pair nat <| pair nat <| pair nat <| pair know <| pair
    (opt nat) <| pair (bv 32) <| pair (opt nat) <| pair nat nat) (fun (a0, a1, a2, a3, a4, a5, a6, a7, a8, a9, a10,
    a11, a12, a13, a14, a15, a16, a17, a18, a19, a20) => ⟨a0, a1, a2, a3, a4, a5, a6, a7, a8, a9, a10, a11, a12, a13,
    a14, a15, a16, a17, a18, a19, a20⟩) (fun x => (x.isMsg, x.hdr, x.payload, x.frame, x.arg, x.genarg, x.hidx, x.chan,
    x.chanFixed, x.ctx, x.core, x.lcore, x.key, x.sendTs, x.arrTs, x.know, x.launch, x.xferid, x.sdie, x.flit,
    x.sender)) fun _ => rfl
def chan : Code Chan :=
  iso (pair (bv 2) <| pair (bv 20) <| pair (bv 32) <| pair nat <| pair nat <| pair (list rec_) <| pair (list rec_)
    <| pair (list rec_) <| pair (list nat) <| pair (opt rec_) <| pair (opt nat) <| pair nat nat) (fun (a0, a1, a2,
    a3, a4, a5, a6, a7, a8, a9, a10, a11, a12) => ⟨a0, a1, a2, a3, a4, a5, a6, a7, a8, a9, a10, a11, a12⟩) (fun x =>
    (x.mode, x.backH, x.backDepth, x.backCtx, x.backAt, x.onchip, x.spilled, x.ingress, x.episodes, x.head, x.since,
    x.readAt, x.boost)) fun _ => rfl
def half : Code Half :=
  iso (pair (bv 3) <| pair int <| pair bool <| pair bool <| pair bool bool) (fun (a0, a1, a2, a3, a4, a5) => ⟨a0,
    a1, a2, a3, a4, a5⟩) (fun x => (x.mode, x.anchor, x.sat, x.anyInex, x.anyOvf, x.anySpec)) fun _ => rfl
def acc : Code Acc :=
  iso (pair (bv 128) <| pair bool <| pair bool (bv 2)) (fun (a0, a1, a2, a3) => ⟨a0, a1, a2, a3⟩) (fun x => (x.val,
    x.inex, x.ovf, x.spec)) fun _ => rfl
def arrival : Code Arrival :=
  iso (pair nat <| pair nat <| pair (bv 64) <| pair (bv 64) <| pair (bv 4) <| pair bool <| pair nat <| pair nat <|
    pair nat <| pair (bv 64) <| pair nat <| pair nat (opt nat)) (fun (a0, a1, a2, a3, a4, a5, a6, a7, a8, a9, a10,
    a11, a12) => ⟨a0, a1, a2, a3, a4, a5, a6, a7, a8, a9, a10, a11, a12⟩) (fun x => (x.core, x.lcore, x.ctl,
    x.stream, x.et, x.nib, x.prio, x.at_, x.hidx, x.actstart, x.thread, x.pc, x.launch)) fun _ => rfl
def plan : Code Plan :=
  iso (pair nat <| pair nat <| pair nat <| pair bool (list nat)) (fun (a0, a1, a2, a3, a4) => ⟨a0, a1, a2, a3, a4⟩)
    (fun x => (x.n, x.b, x.t, x.inv, x.radices)) fun _ => rfl
def stripe : Code Stripe :=
  iso (pair (tab int) <| pair nat <| pair (bv 32) bool) (fun (a0, a1, a2, a3) => ⟨a0, a1, a2, a3⟩) (fun x => (x.s,
    x.w, x.spread, x.damaged)) fun _ => rfl
def out : Code Out :=
  iso (pair bool <| pair nat <| pair nat <| pair nat <| pair nat <| pair (tab int) <| pair nat <| pair nat <| pair
    nat <| pair nat nat) (fun (a0, a1, a2, a3, a4, a5, a6, a7, a8, a9, a10) => ⟨a0, a1, a2, a3, a4, a5, a6, a7, a8,
    a9, a10⟩) (fun x => (x.valid, x.seq, x.stripe, x.region, x.hw, x.hs, x.applied, x.sendseq, x.cursor, x.slotAt,
    x.period)) fun _ => rfl
def region : Code Region :=
  iso (pair nat <| pair bool <| pair (list nat) <| pair nat <| pair int <| pair nat <| pair nat <| pair nat <| pair
    nat <| pair (tab stripe) <| pair (tab out) <| pair (tab (opt nat)) (tab nat)) (fun (a0, a1, a2, a3, a4, a5, a6,
    a7, a8, a9, a10, a11, a12) => ⟨a0, a1, a2, a3, a4, a5, a6, a7, a8, a9, a10, a11, a12⟩) (fun x => (x.node,
    x.live, x.members, x.stripes, x.e, x.cadence, x.prio, x.ctx, x.fn, x.reps, x.outs, x.frames, x.slots)) fun _ =>
    rfl

end Code

end Sys2Proof.Machine
end

