-- ==== Sys2Proof/Machine/Image.lean ====
section
/-! DEFINITION. What a migration image carries (R332), and how it is named anew on the module that receives it. -/

namespace Sys2Proof.Machine

/-! ### Contents of the records whose bodies the manual names without a layout -/

/-- A made object with the bytes that stand in no guest frame: the L2 store's, and the compressed zone's. -/
structure ImgObj where
  id : Nat
  obj : Made
  cells : List Host.Cell
  tags : Tab Bool
  marks : Tab Bool
  deriving DecidableEq, Repr, Inhabited

/-- CONTEXT: the context with its handle table and bindings, the objects and names of its function, its launch
queues with their records, its launches, and its records at service cores. -/
structure ImgCtx where
  ctx : Ctx
  objs : List ImgObj
  names : List NameEnt
  queues : Tab LQueue
  launches : Tab Launch
  service : List (Nat × Chan)
  deriving DecidableEq, Repr, Inhabited

/-- SAVED: what R328 step 5 saves of a tile. -/
structure ImgSaved where
  image : Saved
  chans : List (Nat × Chan)
  deriving DecidableEq, Repr, Inhabited

/-- ENGINE: held sheets with their data and scale planes, held halves with their elements, barrier and plan. -/
structure ImgEngine where
  sheets : List (Nat × List Host.Cell)
  halves : List (Nat × Half × Tab Acc)
  barrier : List Arrival
  plan : Option Plan
  deriving DecidableEq, Repr, Inhabited

inductive ImgBody where
  | context (x : ImgCtx)
  | saved (x : ImgSaved)
  | engine (x : ImgEngine)
  | mull (x : Region)
  deriving DecidableEq, Repr

/-- The TYPE of a body's record. -/
def ImgBody.type : ImgBody → Nat
  | .context _ => 2
  | .saved _ => 5
  | .engine _ => 6
  | .mull _ => 7

/-- A part's own layout of the bodies (R332): every body reads back as it was written, and bytes that are accepted
hold that body alone. -/
structure Codec where
  enc : ImgBody → List Byte
  dec : Nat → List Byte → Option ImgBody
  sound : ∀ t bs b, dec t bs = some b → b.type = t ∧ enc b = bs
  complete : ∀ b, dec b.type (enc b) = some b

/-! ### That there is one -/

namespace Code

def imgObj : Code ImgObj :=
  iso (pair nat <| pair made <| pair (list cell) <| pair (tab bool) (tab bool)) (fun (a0, a1, a2, a3, a4) => ⟨a0,
    a1, a2, a3, a4⟩) (fun x => (x.id, x.obj, x.cells, x.tags, x.marks)) fun _ => rfl
def imgCtx : Code ImgCtx :=
  iso (pair ctx <| pair (list imgObj) <| pair (list nameEnt) <| pair (tab lQueue) <| pair (tab launch) (list (pair
    nat chan))) (fun (a0, a1, a2, a3, a4, a5) => ⟨a0, a1, a2, a3, a4, a5⟩) (fun x => (x.ctx, x.objs, x.names,
    x.queues, x.launches, x.service)) fun _ => rfl
def imgSaved : Code ImgSaved :=
  iso (pair saved (list (pair nat chan))) (fun (a0, a1) => ⟨a0, a1⟩) (fun x => (x.image, x.chans)) fun _ => rfl
def imgEngine : Code ImgEngine :=
  iso (pair (list (pair nat (list cell))) <| pair (list (pair nat (pair half (tab acc)))) <| pair (list arrival)
    (opt plan)) (fun (a0, a1, a2, a3) => ⟨a0, a1, a2, a3⟩) (fun x => (x.sheets, x.halves, x.barrier, x.plan)) fun _
    => rfl

/-- A body as its one content among four. -/
def imgBody : Code ImgBody :=
  iso (pair (opt imgCtx) <| pair (opt imgSaved) <| pair (opt imgEngine) region)
    (fun | (some x, _, _, _) => .context x | (none, some x, _, _) => .saved x | (none, none, some x, _) => .engine x
         | (none, none, none, x) => .mull x)
    (fun | .context x => (some x, none, none, {}) | .saved x => (none, some x, none, {}) | .engine x => (none, none, some x, {})
         | .mull x => (none, none, none, x))
    fun b => by cases b <;> rfl

end Code

/-- A codec: it accepts the bytes that it writes and no others. -/
def Codec.plain : Codec where
  enc := Code.imgBody.enc
  dec t bs := match Code.imgBody.dec bs with
    | some (b, _) => if b.type = t ∧ Code.imgBody.enc b = bs then some b else none
    | none => none
  sound t bs b h := by
    split at h
    · split at h
      · cases h; assumption
      · cases h
    · cases h
  complete b := by
    have h := Code.imgBody.ok b []
    rw [List.append_nil] at h
    simp [h]

end Sys2Proof.Machine

namespace Sys2Proof.Config

/-- The layout of the bodies (R332): some codec, of which nothing else is known. -/
opaque imageCodecOf [Inhabited Sys2Proof.Machine.Codec] : Sys2Proof.Machine.Codec
def imageCodec : Sys2Proof.Machine.Codec := @imageCodecOf ⟨Sys2Proof.Machine.Codec.plain⟩

/-- The bytes of a body, and what bytes of a TYPE read back as. -/
def imageBody (b : Sys2Proof.Machine.ImgBody) : List Byte := imageCodec.enc b
def imageRead (t : Nat) (bs : List Byte) : Option Sys2Proof.Machine.ImgBody := imageCodec.dec t bs

end Sys2Proof.Config

namespace Sys2Proof.Machine

/-! ### Forming the contents -/

/-- Channels of the cores that `p` names, with only the records of context c. -/
def State.chansFor (s : State) (c : Nat) (p : Nat → Bool) : List (Nat × Chan) :=
  s.chans.filterMap fun e =>
    if p (e.1 / 16) then
      let x := { e.2 with onchip := e.2.onchip.filter (·.ctx == c), spilled := e.2.spilled.filter (·.ctx == c),
                          ingress := e.2.ingress.filter (·.ctx == c), since := none }
      if x = {} then none else some (e.1, x)
    else none

def State.imgObj (s : State) (i : Nat) (m : Made) : ImgObj :=
  let a := ownAddr i 0
  { id := i, obj := m, cells := takeRange s.mem a (2 ^ 44),
    tags := (getKeys (a / 16) (2 ^ 40) s.tags).map fun e => (e.1 - a / 16, e.2),
    marks := (getKeys (a / 64) (2 ^ 38) s.marks).map fun e => (e.1 - a / 64, e.2) }

def State.imgCtx (s : State) (n c : Nat) : ImgCtx :=
  let mine := s.made.filter fun e => e.2.fn == n
  { ctx := { s.ctx c with saved := [] }
    objs := mine.map fun e => s.imgObj e.1 e.2
    names := s.names.filter fun e => mine.any fun m => e.node = .made m.1
    queues := (s.fn n).lqs.filter fun q => bits q.2.cfg.toNat 16 16 == c
    launches := s.launches.filter fun l => l.2.ctx == c
    service := s.chansFor c fun core => coreRole core == 3 }

def State.imgSaved (s : State) (c p : Nat) : ImgSaved :=
  { image := tget {} (s.ctx c).saved p, chans := s.chansFor c fun core => coreRole core != 3 && padOf core == p }

def State.imgEngine (s : State) (c q : Nat) : ImgEngine :=
  let x := s.quarto q
  { sheets := (x.holder.filter fun e => e.2 == c).map fun e => (e.1, s.sheetCells q e.1)
    halves := ([0, 1].filter fun h => bitOn (s.ctx c).halves.toNat (2 * q + h)).map fun h =>
      (h, tget {} x.halves h, (getKeys ((256 * q + 128 * h) * 128) 16384 s.acc).map fun e => (e.1 - 256 * 128 * q, e.2))
    barrier := tget [] x.barrier c
    plan := (x.plans.find? fun e => e.1 == c).map (·.2) }

/-- CONFIG's body: the function record, l2limit, padlimit, the caps and L2STORE. -/
def Fn.imgConfig (f : Fn) : List Byte :=
  bytesOfNat 64 f.recNum ++ bytesOfNat 8 f.l2limit.toNat ++ bytesOfNat 8 f.padlimit.toNat ++ bytesOfNat 8 f.hbmcap.toNat
    ++ bytesOfNat 8 f.l2cap.toNat ++ bytesOfNat 8 f.linkcap.toNat ++ bytesOfNat 8 f.portcap.toNat ++ bytesOfNat 8 f.l2store

/-- A PAGE's body: 64 KiB, then a bit for each granule's tag and each line's arming mark. -/
def State.imgPage (s : State) (a : Nat) : List Byte :=
  let flags (n : Nat) (f : Nat → Bool) : List Byte :=
    (List.range (n / 8)).map fun i => BitVec.ofNat 8 (((List.range 8).map fun k => (f (8 * i + k)).toNat * 2 ^ k).sum)
  s.peek a 65536 ++ flags 4096 (fun k => tget false s.tags (a / 16 + k)) ++ flags 1024 (fun k => tget false s.marks (a / 64 + k))

def pageBody : Nat := 65536 + 512 + 128

/-! ### Names on the receiving module -/

/-- How the source's quartos, objects, launches and regions are named at the destination. -/
structure Ren where
  src : Nat
  dst : Nat
  srcQ : List Nat
  dstQ : List Nat
  nodes : Nat
  launches : Nat
  regions : Nat

/-- Position k of one list as position k of another. -/
def swapAt (a b : List Nat) (x : Nat) : Nat := match a.findIdx? (· == x) with
  | some i => b.getD i x
  | none => x

def Ren.quarto (r : Ren) (q : Nat) : Nat := swapAt r.srcQ r.dstQ q
def Ren.die (r : Ren) (d : Nat) : Nat := swapAt ((r.srcQ.map (· / 4)).eraseDups) ((r.dstQ.map (· / 4)).eraseDups) d
def Ren.tile (r : Ren) (d t : Nat) : Nat × Nat :=
  let q := r.quarto (t / 8 + 4 * d)
  (q / 4, 8 * (q % 4) + t % 8)
def Ren.svc (r : Ren) (d k : Nat) : Nat × Nat :=
  let q := r.quarto (k + 4 * d)
  (q / 4, q % 4)
def Ren.pad (r : Ren) (p : Nat) : Nat :=
  if p < 1024 then let x := r.tile (p / 32) (p % 32); 32 * x.1 + x.2
  else let x := r.svc ((p - 1024) / 4) (p % 4); 1024 + 4 * x.1 + x.2
def Ren.core (r : Ren) (c : Nat) : Nat :=
  if coreRole c = 3 then let x := r.svc (coreDie c) (coreTile c); coreOf x.1 x.2 3
  else let x := r.tile (coreDie c) (coreTile c); coreOf x.1 x.2 (coreRole c)
def Ren.fn (r : Ren) (n : Nat) : Nat := if n = r.src then r.dst else n

def Ren.node (r : Ren) : Node → Node
  | .die d => .die (r.die d)
  | .tiles d => .tiles (r.die d)
  | .services d => .services (r.die d)
  | .hbm d => .hbm (r.die d)
  | .lpddr d => .lpddr (r.die d)
  | .l2store d => .l2store (r.die d)
  | .trace d => .trace (r.die d)
  | .tile d t => let x := r.tile d t; .tile x.1 x.2
  | .pad d t => let x := r.tile d t; .pad x.1 x.2
  | .copy d t => let x := r.tile d t; .copy x.1 x.2
  | .sem d t => let x := r.tile d t; .sem x.1 x.2
  | .cores d t => let x := r.tile d t; .cores x.1 x.2
  | .core d t c => let x := r.tile d t; .core x.1 x.2 c
  | .chans d t c => let x := r.tile d t; .chans x.1 x.2 c
  | .chan d t c k => let x := r.tile d t; .chan x.1 x.2 c k
  | .delay d t c => let x := r.tile d t; .delay x.1 x.2 c
  | .service d k => let x := r.svc d k; .service x.1 x.2
  | .spad d k => let x := r.svc d k; .spad x.1 x.2
  | .vf n => .vf (r.fn n)
  | .vfctl n => .vfctl (r.fn n)
  | .vfmigrate n => .vfmigrate (r.fn n)
  | .launches n => .launches (r.fn n)
  | .launch n k => .launch (r.fn n) k
  | .ctxs n => .ctxs (r.fn n)
  | .ctxslot n k => .ctxslot (r.fn n) k
  | .made i => .made (r.nodes + i)
  | n => n

def Ren.via (r : Ren) : Option (Node × List Byte) → Option (Node × List Byte)
  | some (d, n) => some (r.node d, n)
  | none => none

def Ren.made (r : Ren) (m : Made) : Made :=
  -- what stands outside /dies is homed on die 0 (R242)
  { m with home := if m.tier == 4 || m.kind == kMull || m.kind == kPeer || (m.kind == kDir && m.tier == 0) then m.home
             else r.die m.home
           fn := r.dst, qpad := r.pad m.qpad, region := r.regions + m.region
           hashed := m.hashed.map fun h => (r.die h.1, h.2) }

def Ren.name (r : Ren) (e : NameEnt) : NameEnt := { e with dir := r.node e.dir, node := r.node e.node }
def Ren.hent (r : Ren) (h : HEntry) : HEntry := { h with node := r.node h.node, via := r.via h.via }
def Ren.bind (r : Ren) (b : Bind) : Bind := { b with point := r.node b.point, src := r.node b.src }
def Ren.launchNo (r : Ren) (l : Option Nat) : Option Nat := l.map (r.launches + ·)

/-- A table with renamed keys. -/
def reKey {α : Type} [DecidableEq α] (d : α) (f : Nat → Nat) (t : Tab α) : Tab α :=
  t.foldl (fun acc e => tset d acc (f e.1) e.2) []

def Ren.record (r : Ren) (x : Rec) : Rec :=
  { x with core := r.core x.core, know := [], launch := r.launchNo x.launch, sdie := none, sender := 0 }

def Ren.channel (r : Ren) (c : Chan) : Chan :=
  { c with onchip := c.onchip.map r.record, spilled := c.spilled.map r.record, ingress := c.ingress.map r.record,
           head := none, since := none }

def Ren.halves (r : Ren) (h : BitVec 256) : BitVec 256 :=
  BitVec.ofNat 256 (((List.range 256).filter fun i => bitOn h.toNat i).map fun i => 2 ^ (2 * r.quarto (i / 2) + i % 2)).sum

def Ren.ctx (r : Ren) (c : Ctx) : Ctx :=
  { c with
    fn := r.dst
    halves := r.halves c.halves
    handles := c.handles.map fun e => (e.1, r.hent e.2)
    binds := c.binds.map r.bind
    frames := reKey 0 r.pad c.frames
    copyRegs := reKey {} r.pad c.copyRegs
    saved := []
    restores := reKey [] r.core c.restores }

def Ren.launch (r : Ren) (l : Launch) : Launch :=
  { l with fn := r.dst, cores := l.cores.map fun c => (r.core c.1, c.2), contributed := l.contributed.map r.core,
           history := reKey 0 r.core l.history, know := [], pins := l.pins.map fun p => (r.nodes + p.1, p.2) }

def Ren.queue (r : Ren) (q : LQueue) : LQueue :=
  { q with carry := [], busy := r.launchNo q.busy, slots := q.slots.map fun x => { x with know := [], launch := r.launchNo x.launch } }

/-- Keys of one range moved to start elsewhere. -/
def shiftKeys {α : Type} (src dst : Nat) (t : List (Nat × α)) : List (Nat × α) := t.map fun e => (e.1 + dst - src, e.2)

/-- A saved tile moves from one pad to another; ordering state stays behind. -/
def Ren.saved (r : Ren) (pad : Nat) (x : Saved) : Saved :=
  let p := r.pad pad
  { size := x.size
    cells := shiftKeys (padAddr pad 0) (padAddr p 0) x.cells
    tags := shiftKeys (padAddr pad 0 / 16) (padAddr p 0 / 16) x.tags
    marks := shiftKeys (padAddr pad 0 / 64) (padAddr p 0 / 64) x.marks
    sems := shiftKeys (32 * pad) (32 * p) x.sems
    copies := shiftKeys (8 * pad) (8 * p) (x.copies.map fun e => (e.1, e.2.map fun c =>
      { c with core := r.core c.core, launch := r.launchNo c.launch, party := 0 })) }

def Ren.region (r : Ren) (x : Region) : Region :=
  { x with
    node := r.nodes + x.node
    members := x.members.map r.die
    fn := r.dst
    reps := reKey {} (fun k => 65536 * r.die (k / 65536) + k % 65536) x.reps
    outs := reKey {} (fun k => 4 * r.die (k / 4) + k % 4) x.outs
    frames := reKey none r.die x.frames
    slots := [] }

end Sys2Proof.Machine
end

