-- ==== Sys2Proof/Machine/Migrate.lean ====
section
/-! DEFINITION. Migration: a function's state, its image and the data window (R330 to R333). -/

namespace Sys2Proof.Machine

/-! ### Forming the image (R332) -/

/-- A record: header, then body. -/
def imgRecord (type key : Nat) (body : List Byte) : List Byte :=
  bytesOfNat 16 (type + (16 + body.length) % 2 ^ 32 * 2 ^ 32 + key % 2 ^ 64 * 2 ^ 64) ++ body

/-- A range among ranges that rise by their first units. -/
def insRange (x : Nat × Nat) : List (Nat × Nat) → List (Nat × Nat)
  | [] => [x]
  | y :: l => if x.1 < y.1 then x :: y :: l else y :: insRange x l

/-- Units of the function's guest-physical memory: ranges, as first unit and count, rising. -/
def State.guestUnits (s : State) (n : Nat) : List (Nat × Nat) :=
  let k := (s.quartosOf n).length
  let extra := ((s.fn n).s2.filter fun e => decide (2 ≤ e.2) && (s.layout2 n e.1).isNone).map fun e => (32 * e.1, 32)
  extra.foldr insRange ((List.range k).map (fun j => (32 * 8192 * j, 32 * 7936))
    ++ (List.range k).map (fun j => (32 * (lpBase + 32768 * j), 32 * 32768)))

/-- First unit of [u, u + fuel) that is dirty and mapped. -/
def State.dirtyFrom (s : State) (n : Nat) : Nat → Nat → Option Nat
  | 0, _ => none
  | f + 1, u =>
    if (s.stage2 n (u / 32)).isSome && !(s.fn n).migr.clean.contains u then some u else s.dirtyFrom n f (u + 1)

/-- The next dirty unit at or above `u`. -/
def State.nextDirty (s : State) (n u : Nat) : Option Nat :=
  (s.guestUnits n).findSome? fun (lo, k) => s.dirtyFrom n (lo + k - max lo u) (max lo u)

/-- A PAGE record of unit u, whose dirty bit clears. -/
def State.pageRec (s : State) (n u : Nat) : List Byte × State :=
  (imgRecord 3 u (match s.frameAddr n u with
    | some a => s.imgPage a
    | none => List.replicate pageBody 0),
   s.updFn n fun f => { f with migr := { f.migr with clean := u :: f.migr.clean } })

/-- Contexts of the function. -/
def State.ctxsOf (s : State) (n : Nat) : List Nat := s.rotation n

/-- Mull regions of the function. -/
def State.regionsOf (s : State) (n : Nat) : List Nat := (s.mull.filter fun e => e.2.live && e.2.fn == n).map (·.1)

/-- What follows the last page: CONFIG, CONTEXT, SAVED, ENGINE and MULL records, as thunks by number. -/
def State.tailRec (s : State) (n i : Nat) : Option (List Byte) :=
  let cs := s.ctxsOf n
  let ps := s.padsOf n
  let qs := s.quartosOf n
  let ds := s.diesOf n
  let ms := s.regionsOf n
  let tile (p : Nat) : Nat := (ds.findIdx? (· == p / 32)).getD 0 * 32 + p % 32
  if i = 0 then some (imgRecord 1 0 (s.fn n).imgConfig)
  else
    let i := i - 1
    if i < cs.length then
      let c := cs.getD i 0
      some (imgRecord 2 c (Config.imageBody (.context (s.imgCtx n c))))
    else
      let i := i - cs.length
      if i < cs.length * ps.length then
        let c := cs.getD (i / ps.length) 0
        let p := ps.getD (i % ps.length) 0
        some (imgRecord 5 (c + tile p * 2 ^ 16) (Config.imageBody (.saved (s.imgSaved c p))))
      else
        let i := i - cs.length * ps.length
        if i < cs.length * qs.length then
          let c := cs.getD (i / qs.length) 0
          let q := qs.getD (i % qs.length) 0
          some (imgRecord 6 (c + i % qs.length * 2 ^ 16) (Config.imageBody (.engine (s.imgEngine c q))))
        else
          let i := i - cs.length * qs.length
          if i < ms.length then
            let m := ms.getD i 0
            some (imgRecord 7 m (Config.imageBody (.mull (s.region m))))
          else none

/-- How many records the tail has without END. -/
def State.tailLen (s : State) (n : Nat) : Nat :=
  1 + (s.ctxsOf n).length * (1 + (s.padsOf n).length + (s.quartosOf n).length) + (s.regionsOf n).length

/-- Forms the next record, if there is one. -/
def State.formRec (s : State) (n : Nat) : Option (List Byte × State) :=
  let m := (s.fn n).migr
  let stage (s : State) (k : Nat) : State := s.updFn n fun f => { f with migr := { f.migr with stage := k } }
  if m.st = 1 then
    match s.nextDirty n m.stage with
    | some u =>
      let (b, s) := s.pageRec n u
      some (b, stage s (u + 1))
    | none =>
      if m.stage = 0 then none
      else some (imgRecord 4 m.pass [], s.updFn n fun f => { f with migr := { f.migr with stage := 0, pass := f.migr.pass + 1 } })
  else if m.st = 3 then
    match if m.stage = 0 then s.nextDirty n 0 else none with
    | some u => some (s.pageRec n u)
    | none =>
      if m.stage < s.tailLen n then (s.tailRec n m.stage).map fun b => (b, stage s (m.stage + 1))
      else if m.stage = s.tailLen n then
        some (imgRecord 8 0 (bytesOfNat 32 (Config.shake256 m.seen).toNat), stage s (m.stage + 1))
      else none
  else none

/-- Forms records until `len` bytes stand from WPOS on, or none is left. -/
def State.formTo (s : State) (n len : Nat) : Nat → State
  | 0 => s
  | k + 1 =>
    if len ≤ (s.fn n).migr.image.length then s
    else match s.formRec n with
      | none => s
      | some (b, s) =>
        (s.updFn n fun f => { f with migr := { f.migr with image := f.migr.image ++ b, seen := f.migr.seen ++ b } }).formTo n len k

/-- Every record but END is at least 16 bytes. -/
def State.formAll (s : State) (n len : Nat) : State := s.formTo n len (len / 16 + 1)

/-! ### Consuming an image (R332) -/

/-- The place of a TYPE in the stream. -/
def imgRank (type : Nat) : Nat :=
  match type with
  | 3 | 4 => 0
  | 1 => 1
  | 2 => 2
  | 5 => 3
  | 6 => 4
  | 7 => 5
  | _ => 6

def erMALFORMED : Nat := 2
def erSHAPE : Nat := 3
def erCHECK : Nat := 4

/-- ERROR with its code. -/
def State.migrError (s : State) (n code : Nat) : State :=
  s.updFn n fun f => { f with migr := { f.migr with st := 7, err := code, image := [], seen := [], recs := [] } }

/-- Quartos held on each of the partition's dies, rising. -/
def shapeOf (quartos : Nat) : List Nat :=
  ((List.range 32).map fun d => ((List.range 4).map fun k => bits quartos (4 * d + k) 1).sum).filter (· != 0)

/-- The configuration matches the destination's. -/
def State.shapeOk (s : State) (n : Nat) (body : List Byte) : Bool :=
  let x := recordOf (natOfBytes (body.take 64))
  shapeOf x.quartos.toNat == shapeOf (s.fn n).recd.quartos.toNat && x.fuse == (s.fn n).recd.fuse

/-- CONFIG's fields: no reserved bit, and every field in the range in which its register or record holds it (R316,
R321, R322). -/
def configOk (body : List Byte) : Bool :=
  let x := natOfBytes (body.take 64)
  let w (i : Nat) : Nat := natOfBytes ((body.drop (64 + 8 * i)).take 8)
  let cap (i most : Nat) : Bool := decide (w i ≤ most * 15 / 16)
  bits x 256 31 == 0 && bits x 0 248 == 0 && (recordOf x).inRange && decide (w 0 ≤ 24) && decide (16 ≤ w 1) && decide (w 1 ≤ 32)
    && cap 2 51562 && cap 3 3000 && cap 4 15625 && cap 5 3125 && decide (w 6 ≤ 24)

/-- Quartos of the source, as the CONFIG record among those consumed names them. -/
def imgQuartos (recs : List (Nat × Nat × List Byte)) : List Nat :=
  let conf := (recs.find? fun e => e.1 == 1).elim [] fun e => e.2.2
  (List.range 128).filter fun q => bitOn (recordOf (natOfBytes (conf.take 64))).quartos.toNat q

/-- A KEY names what records before it, or CONFIG, have named, and no record before it has the same. -/
def keyOk (recs : List (Nat × Nat × List Byte)) (type key : Nat) : Bool :=
  let qs := imgQuartos recs
  let ds := (qs.map (· / 4)).eraseDups
  let k := key / 65536
  !(recs.any fun e => e.1 == type && e.2.1 == key) && (match type with
    | 5 => (recs.any fun e => e.1 == 2 && e.2.1 == key % 65536) && decide (k / 32 < ds.length)
        && qs.contains (4 * ds.getD (k / 32) 0 + k % 32 / 8)
    | 6 => (recs.any fun e => e.1 == 2 && e.2.1 == key % 65536) && decide (k < qs.length)
    | 7 => recs.any fun e => e.1 == 2 && (match Config.imageRead 2 e.2.2 with
        | some (.context x) => x.objs.any fun o => o.obj.kind == kMull && o.obj.region == key
        | _ => false)
    | _ => true)

/-- A record's fields and its place after those before it; 0 or an ERROR code. -/
def State.recordErr (s : State) (n type key : Nat) (body : List Byte) : Nat :=
  let m := (s.fn n).migr
  let last := (m.recs.getLast?).map fun r => r.1
  let after : Bool := match last with
    | none => decide (imgRank type ≤ 1)
    | some l => decide (imgRank l ≤ imgRank type) && !(type == 1 && l == 1) && l != 8
        && (decide (imgRank type ≤ 1) || m.recs.any (·.1 == 1))
  if !after then erMALFORMED
  else match type with
    | 1 => if body.length ≠ 120 ∨ key ≠ 0 ∨ !configOk body then erMALFORMED else if s.shapeOk n body then 0 else erSHAPE
    | 2 => match Config.imageRead 2 body with
      | some (.context _) => if key = 0 ∨ 0xFFFF ≤ key ∨ (s.ctx key).live ∨ !keyOk m.recs 2 key then erMALFORMED else 0
      | _ => erMALFORMED
    | 3 => if body.length = pageBody ∧ (s.frameAddr n key).isSome then 0 else erMALFORMED
    | 4 => if body = [] ∧ key = m.recs.countP (·.1 == 4) then 0 else erMALFORMED
    | 5 => match Config.imageRead 5 body with
      | some (.saved _) => if keyOk m.recs 5 key then 0 else erMALFORMED
      | _ => erMALFORMED
    | 6 => match Config.imageRead 6 body with
      | some (.engine _) => if keyOk m.recs 6 key then 0 else erMALFORMED
      | _ => erMALFORMED
    | 7 => match Config.imageRead 7 body with
      | some (.mull _) => if keyOk m.recs 7 key then 0 else erMALFORMED
      | _ => erMALFORMED
    | 8 => if body.length ≠ 32 ∨ key ≠ 0 then erMALFORMED
           else if natOfBytes body = (Config.shake256 (m.seen.take m.eaten)).toNat then 0 else erCHECK
    | _ => erMALFORMED

/-- Consumes every whole record that WPOS has passed. -/
def State.consume (s : State) (n : Nat) : Nat → State
  | 0 => s
  | k + 1 =>
    let m := (s.fn n).migr
    let rest := m.seen.drop m.eaten
    if m.st ≠ 4 ∨ rest.length < 16 then s
    else
      let h := natOfBytes (rest.take 16)
      let len := bits h 32 32
      if bits h 16 16 ≠ 0 ∨ len < 16 then s.migrError n erMALFORMED
      else if rest.length < len then s
      else
        let body := (rest.take len).drop 16
        let e := s.recordErr n (bits h 0 16) (bits h 64 64) body
        if e ≠ 0 then s.migrError n e
        else (s.updFn n fun f => { f with migr := { f.migr with
          eaten := f.migr.eaten + len, recs := f.migr.recs ++ [(bits h 0 16, bits h 64 64, body)] } }).consume n k

/-! ### Applying an accepted image -/

/-- A page's bytes, tags and marks. -/
def State.applyPage (s : State) (n u : Nat) (body : List Byte) : State :=
  match s.frameAddr n u with
  | none => s
  | some a =>
    let bit (base k : Nat) : Bool := bitOn (body.getD (base + k / 8) 0).toNat (k % 8)
    let s := s.poke a (body.take 65536)
    { s with
      tags := (List.range 4096).foldl (fun t k => tset false t (a / 16 + k) (bit 65536 k)) s.tags
      marks := (List.range 1024).foldl (fun t k => tset false t (a / 64 + k) (bit 66048 k)) s.marks }

/-- CONFIG: everything but the quartos and the world, which the destination's own record gives. -/
def State.applyConfig (s : State) (n : Nat) (body : List Byte) : State :=
  let w (i : Nat) : Word := w64 (natOfBytes ((body.drop (64 + 8 * i)).take 8))
  s.updFn n fun f => { f with
    recd := { recordOf (natOfBytes (body.take 64)) with quartos := f.recd.quartos, world := f.recd.world }
    l2limit := w 0
    padlimit := w 1
    hbmcap := w 2
    l2cap := w 3
    linkcap := w 4
    portcap := w 5
    l2store := (w 6).toNat }

/-- One made object with the bytes of its own. -/
def State.applyObj (s : State) (r : Ren) (o : ImgObj) : State :=
  let i := r.nodes + o.id
  let a := ownAddr i 0
  if s.made.any (·.1 == i) then s
  else
    let m := r.made o.obj
    let s := { s with
      made := tset {} s.made i m
      mem := putRange s.mem a (2 ^ 44) o.cells
      tags := putKeys (a / 16) (2 ^ 40) (o.tags.map fun e => (e.1 + a / 16, e.2)) s.tags
      marks := putKeys (a / 64) (2 ^ 38) (o.marks.map fun e => (e.1 + a / 64, e.2)) s.marks }
    if m.paged && !(m.kind == kMemo && m.tier == 4) then
      s.updFn r.dst fun f => { f with runs := (m.base, footprint m.size / 65536) :: f.runs }
    else s

/-- Channel records join the destination's. -/
def State.applyChans (s : State) (r : Ren) (cs : List (Nat × Chan)) : State :=
  cs.foldl (fun s e =>
    let ch := 16 * r.core (e.1 / 16) + e.1 % 16
    let x := r.channel e.2
    s.updChan ch fun c => { c with
      mode := x.mode
      backH := x.backH
      backDepth := x.backDepth
      onchip := c.onchip ++ x.onchip
      spilled := c.spilled ++ x.spilled
      ingress := c.ingress ++ x.ingress
      episodes := x.episodes }) s

def State.applyCtx (s : State) (r : Ren) (c : Nat) (x : ImgCtx) : State :=
  let s := x.objs.foldl (fun s o => s.applyObj r o) s
  let new := (x.names.map r.name).filter fun e => !s.names.contains e
  let s := { s with names := s.names ++ new }.setCtx c (r.ctx x.ctx)
  let s := s.updFn r.dst fun f => { f with lqs := x.queues.foldl (fun t q => tset {} t q.1 (r.queue q.2)) f.lqs }
  let s := x.launches.foldl (fun s l => s.setLaunch (r.launches + l.1) (r.launch l.2)) s
  s.applyChans r x.service

def State.applySaved (s : State) (r : Ren) (key : Nat) (x : ImgSaved) : State :=
  let c := key % 65536
  let t := key / 65536
  let srcDies := (r.srcQ.map (· / 4)).eraseDups
  let pad := 32 * srcDies.getD (t / 32) 0 + t % 32
  let s := s.updCtx c fun y => { y with saved := tset {} y.saved (r.pad pad) (r.saved pad x.image) }
  s.applyChans r x.chans

def State.applyEngine (s : State) (r : Ren) (key : Nat) (x : ImgEngine) : State :=
  let c := key % 65536
  let q := r.dstQ.getD (key / 65536) 0
  let s := x.sheets.foldl (fun s e =>
    let s := s.updQuarto q fun y => { y with holder := tset 0 y.holder e.1 c }
    { s with sheetMem := putRange s.sheetMem (sheetBase q e.1) sheetBytes e.2 }) s
  let s := x.halves.foldl (fun s e =>
    let s := (s.resetHalf q e.1).setHalf q e.1 e.2.1
    { s with acc := e.2.2.foldl (fun t a => tset {} t (a.1 + 256 * 128 * q) a.2) s.acc }) s
  let arr := x.barrier.map fun a => { a with core := r.core a.core, launch := r.launchNo a.launch }
  s.updQuarto q fun y => { y with
    barrier := tset [] y.barrier c arr
    plans := match x.plan with
      | some p => tset {} y.plans c p
      | none => y.plans }

/-- One record of an accepted image. -/
def State.applyRec (s : State) (r : Ren) (type key : Nat) (body : List Byte) : State :=
  match type with
  | 1 => s.applyConfig r.dst body
  | 3 => s.applyPage r.dst key body
  | 4 => s
  | 8 => s
  | _ => match Config.imageRead type body with
    | some (.context x) => s.applyCtx r key x
    | some (.saved x) => s.applySaved r key x
    | some (.engine x) => s.applyEngine r key x
    | some (.mull x) =>
      let y := r.region x
      s.setRegion (r.regions + key) { y with slots := y.members.foldl (fun t d => tset 0 t d (s.regionSlot d)) [] }
    | none => s

/-- One past the largest key. -/
def keyTop {α : Type} (t : Tab α) : Nat := (t.getLast?).elim 0 fun e => e.1 + 1

/-- The naming of an accepted image: the quartos of its CONFIG and the function of its contexts. -/
def State.renOf (s : State) (n : Nat) (recs : List (Nat × Nat × List Byte)) : Ren :=
  let src := recs.findSome? fun e => if e.1 = 2 then match Config.imageRead 2 e.2.2 with
    | some (.context y) => some y.ctx.fn
    | _ => none
    else none
  { src := src.getD n, dst := n, srcQ := imgQuartos recs, dstQ := s.quartosOf n,
    nodes := s.nextNode, launches := s.nextLaunch, regions := keyTop s.mull }

/-- The image is taken over, and contexts run. -/
def State.applyImage (s : State) (n : Nat) : State :=
  let recs := (s.fn n).migr.recs
  let r := s.renOf n recs
  let s := recs.foldl (fun s e => s.applyRec r e.1 e.2.1 e.2.2) s
  let s := { s with nextNode := max s.nextNode (keyTop s.made), nextLaunch := max s.nextLaunch (keyTop s.launches) }
  (s.updFn n fun f => { f with migr := {} }).take_ n ((s.rotation n).headD 0)

/-! ### STATE's writes (R330, R331) -/

/-- A permitted write from state `st` of value `v`, or BADTRANS. -/
def State.migrStepTo (s : State) (i v st : Nat) (ok : Nat → Bool) (f : Nat → State) : State :=
  match s.migrWrite i with
  | none => s
  | some (n, w) =>
    if w ≠ v then s
    else if (s.fn n).migr.st = st ∧ ok n then (f n).okTxn i 8
    else (s.badTrans n).okTxn i 8

/-- A write of 0 that starts from this state. -/
def State.migrZero (s : State) (i st : Nat) (f : Nat → State) : State :=
  match s.migrWrite i with
  | none => s
  | some (n, v) => if v = 0 ∧ (s.fn n).migr.st = st then (f n).okTxn i 8 else s

def State.setMigr (s : State) (n : Nat) (m : Migr) : State := s.updFn n fun f => { f with migr := m }

/-- MIGRATE_PRECOPY: transaction arg.a writes 1. -/
def State.precopy (s : State) (i : Nat) : State :=
  s.migrStepTo i 1 0 (fun n => !s.faulted n) fun n => s.setMigr n { st := 1 }

def execMigratePrecopy (s : State) : Host.Outcome State Fault Refusal := event s fun s => s.precopy s.arg.a

/-- MIGRATE_CANCEL: transaction arg.a writes 0 in PRECOPY. -/
def State.migrCancel (s : State) (i : Nat) : State := s.migrZero i 1 fun n => s.setMigr n {}

def execMigrateCancel (s : State) : Host.Outcome State Fault Refusal := event s fun s => s.migrCancel s.arg.a

/-- R328 begins for the running context, or goes on for the migration. -/
def State.stopSlice (s : State) (n : Nat) : State :=
  if !(s.ctx (s.fn n).cur).live then s
  else match (s.fn n).phase with
    | .run => s.endSlice n 3
    | .ending _ saving saved ready => s.updFn n fun f => { f with phase := .ending 3 saving saved ready }

/-- MIGRATE_STOP: transaction arg.a writes 2. STOPPING lasts at most 100 µs. -/
def State.migrStop (s : State) (i : Nat) : State :=
  s.migrStepTo i 2 1 (fun _ => true) fun n =>
    (s.updFn n fun f => { f with migr := { f.migr with st := 2, stopAt := s.now + 300000 } }).stopSlice n

def execMigrateStop (s : State) : Host.Outcome State Fault Refusal := event s fun s => s.migrStop s.arg.a

/-- The function enters STOPPED: its tiles' state is saved with the running context. -/
def State.enterStopped (s : State) (n : Nat) : State :=
  let s := if (s.ctx (s.fn n).cur).live then ((((s.settleCtx (s.fn n).cur).countRan n).leave n).clearFired n).keepRestores n else s
  s.updFn n fun f => { f with phase := .run, migr := { f.migr with st := 3, stage := 0 } }

/-- Live windows of the function's contexts. -/
def State.liveWindows (s : State) (n : Nat) : Bool := s.groups.any fun g => g.2.windows.any fun w => s.ctxFn w.ctx == n

/-- Everything that STOPPING waits for has come about. -/
def State.stopDone (s : State) (n : Nat) : Bool :=
  !(s.threads.any fun e => e.2.stat != .free && s.ctxFn e.2.ctx == n)
    && (!(s.ctx (s.fn n).cur).live || (match (s.fn n).phase with
      | .run => false
      | .ending _ _ saved _ => (s.diesOf n).all saved.contains))
    && !(s.mull.any fun r => r.2.fn == n && r.2.outs.any fun o => o.2.valid)
    && !s.liveWindows n

/-- MIGRATE_STOPPED: function arg.a's stop completes. -/
def State.migrStopped (s : State) (n : Nat) : State :=
  if (s.fn n).migr.st = 2 ∧ s.stopDone n then s.enterStopped n else s

def execMigrateStopped (s : State) : Host.Outcome State Fault Refusal := event s fun s => s.migrStopped s.arg.a

/-- MIGRATE_STOP_TIMEOUT: 100 µs have passed: what still runs is killed, live windows are freed, and function
arg.a enters STOPPED. -/
def State.migrTimeout (s : State) (n : Nat) : State :=
  if (s.fn n).migr.st = 2 ∧ (s.fn n).migr.stopAt ≤ s.now then
    let s := s.force n ((s.threads.filter fun e => e.2.stat != .free && s.ctxFn e.2.ctx == n).map (·.1))
    ((s.freeWindows fun c => s.ctxFn c == n).mullSettle n).enterStopped n
  else s

def execMigrateStopTimeout (s : State) : Host.Outcome State Fault Refusal := event s fun s => s.migrTimeout s.arg.a

/-- MIGRATE_ABORT: transaction arg.a writes 0 in STOPPED; the context that was stopped resumes. -/
def State.migrAbort (s : State) (i : Nat) : State :=
  s.migrZero i 3 fun n => (s.setMigr n {}).take_ n (s.fn n).cur

def execMigrateAbort (s : State) : Host.Outcome State Fault Refusal := event s fun s => s.migrAbort s.arg.a

/-- MIGRATE_RESUMING: transaction arg.a writes 4, with no launch ever made. -/
def State.migrResuming (s : State) (i : Nat) : State :=
  s.migrStepTo i 4 0 (fun n => !(s.fn n).everLaunched) fun n => s.setMigr n { st := 4 }

def execMigrateResuming (s : State) : Host.Outcome State Fault Refusal := event s fun s => s.migrResuming s.arg.a

/-- MIGRATE_COMMIT: transaction arg.a writes 0 in RESUMING; the image is checked. -/
def State.migrCommit (s : State) (i : Nat) : State :=
  s.migrZero i 4 fun n =>
    let m := (s.fn n).migr
    if (m.recs.getLast?).map (·.1) = some 8 ∧ m.eaten = m.seen.length then s.applyImage n else s.migrError n erMALFORMED

def execMigrateCommit (s : State) : Host.Outcome State Fault Refusal := event s fun s => s.migrCommit s.arg.a

/-! ### The data window (R332) -/

/-- Transaction i as an access of /vf/n/migrate. -/
def State.windowTxn (s : State) (i op : Nat) : Option (Nat × Txn) :=
  let t := s.txn i
  match t.ctl with
  | some (.vfmigrate n) => if t.op = op ∧ t.res.isNone then some (n, t) else none
  | _ => none

/-- MIGRATE_WINDOW_ADVANCE: transaction arg.a writes k at 8: WPOS advances by k. -/
def State.windowAdvance (s : State) (i : Nat) : State :=
  match s.windowTxn i opWRITE with
  | none => s
  | some (n, t) =>
    if t.off ≠ 8 ∨ t.arg ≠ 8 ∨ t.host.isNone then s
    else
      let k := natOfBytes t.data
      let st := (s.fn n).migr.st
      let s := if st = 1 ∨ st = 3 then s.formAll n k else s
      let s := s.updFn n fun f =>
        let m := f.migr
        let passed := m.image.take k ++ (if st = 4 then List.replicate (min k (2 ^ 20) - m.image.length) (0 : Byte) else [])
        { f with migr := { m with
          wpos := (m.wpos + k) % 2 ^ 64
          image := m.image.drop k
          seen := if st = 4 then m.seen ++ passed else m.seen } }
      (s.consume n ((s.fn n).migr.seen.length / 16 + 1)).okTxn i 8

def execMigrateWindowAdvance (s : State) : Host.Outcome State Fault Refusal := event s fun s => s.windowAdvance s.arg.a

/-- MIGRATE_WINDOW_READ: transaction arg.a reads the window; where no image stands it reads zeros. Only the host may
(DESIGN CHOICE, log 203). -/
def State.windowRead (s : State) (i : Nat) : State :=
  match s.windowTxn i opREAD with
  | none => s
  | some (n, t) =>
    if t.off < windowAt then s
    else if t.host.isNone then s.failTxn i nsNO_RIGHTS
    else
      let off := t.off - windowAt
      let s := s.formAll n (off + t.arg)
      let bs := ((s.fn n).migr.image.drop off).take t.arg
      s.okTxn i t.arg (bs ++ List.replicate (t.arg - bs.length) 0)

def execMigrateWindowRead (s : State) : Host.Outcome State Fault Refusal := event s fun s => s.windowRead s.arg.a

/-- MIGRATE_WINDOW_WRITE: transaction arg.a, of the host, writes the window in RESUMING; any other write of it has no
rights (DESIGN CHOICE, log 203). -/
def State.windowWrite (s : State) (i : Nat) : State :=
  match s.windowTxn i opWRITE with
  | none => s
  | some (n, t) =>
    if t.off < windowAt then s
    else if t.host.isNone ∨ (s.fn n).migr.st ≠ 4 then s.failTxn i nsNO_RIGHTS
    else
      let off := t.off - windowAt
      (s.updFn n fun f =>
        let old := f.migr.image
        let low := old.take off ++ List.replicate (off - old.length) (0 : Byte)
        { f with migr := { f.migr with image := low ++ t.data ++ old.drop (off + t.data.length) } }).okTxn i t.arg

def execMigrateWindowWrite (s : State) : Host.Outcome State Fault Refusal := event s fun s => s.windowWrite s.arg.a

end Sys2Proof.Machine
end

