-- ==== Sys2Proof/Machine/Pointer.lean ====
section
/-! DEFINITION. Pointer instructions, class 0x3 (R131 to R134). -/

namespace Sys2Proof.Machine

/-- The pointer with another cursor. -/
def Ptr.withCursor (p : Ptr) (c : Nat) : Ptr := { p with raw := BitVec.ofNat 128 (setBits p.raw.toNat 0 64 c) }
/-- The pointer with other permissions. -/
def Ptr.withPerms (p : Ptr) (x : Nat) : Ptr := { p with raw := BitVec.ofNat 128 (setBits p.raw.toNat 96 8 x) }
/-- The pointer with other bounds. -/
def Ptr.withBounds (p : Ptr) (e bm tm : Nat) : Ptr :=
  { p with raw := BitVec.ofNat 128 (setBits p.raw.toNat 104 24 (tm + bm * 2 ^ 10 + e * 2 ^ 19)) }

def execPadd (h : Head) (d a : BReg) (b : GI) (s : State) : Host.Outcome State Fault Refusal :=
  run h s fun s => s.retB d ((s.t.rdB a).withCursor ((s.t.rdB a).cursor + (s.t.gi b).toNat))

def execPset (h : Head) (d a : BReg) (b : GI) (s : State) : Host.Outcome State Fault Refusal :=
  run h s fun s => s.retB d ((s.t.rdB a).withCursor (s.t.gi b).toNat)

/-- PGET's field, per SEL (R131). -/
def Ptr.sel (p : Ptr) (x : Nat) : Nat :=
  match x with
  | 0 => p.cursor
  | 1 => p.base
  | 2 => p.top
  | 3 => p.perms
  | _ => p.hidx + p.gen * 2 ^ 20

def execPget (h : Head) (sel : BitVec 3) (d : GReg) (a : BReg) (s : State) : Host.Outcome State Fault Refusal :=
  run h s fun s => s.retG d (w64 ((s.t.rdB a).sel sel.toNat))

/-- PNARROW's result or its trap (R132). -/
def narrow (p : Ptr) (bix len : Nat) : Except Trp Ptr :=
  if !p.tag then .error ⟨0x13, 0, bix⟩
  else if !hasAll p.perms rD then .error ⟨0x11, 0, rD⟩
  else if 2 ^ 64 < p.cursor + len then .error ⟨0x10, 0, len⟩
  else match encodeBounds p.cursor (p.cursor + len) with
    | none => .error ⟨0x10, 0, len⟩
    | some (e, bm, tm) =>
      if bm * 2 ^ e < p.base ∨ p.top < tm * 2 ^ e then .error ⟨0x10, 0, len⟩ else .ok (p.withBounds e bm tm)

def execPnarrow (h : Head) (d a : BReg) (b : GI) (s : State) : Host.Outcome State Fault Refusal :=
  run h s fun s => s.try_ (narrow (s.t.rdB a) a.toNat (s.t.gi b).toNat) fun p => s.retB d p

def execPperm (h : Head) (d a : BReg) (b : GI) (s : State) : Host.Outcome State Fault Refusal :=
  run h s fun s => s.retB d ((s.t.rdB a).withPerms ((s.t.rdB a).perms &&& bits (s.t.gi b).toNat 0 8))

/-- PCHK's answer (R133): 0, or the cause of the first failing check. -/
def State.pchk (s : State) (p : Ptr) (bix size need : Nat) : Nat :=
  let r := if p.pay ∧ p.tag then (s.payload p 0 size need).map fun _ => ()
           else (s.checkPtr s.t.ctx p bix 0 size need).map fun _ => ()
  match r with
  | .ok _ => 0
  | .error t => t.cause

def execPchk (h : Head) (d : GReg) (a : BReg) (b : GReg) (s : State) : Host.Outcome State Fault Refusal :=
  run h s fun s =>
    let w := (s.t.rdG b).toNat
    s.retG d (w64 (s.pchk (s.t.rdB a) a.toNat (bits w 8 40) (bits w 0 8)))

def execPsub (h : Head) (d : GReg) (a b : BReg) (s : State) : Host.Outcome State Fault Refusal :=
  run h s fun s =>
    let p := s.t.rdB a
    let q := s.t.rdB b
    if p.hidx = q.hidx ∧ p.gen = q.gen then s.retG d (w64 (p.cursor + 2 ^ 64 - q.cursor)) else s.trap 0x10 0 0

def execPmov (h : Head) (d a : BReg) (s : State) : Host.Outcome State Fault Refusal :=
  run h s fun s => s.retB d (s.t.rdB a)

def execPtag (h : Head) (d : GReg) (a : BReg) (s : State) : Host.Outcome State Fault Refusal :=
  run h s fun s => s.retG d (if (s.t.rdB a).tag then 1 else 0)

end Sys2Proof.Machine
end

