-- ==== Sys2Proof/Machine/Settle.lean ====
section
/-! DEFINITION. Eligibility of channel heads (R31, R32, R317) and what every step ends with. -/

namespace Sys2Proof.Machine

/-- Watchdogs that have run out kill their activations, parked ones included (R38, R112). -/
def State.watchdogs (s : State) : State :=
  (tkeep (fun _ t => t.stat != .free && decide (t.wdEnd ≤ s.now)) s.threads).foldl
    (fun s e => (s.updThread e.1 fun t => { t with tcause := w64 cWATCHDOG }).killReport e.1 cWATCHDOG 0 4) s

/-- `dt` cycles pass: join cells whose reading falls due are read (R317), and watchdogs run out. -/
def State.pass (s : State) (dt : Nat) : State :=
  let s := { s with now := s.now + dt, fresh := s.fresh + 1 }
  { s with chans := tmap {} s.reread s.chans }.watchdogs

/-- Cores in idle whose channel head wakes them leave it (R120), and every head is looked at (R32, R317). -/
def State.settle (s : State) : State := s.wakeAll.markSince

end Sys2Proof.Machine
end

