-- ==== Sys2Proof/Machine/VecMem.lean ====
section
/-! DEFINITION. Vector memory, class 0x8 (R163 to R165). -/

namespace Sys2Proof.Machine

/-- An access of one element: its number and its displacement from the pointer's cursor. -/
abbrev Elem := Nat × Int

/-! ### Which elements are active, and where (R164) -/

/-- VLD and VST: element i at disp + i × w, under the governing mask. -/
def unitElems (m : MWord) (w : Nat) (disp : Int) : List Elem :=
  (List.range (lanes w)).filterMap fun i => if act m i w then some (i, disp + i * w) else none

/-- VLDB: every active element at the one place. -/
def bcastElems (m : MWord) (w : Nat) (disp : Int) : List Elem :=
  (List.range (lanes w)).filterMap fun i => if act m i w then some (i, disp) else none

/-- VLDS and VSTS: the stride and COUNT of g[OB]. -/
def strideElems (x : Word) (w : Nat) (disp : Int) : List Elem :=
  (List.range (min (bits x.toNat 32 16) (lanes w))).map fun i => (i, disp + i * asInt (bits x.toNat 0 32) 32)

/-- VGATH and VSCAT: non-negative offsets. -/
def indexElems (v : VWord) (w : Nat) (disp : Int) : List Elem :=
  (List.range (lanes w)).filterMap fun i =>
    let x := asInt (el v i w) (8 * w)
    if x < 0 then none else some (i, disp + x)

/-! ### Checks -/

/-- Every check of a pointer operand: each element through the whole of stage 7, the lowest first (R113, R164). -/
def State.hitElems (s : State) (p : Ptr) (bix w need : Nat) (a : AccKind) : List Elem → Except Trp (List (Nat × Hit))
  | [] => .ok []
  | (i, x) :: r => match s.reach p bix x w need a w with
    | .error t => .error t
    | .ok h => match (if a = .load then s.raceCheck p h.node h.off w aRead else s.storeCheck p h.node h.off w aWrite) with
      | .error t => .error t
      | .ok _ => match s.hitElems p bix w need a r with
        | .error t => .error t
        | .ok l => .ok ((i, h) :: l)

/-- Elements of a slot at pad offset `slot`: those outside it take BOUNDS, and each is aligned (R164). -/
def State.slotElems (s : State) (slot bytes w : Nat) (store : Bool) : List Elem → Except Trp (List (Nat × Hit))
  | [] => .ok []
  | (i, x) :: r =>
    let n := padNode s.myPad
    let off := slot + x.toNat
    if bytes < x.toNat + w then .error ⟨0x10, slot + x.toNat, w⟩
    else match s.padHit off w w store with
      | .error t => .error t
      | .ok h => match s.raceCheck {} n off w (if store then aWrite else aRead) with
        | .error t => .error t
        | .ok _ => match s.slotElems slot bytes w store r with
          | .error t => .error t
          | .ok l => .ok ((i, h) :: l)

/-! ### Performing -/

/-- Reads every element. -/
def State.readElems (s : State) (w : Nat) : List (Nat × Hit) → List (Nat × Nat) × State
  | [] => ([], s)
  | (i, h) :: r =>
    let s := s.flushRange h.node h.off w
    let x := natOfBytes (s.peekPlaces h.places)
    let (l, s) := (s.note h.node h.off w aRead).readElems w r
    ((i, x) :: l, s)

/-- Writes every element, in ascending order. -/
def State.writeElems (s : State) (p : Ptr) (v : VWord) (w : Nat) : List (Nat × Hit) → State
  | [] => s
  | (i, h) :: r => (s.storeHit p h (bytesOfNat w (el v i w)) false false).writeElems p v w r

/-- The register after a load: the elements read, the old ones elsewhere. -/
def loadedV (old : VWord) (w : Nat) (l : List (Nat × Nat)) : VWord :=
  mkV w fun i => match l.find? fun e => e.1 == i with
    | some e => e.2
    | none => el old i w

/-- Elements of the payload that b1 names (R35). -/
def State.payloadElems (s : State) (p : Ptr) (w : Nat) : List Elem → Except Trp (List (Nat × Nat))
  | [] => .ok []
  | (i, x) :: r => match s.payload p x w rR with
    | .error t => .error t
    | .ok b =>
      if ((p.cursor : Int) + x) % w ≠ 0 then .error ⟨0x14, addrOf p (p.cursor + x), w⟩
      else match s.payloadElems p w r with
        | .error t => .error t
        | .ok l => .ok ((i, natOfBytes b) :: l)

/-- A load of elements through a pointer. -/
def State.vload (s : State) (b : BReg) (d : VReg) (w : Nat) (l : List Elem) : State :=
  let p := s.ptr b
  if p.pay && p.tag then
    s.try_ (s.payloadElems p w l) fun xs => s.retV d (loadedV (s.t.rdV d) w xs)
  else s.try_ (s.hitElems p b.toNat w rR .load l) fun hs =>
    let (xs, s) := s.readElems w hs
    s.retV d (loadedV (s.t.rdV d) w xs)

/-- A store of elements through a pointer. -/
def State.vstore (s : State) (b : BReg) (a : VReg) (w : Nat) (l : List Elem) : State :=
  let p := s.ptr b
  s.after p <|
  if p.pay && p.tag && !l.isEmpty then
    s.try_ (s.payload p ((l.headD (0, 0)).2) w rW) fun _ => s.next
  else s.try_ (s.hitElems p b.toNat w rW .store l) fun hs => (s.writeElems p (s.t.rdV a) w hs).next

/-! ### The instructions -/

def execVld (h : Head) (et : EType) (d : VReg) (a : MQ) (m : Option MReg) (s : State) : Host.Outcome State Fault Refusal :=
  run h s fun s =>
    let w := etSize et
    match a with
    | .mem o => s.vload o.b d w (unitElems (s.t.om m) w (dispOf o 256))
    | .que o =>
      let l := unitElems (s.t.om m) w 0
      s.try_ (s.slotAt o false 0 (!l.isEmpty)) fun slot =>
        let bytes := (s.desc s.myPad (s.t.rdQ o.q).desc).slotBytes
        s.try_ (s.slotElems slot bytes w false l) fun hs =>
        s.try_ (s.advCheck o (!l.isEmpty)) fun _ =>
          let (xs, s) := s.readElems w hs
          (s.adv o).retV d (loadedV (s.t.rdV d) w xs)

def execVst (h : Head) (et : EType) (d : MQ) (a : VReg) (m : Option MReg) (s : State) : Host.Outcome State Fault Refusal :=
  run h s fun s =>
    let w := etSize et
    match d with
    | .mem o => s.vstore o.b a w (unitElems (s.t.om m) w (dispOf o 256))
    | .que o =>
      let l := unitElems (s.t.om m) w 0
      s.try_ (s.slotAt o true 0 (!l.isEmpty)) fun slot =>
        let bytes := (s.desc s.myPad (s.t.rdQ o.q).desc).slotBytes
        s.try_ (s.slotElems slot bytes w true l) fun hs =>
        s.try_ (s.advCheck o (!l.isEmpty)) fun _ =>
          ((s.writeElems {} (s.t.rdV a) w hs).adv o).next

def execVlds (h : Head) (et : EType) (d : VReg) (a : MemOp) (b : GReg) (s : State) : Host.Outcome State Fault Refusal :=
  run h s fun s => s.vload a.b d (etSize et) (strideElems (s.t.rdG b) (etSize et) (dispOf a (etSize et)))

def execVsts (h : Head) (et : EType) (d : MemOp) (a : VReg) (b : GReg) (s : State) : Host.Outcome State Fault Refusal :=
  run h s fun s => s.vstore d.b a (etSize et) (strideElems (s.t.rdG b) (etSize et) (dispOf d (etSize et)))

def execVgath (h : Head) (et : EType) (d : VReg) (a : MemOp) (b : VReg) (s : State) : Host.Outcome State Fault Refusal :=
  run h s fun s => s.vload a.b d (etSize et) (indexElems (s.t.rdV b) (etSize et) (dispOf a (etSize et)))

def execVscat (h : Head) (et : EType) (d : MemOp) (a b : VReg) (s : State) : Host.Outcome State Fault Refusal :=
  run h s fun s => s.vstore d.b a (etSize et) (indexElems (s.t.rdV b) (etSize et) (dispOf d (etSize et)))

def execVldb (h : Head) (et : EType) (d : VReg) (a : MemOp) (m : Option MReg) (s : State) : Host.Outcome State Fault Refusal :=
  run h s fun s => s.vload a.b d (etSize et) (bcastElems (s.t.om m) (etSize et) (dispOf a (etSize et)))

end Sys2Proof.Machine
end

