-- ==== Sys2Proof/Machine/Dispatch.lean ====
section
/-! DEFINITION. One arm per row of the opcode table. -/

namespace Sys2Proof.Machine

def exec (i : Instr) (s : State) : Host.Outcome State Fault Refusal :=
  match i with
  | .nop h => Sys2Proof.Machine.execNop h s
  | .trap h imm => Sys2Proof.Machine.execTrap h imm s
  | .eret h => Sys2Proof.Machine.execEret h s
  | .crd h d a => Sys2Proof.Machine.execCrd h d a s
  | .cwr h d a => Sys2Proof.Machine.execCwr h d a s
  | .cset h d a => Sys2Proof.Machine.execCset h d a s
  | .cclr h d a => Sys2Proof.Machine.execCclr h d a s
  | .tstamp h d => Sys2Proof.Machine.execTstamp h d s
  | .brk h imm => Sys2Proof.Machine.execBrk h imm s
  | .tmark h a => Sys2Proof.Machine.execTmark h a s
  | .wdog h d => Sys2Proof.Machine.execWdog h d s
  | .halt h => Sys2Proof.Machine.execHalt h s
  | .pmint h d a b => Sys2Proof.Machine.execPmint h d a b s
  | .sresume h d a => Sys2Proof.Machine.execSresume h d a s
  | .sresumeSkip h d a => Sys2Proof.Machine.execSresumeSkip h d a s
  | .tkill h d a => Sys2Proof.Machine.execTkill h d a s
  | .icsync h a => Sys2Proof.Machine.execIcsync h a s
  | .br h imm => Sys2Proof.Machine.execBr h imm s
  | .bri h a => Sys2Proof.Machine.execBri h a s
  | .call h d imm => Sys2Proof.Machine.execCall h d imm s
  | .calli h d a => Sys2Proof.Machine.execCalli h d a s
  | .ret h a => Sys2Proof.Machine.execRet h a s
  | .endAct h => Sys2Proof.Machine.execEndAct h s
  | .endDone h a => Sys2Proof.Machine.execEndDone h a s
  | .loop h d imm => Sys2Proof.Machine.execLoop h d imm s
  | .add h et d a b => Sys2Proof.Machine.execAdd h et d a b s
  | .sub h et d a b => Sys2Proof.Machine.execSub h et d a b s
  | .mul h et d a b => Sys2Proof.Machine.execMul h et d a b s
  | .mulh h et d a b => Sys2Proof.Machine.execMulh h et d a b s
  | .mulhu h et d a b => Sys2Proof.Machine.execMulhu h et d a b s
  | .div h et d a b => Sys2Proof.Machine.execDiv h et d a b s
  | .divu h et d a b => Sys2Proof.Machine.execDivu h et d a b s
  | .rem h et d a b => Sys2Proof.Machine.execRem h et d a b s
  | .remu h et d a b => Sys2Proof.Machine.execRemu h et d a b s
  | .and h et d a b => Sys2Proof.Machine.execAnd h et d a b s
  | .or h et d a b => Sys2Proof.Machine.execOr h et d a b s
  | .xor h et d a b => Sys2Proof.Machine.execXor h et d a b s
  | .andn h et d a b => Sys2Proof.Machine.execAndn h et d a b s
  | .shl h et d a b => Sys2Proof.Machine.execShl h et d a b s
  | .shr h et d a b => Sys2Proof.Machine.execShr h et d a b s
  | .sra h et d a b => Sys2Proof.Machine.execSra h et d a b s
  | .rot h et d a b => Sys2Proof.Machine.execRot h et d a b s
  | .min h et d a b => Sys2Proof.Machine.execMin h et d a b s
  | .max h et d a b => Sys2Proof.Machine.execMax h et d a b s
  | .minu h et d a b => Sys2Proof.Machine.execMinu h et d a b s
  | .maxu h et d a b => Sys2Proof.Machine.execMaxu h et d a b s
  | .cmp h et cond d a b => Sys2Proof.Machine.execCmp h et cond d a b s
  | .sel h d a b => Sys2Proof.Machine.execSel h d a b s
  | .clz h et d a => Sys2Proof.Machine.execClz h et d a s
  | .ctz h et d a => Sys2Proof.Machine.execCtz h et d a s
  | .popc h et d a => Sys2Proof.Machine.execPopc h et d a s
  | .bfx h et d a b => Sys2Proof.Machine.execBfx h et d a b s
  | .bfi h et d a b => Sys2Proof.Machine.execBfi h et d a b s
  | .sext h et d a => Sys2Proof.Machine.execSext h et d a s
  | .zext h et d a => Sys2Proof.Machine.execZext h et d a s
  | .li h d imm => Sys2Proof.Machine.execLi h d imm s
  | .lih h d imm => Sys2Proof.Machine.execLih h d imm s
  | .mov h d a => Sys2Proof.Machine.execMov h d a s
  | .padd h d a b => Sys2Proof.Machine.execPadd h d a b s
  | .pset h d a b => Sys2Proof.Machine.execPset h d a b s
  | .pget h sel d a => Sys2Proof.Machine.execPget h sel d a s
  | .pnarrow h d a b => Sys2Proof.Machine.execPnarrow h d a b s
  | .pperm h d a b => Sys2Proof.Machine.execPperm h d a b s
  | .pchk h d a b => Sys2Proof.Machine.execPchk h d a b s
  | .psub h d a b => Sys2Proof.Machine.execPsub h d a b s
  | .pmov h d a => Sys2Proof.Machine.execPmov h d a s
  | .ptag h d a => Sys2Proof.Machine.execPtag h d a s
  | .ld h et od sc d a => Sys2Proof.Machine.execLd h et od sc d a s
  | .st h et od sc d a => Sys2Proof.Machine.execSt h et od sc d a s
  | .atom h et od sc op d a b => Sys2Proof.Machine.execAtom h et od sc op d a b s
  | .cas h et od sc d a b => Sys2Proof.Machine.execCas h et od sc d a b s
  | .fence h od sc => Sys2Proof.Machine.execFence h od sc s
  | .fflag h et sc d a => Sys2Proof.Machine.execFflag h et sc d a s
  | .pld h d a => Sys2Proof.Machine.execPld h d a s
  | .pst h d a => Sys2Proof.Machine.execPst h d a s
  | .pref h wr d => Sys2Proof.Machine.execPref h wr d s
  | .vadd h et sat d a m => Sys2Proof.Machine.execVadd h et sat d a m s
  | .vsub h et sat d a m => Sys2Proof.Machine.execVsub h et sat d a m s
  | .vmul h et d a m => Sys2Proof.Machine.execVmul h et d a m s
  | .vmulh h et d a m => Sys2Proof.Machine.execVmulh h et d a m s
  | .vmad h et d a b => Sys2Proof.Machine.execVmad h et d a b s
  | .vmin h et d a m => Sys2Proof.Machine.execVmin h et d a m s
  | .vmax h et d a m => Sys2Proof.Machine.execVmax h et d a m s
  | .vabs h et sat d a m => Sys2Proof.Machine.execVabs h et sat d a m s
  | .vneg h et sat d a m => Sys2Proof.Machine.execVneg h et sat d a m s
  | .vand h et d a m => Sys2Proof.Machine.execVand h et d a m s
  | .vor h et d a m => Sys2Proof.Machine.execVor h et d a m s
  | .vxor h et d a m => Sys2Proof.Machine.execVxor h et d a m s
  | .vnot h et d a m => Sys2Proof.Machine.execVnot h et d a m s
  | .vshl h et d a m => Sys2Proof.Machine.execVshl h et d a m s
  | .vshr h et d a m => Sys2Proof.Machine.execVshr h et d a m s
  | .vsra h et d a m => Sys2Proof.Machine.execVsra h et d a m s
  | .vcmp h et cond d a b => Sys2Proof.Machine.execVcmp h et cond d a b s
  | .vsel h et d a m => Sys2Proof.Machine.execVsel h et d a m s
  | .vmov h d a => Sys2Proof.Machine.execVmov h d a s
  | .vbcast h et d a b => Sys2Proof.Machine.execVbcast h et d a b s
  | .vextr h et d a b => Sys2Proof.Machine.execVextr h et d a b s
  | .vins h et d a b => Sys2Proof.Machine.execVins h et d a b s
  | .viota h et d a b => Sys2Proof.Machine.execViota h et d a b s
  | .lbc h et d a b => Sys2Proof.Machine.execLbc h et d a b s
  | .vwid h d => Sys2Proof.Machine.execVwid h d s
  | .kand h d a b => Sys2Proof.Machine.execKand h d a b s
  | .kor h d a b => Sys2Proof.Machine.execKor h d a b s
  | .knot h d a => Sys2Proof.Machine.execKnot h d a s
  | .kpopc h et d a => Sys2Proof.Machine.execKpopc h et d a s
  | .kfirst h et d a => Sys2Proof.Machine.execKfirst h et d a s
  | .vfadd h et rnd d a m => Sys2Proof.Machine.execVfadd h et rnd d a m s
  | .vfsub h et rnd d a m => Sys2Proof.Machine.execVfsub h et rnd d a m s
  | .vfmul h et rnd d a m => Sys2Proof.Machine.execVfmul h et rnd d a m s
  | .vfma h et rnd d a b => Sys2Proof.Machine.execVfma h et rnd d a b s
  | .vfms h et rnd d a b => Sys2Proof.Machine.execVfms h et rnd d a b s
  | .vfnma h et rnd d a b => Sys2Proof.Machine.execVfnma h et rnd d a b s
  | .vfmin h et d a m => Sys2Proof.Machine.execVfmin h et d a m s
  | .vfmax h et d a m => Sys2Proof.Machine.execVfmax h et d a m s
  | .vfabs h et d a m => Sys2Proof.Machine.execVfabs h et d a m s
  | .vfneg h et d a m => Sys2Proof.Machine.execVfneg h et d a m s
  | .vfcmp h et cond d a b => Sys2Proof.Machine.execVfcmp h et cond d a b s
  | .vred h et rnd op d a m => Sys2Proof.Machine.execVred h et rnd op d a m s
  | .vfclass h et d a m => Sys2Proof.Machine.execVfclass h et d a m s
  | .vcvt h et src rnd sat part d a m => Sys2Proof.Machine.execVcvt h et src rnd sat part d a m s
  | .vpack2 h et rnd sat d a b => Sys2Proof.Machine.execVpack2 h et rnd sat d a b s
  | .vpack4 h et rnd sat half d a => Sys2Proof.Machine.execVpack4 h et rnd sat half d a s
  | .vunpk h et part d a b => Sys2Proof.Machine.execVunpk h et part d a b s
  | .vperm h et d a b => Sys2Proof.Machine.execVperm h et d a b s
  | .vslide h et d a b => Sys2Proof.Machine.execVslide h et d a b s
  | .vzip h et hi d a b => Sys2Proof.Machine.execVzip h et hi d a b s
  | .vuzp h et hi d a b => Sys2Proof.Machine.execVuzp h et hi d a b s
  | .vexp2 h d a m => Sys2Proof.Machine.execVexp2 h d a m s
  | .vlog2 h d a m => Sys2Proof.Machine.execVlog2 h d a m s
  | .vrcp h rnd d a m => Sys2Proof.Machine.execVrcp h rnd d a m s
  | .vrsq h rnd d a m => Sys2Proof.Machine.execVrsq h rnd d a m s
  | .vsin h d a m => Sys2Proof.Machine.execVsin h d a m s
  | .vcos h d a m => Sys2Proof.Machine.execVcos h d a m s
  | .vtanh h d a m => Sys2Proof.Machine.execVtanh h d a m s
  | .vld h et d a m => Sys2Proof.Machine.execVld h et d a m s
  | .vst h et d a m => Sys2Proof.Machine.execVst h et d a m s
  | .vlds h et d a b => Sys2Proof.Machine.execVlds h et d a b s
  | .vsts h et d a b => Sys2Proof.Machine.execVsts h et d a b s
  | .vgath h et d a b => Sys2Proof.Machine.execVgath h et d a b s
  | .vscat h et d a b => Sys2Proof.Machine.execVscat h et d a b s
  | .vldb h et d a m => Sys2Proof.Machine.execVldb h et d a m s
  | .send h len noinh d a b => Sys2Proof.Machine.execSend h len noinh d a b s
  | .sendm h len noinh d a b => Sys2Proof.Machine.execSendm h len noinh d a b s
  | .post h d a b => Sys2Proof.Machine.execPost h d a b s
  | .join h d a => Sys2Proof.Machine.execJoin h d a s
  | .qadv h d => Sys2Proof.Machine.execQadv h d s
  | .qstat h d a => Sys2Proof.Machine.execQstat h d a s
  | .qbind h d a => Sys2Proof.Machine.execQbind h d a s
  | .qbindInit h d a b => Sys2Proof.Machine.execQbindInit h d a b s
  | .semv h d a b => Sys2Proof.Machine.execSemv h d a b s
  | .semq h d a b => Sys2Proof.Machine.execSemq h d a b s
  | .swset h keep bump d a b => Sys2Proof.Machine.execSwset h keep bump d a b s
  | .swread h hi d a => Sys2Proof.Machine.execSwread h hi d a s
  | .sclaim h d a => Sys2Proof.Machine.execSclaim h d a s
  | .srel h d a => Sys2Proof.Machine.execSrel h d a s
  | .sload h od sc d a b => Sys2Proof.Machine.execSload h od sc d a b s
  | .ssave h od sc d a b => Sys2Proof.Machine.execSsave h od sc d a b s
  | .mwld h et nib d => Sys2Proof.Machine.execMwld h et nib d s
  | .mgang h et nib d a => Sys2Proof.Machine.execMgang h et nib d a s
  | .mzero h d => Sys2Proof.Machine.execMzero h d s
  | .maccld h et d a => Sys2Proof.Machine.execMaccld h et d a s
  | .mdrain h et rnd od sc d a b => Sys2Proof.Machine.execMdrain h et rnd od sc d a b s
  | .mdrainRq h et rnd od sc d a b => Sys2Proof.Machine.execMdrainRq h et rnd od sc d a b s
  | .mstat h d a => Sys2Proof.Machine.execMstat h d a s
  | .mstatClr h d a => Sys2Proof.Machine.execMstatClr h d a s
  | .mtwid h d a => Sys2Proof.Machine.execMtwid h d a s
  | .mdrev h d a => Sys2Proof.Machine.execMdrev h d a s
  | .mbfly h scale d a b => Sys2Proof.Machine.execMbfly h scale d a b s
  | .mbexp h d a => Sys2Proof.Machine.execMbexp h d a s
  | .mbexpSet h d a b => Sys2Proof.Machine.execMbexpSet h d a b s
  | .mcmul h scale conj d a b => Sys2Proof.Machine.execMcmul h scale conj d a b s
  | .nwalk h d a b => Sys2Proof.Machine.execNwalk h d a b s
  | .nopen h d a => Sys2Proof.Machine.execNopen h d a s
  | .nclose h d a => Sys2Proof.Machine.execNclose h d a s
  | .nread h d a b => Sys2Proof.Machine.execNread h d a b s
  | .nwrite h d a b => Sys2Proof.Machine.execNwrite h d a b s
  | .nbind h d a b => Sys2Proof.Machine.execNbind h d a b s
  | .nunbind h d a b => Sys2Proof.Machine.execNunbind h d a b s
  | .nstat h d a => Sys2Proof.Machine.execNstat h d a s
  | .nrevoke h d a => Sys2Proof.Machine.execNrevoke h d a s
  | .ncreate h d a b => Sys2Proof.Machine.execNcreate h d a b s
  | .nremove h d a => Sys2Proof.Machine.execNremove h d a s
  | .rslot h d a b => Sys2Proof.Machine.execRslot h d a b s
  | .rfree h d a => Sys2Proof.Machine.execRfree h d a s
  | .rpush h od sc d a b => Sys2Proof.Machine.execRpush h od sc d a b s
  | .rstat h d a => Sys2Proof.Machine.execRstat h d a s
  | .mladd h mass rnd d a b => Sys2Proof.Machine.execMladd h mass rnd d a b s
  | .mlread h et rnd d a b => Sys2Proof.Machine.execMlread h et rnd d a b s
  | .mspread h d a b => Sys2Proof.Machine.execMspread h d a b s
  | .mlfence h => Sys2Proof.Machine.execMlfence h s
  | .mlcfgCreate h d a b => Sys2Proof.Machine.execMlcfgCreate h d a b s
  | .mlcfgCadence h d a b => Sys2Proof.Machine.execMlcfgCadence h d a b s
  | .mlcfgReset h d a b => Sys2Proof.Machine.execMlcfgReset h d a b s
  | .mlcfgDestroy h d a b => Sys2Proof.Machine.execMlcfgDestroy h d a b s
  | .illegalOpcode w => Sys2Proof.Machine.execIllegalOpcode w s
  | .recordArrival => Sys2Proof.Machine.execRecordArrival s
  | .headCheck => Sys2Proof.Machine.execHeadCheck s
  | .fire => Sys2Proof.Machine.execFire s
  | .watchdog => Sys2Proof.Machine.execWatchdog s
  | .parityError => Sys2Proof.Machine.execParityError s
  | .specialFunctionResult => Sys2Proof.Machine.execSpecialFunctionResult s
  | .launchServe => Sys2Proof.Machine.execLaunchServe s
  | .launchForward => Sys2Proof.Machine.execLaunchForward s
  | .patchComplete => Sys2Proof.Machine.execPatchComplete s
  | .doneWord => Sys2Proof.Machine.execDoneWord s
  | .doneqRetry => Sys2Proof.Machine.execDoneqRetry s
  | .doneDeadline => Sys2Proof.Machine.execDoneDeadline s
  | .dupdoneWord => Sys2Proof.Machine.execDupdoneWord s
  | .remoteAccess => Sys2Proof.Machine.execRemoteAccess s
  | .queueAppend => Sys2Proof.Machine.execQueueAppend s
  | .joinPerform => Sys2Proof.Machine.execJoinPerform s
  | .remoteSemv => Sys2Proof.Machine.execRemoteSemv s
  | .gangComplete => Sys2Proof.Machine.execGangComplete s
  | .gangStale => Sys2Proof.Machine.execGangStale s
  | .sheetMoveBeat => Sys2Proof.Machine.execSheetMoveBeat s
  | .drainBeat => Sys2Proof.Machine.execDrainBeat s
  | .butterflyComplete => Sys2Proof.Machine.execButterflyComplete s
  | .copyStart => Sys2Proof.Machine.execCopyStart s
  | .copyRefused => Sys2Proof.Machine.execCopyRefused s
  | .copyTtabWrite => Sys2Proof.Machine.execCopyTtabWrite s
  | .copyWindowWrite => Sys2Proof.Machine.execCopyWindowWrite s
  | .copyFaultResume => Sys2Proof.Machine.execCopyFaultResume s
  | .copyFaultAbort => Sys2Proof.Machine.execCopyFaultAbort s
  | .copyHeadCheck => Sys2Proof.Machine.execCopyHeadCheck s
  | .copyBeat => Sys2Proof.Machine.execCopyBeat s
  | .nameMove => Sys2Proof.Machine.execNameMove s
  | .nameResult => Sys2Proof.Machine.execNameResult s
  | .pageMap => Sys2Proof.Machine.execPageMap s
  | .pageUnmap => Sys2Proof.Machine.execPageUnmap s
  | .pageCompress => Sys2Proof.Machine.execPageCompress s
  | .pageExpand => Sys2Proof.Machine.execPageExpand s
  | .pageDemote => Sys2Proof.Machine.execPageDemote s
  | .pageMap2 => Sys2Proof.Machine.execPageMap2 s
  | .pageUnmap2 => Sys2Proof.Machine.execPageUnmap2 s
  | .pageMove => Sys2Proof.Machine.execPageMove s
  | .pageQuery => Sys2Proof.Machine.execPageQuery s
  | .pageAbort => Sys2Proof.Machine.execPageAbort s
  | .pageBadop => Sys2Proof.Machine.execPageBadop s
  | .pageCommandDone => Sys2Proof.Machine.execPageCommandDone s
  | .functionRecord => Sys2Proof.Machine.execFunctionRecord s
  | .l2Split => Sys2Proof.Machine.execL2Split s
  | .launchQueueConfig => Sys2Proof.Machine.execLaunchQueueConfig s
  | .contextCreate => Sys2Proof.Machine.execContextCreate s
  | .contextDestroy => Sys2Proof.Machine.execContextDestroy s
  | .contextHalves => Sys2Proof.Machine.execContextHalves s
  | .makeq => Sys2Proof.Machine.execMakeq s
  | .makepeer => Sys2Proof.Machine.execMakepeer s
  | .slotBind => Sys2Proof.Machine.execSlotBind s
  | .slotUnbind => Sys2Proof.Machine.execSlotUnbind s
  | .cxlWindowMap => Sys2Proof.Machine.execCxlWindowMap s
  | .containerLoad => Sys2Proof.Machine.execContainerLoad s
  | .loadComplete => Sys2Proof.Machine.execLoadComplete s
  | .controlWrite => Sys2Proof.Machine.execControlWrite s
  | .worldctlWrite => Sys2Proof.Machine.execWorldctlWrite s
  | .sliceYield => Sys2Proof.Machine.execSliceYield s
  | .sliceEnd => Sys2Proof.Machine.execSliceEnd s
  | .sliceIdle => Sys2Proof.Machine.execSliceIdle s
  | .saveRoutines => Sys2Proof.Machine.execSaveRoutines s
  | .contextSave => Sys2Proof.Machine.execContextSave s
  | .restoreRoutines => Sys2Proof.Machine.execRestoreRoutines s
  | .tickReady => Sys2Proof.Machine.execTickReady s
  | .tickDeadline => Sys2Proof.Machine.execTickDeadline s
  | .migratePrecopy => Sys2Proof.Machine.execMigratePrecopy s
  | .migrateCancel => Sys2Proof.Machine.execMigrateCancel s
  | .migrateStop => Sys2Proof.Machine.execMigrateStop s
  | .migrateStopped => Sys2Proof.Machine.execMigrateStopped s
  | .migrateStopTimeout => Sys2Proof.Machine.execMigrateStopTimeout s
  | .migrateAbort => Sys2Proof.Machine.execMigrateAbort s
  | .migrateResuming => Sys2Proof.Machine.execMigrateResuming s
  | .migrateCommit => Sys2Proof.Machine.execMigrateCommit s
  | .migrateWindowAdvance => Sys2Proof.Machine.execMigrateWindowAdvance s
  | .migrateWindowRead => Sys2Proof.Machine.execMigrateWindowRead s
  | .migrateWindowWrite => Sys2Proof.Machine.execMigrateWindowWrite s
  | .groupConfig => Sys2Proof.Machine.execGroupConfig s
  | .chunkArrival => Sys2Proof.Machine.execChunkArrival s
  | .slotEmit => Sys2Proof.Machine.execSlotEmit s
  | .slotTimeout => Sys2Proof.Machine.execSlotTimeout s
  | .slotMarkerExpiry => Sys2Proof.Machine.execSlotMarkerExpiry s
  | .resultDelivery => Sys2Proof.Machine.execResultDelivery s
  | .linkFlit => Sys2Proof.Machine.execLinkFlit s
  | .linkResend => Sys2Proof.Machine.execLinkResend s
  | .mullExchangeSend => Sys2Proof.Machine.execMullExchangeSend s
  | .mullExchangeApply => Sys2Proof.Machine.execMullExchangeApply s
  | .mullAck => Sys2Proof.Machine.execMullAck s
  | .traceSample => Sys2Proof.Machine.execTraceSample s
  | .traceStopRequest => Sys2Proof.Machine.execTraceStopRequest s
  | .stopComplete => Sys2Proof.Machine.execStopComplete s
  | .traceResume => Sys2Proof.Machine.execTraceResume s
  | .traceReplay => Sys2Proof.Machine.execTraceReplay s
  | .tokenVerify => Sys2Proof.Machine.execTokenVerify s
  | .verifyDone => Sys2Proof.Machine.execVerifyDone s
  | .delayClear => Sys2Proof.Machine.execDelayClear s
  | .freeze => Sys2Proof.Machine.execFreeze s
  | .freezeread => Sys2Proof.Machine.execFreezeread s
  | .tapBypass => Sys2Proof.Machine.execTapBypass s
  | .tapIdcode => Sys2Proof.Machine.execTapIdcode s
  | .tapSamplePreload => Sys2Proof.Machine.execTapSamplePreload s
  | .tapExtest => Sys2Proof.Machine.execTapExtest s
  | .forecastUpdate => Sys2Proof.Machine.execForecastUpdate s
  | .reqtailWrite => Sys2Proof.Machine.execReqtailWrite s
  | .hostRequestTake => Sys2Proof.Machine.execHostRequestTake s
  | .rspheadWrite => Sys2Proof.Machine.execRspheadWrite s
  | .cxlMemRead => Sys2Proof.Machine.execCxlMemRead s
  | .cxlMemWrite => Sys2Proof.Machine.execCxlMemWrite s
  | .mctpMessage => Sys2Proof.Machine.execMctpMessage s
  | .moduleReset => Sys2Proof.Machine.execModuleReset s
  | .bootStage => Sys2Proof.Machine.execBootStage s
  | .deviceError => Sys2Proof.Machine.execDeviceError s
  | .functionLevelReset => Sys2Proof.Machine.execFunctionLevelReset s
  | .correctableError => Sys2Proof.Machine.execCorrectableError s
  | .lifeCycleChange => Sys2Proof.Machine.execLifeCycleChange s

end Sys2Proof.Machine
end

