-- ==== Sys2Proof/Machine/Step.lean ====
section
/-! DEFINITION. One step of the module: time passes, then one thread issues one instruction or one of
the machine's own steps is taken. The agenda holds what the outside world and the arbiters decide. -/

namespace Sys2Proof.Machine

/-- The thread `cur` issues: fetch, then the encoding traps, then the instruction (R113). -/
def issue (s : State) : Host.Outcome State Fault Refusal :=
  if s.t.stat = .running then
    match s.fetch with
    | .error t => .next (s.trapE t)
    | .ok (w, s) =>
      match decodeAt s.priv w with
      | .error e => .next (s.trap e.cause 0 e.tinfo)
      | .ok i => exec i s
  else .next s

/-- What moves when the agenda is empty: boot's next stage while boot is not done, else the current
thread, else any step of the machine, as a free value says. -/
def idleChoice (s : State) : What :=
  if s.bootStage ≠ 5 ∧ s.bootStage ≠ 0x81 then .event .bootStage {}
  else if s.t.stat = .running then .issue (s.nextThread (s.cur / 8))
  else .event (machineSteps.getD (Config.freeStep s.fresh % machineSteps.length) .fire)
    { a := Config.freeArg (3 * s.fresh), b := Config.freeArg (3 * s.fresh + 1), c := Config.freeArg (3 * s.fresh + 2) }

/-- Cycles that pass before the core of thread k issues again: a core issues one instruction a cycle (R37). -/
def State.issueGap (s : State) (k dt : Nat) : Nat :=
  if dt = 0 ∧ (s.core (k / 8)).issuedAt = some s.now then 1 else dt

/-- Thread k issues after `dt` cycles: it is the first of its core's ready threads after the one that issued last
(R37). Which of the running threads have their operands, and so are ready, is timing, and the agenda's choice stands
for it: DESIGN CHOICE (log 184). -/
def State.toIssue (s : State) (k dt : Nat) : State :=
  let s := { s.pass (s.issueGap k dt) with cur := k }
  s.updCore (k / 8) fun c => { c with lastThread := k % 8, issuedAt := some s.now }

/-- Takes one slot of the agenda: under FREEZE_N only the test access port and a module reset act, and no
time passes (R342). -/
def act1 (a : AgSlot) (s : State) : Host.Outcome State Fault Refusal :=
  match a.what with
  | .issue k => if s.frozen then .next s else issue (s.toIssue k a.dt)
  | .event i arg =>
    if s.frozen then (if worksFrozen i then exec i { s with arg := arg } else .next s)
    else if isMachineStep i then exec i { s.pass a.dt with arg := arg }
    else .next (s.pass a.dt)
where
  worksFrozen : Instr → Bool
    | .freezeread | .tapBypass | .tapIdcode | .tapSamplePreload | .tapExtest | .moduleReset => true
    | _ => false

/-- One step. After it, every channel head's eligibility is looked at again (R32). -/
def step (s : State) : Host.Outcome State Fault Refusal :=
  let (a, s) := match s.agenda with
    | [] => (({ dt := 1, what := idleChoice s } : AgSlot), s)
    | a :: r => (a, { s with agenda := r })
  match act1 a s with
  | .next t => .next t.settle
  | .fault r => .fault r
  | .refused r => .refused r

/-! ### Placing one instruction where the machine fetches -/

/-- Physical core 2048 is the press core of tile 0 of die 0. -/
def probeCore : Nat := 2048

/-- `s` with the word as the one instruction of a code object of context 1, run by thread 0 of a press
core. It stands for launch, dispatch and firing. -/
def State.withFetchWord (s : State) (nbits w : Nat) : State :=
  let i := s.nextNode
  let bytes := bytesOfNat 12 (w % 2 ^ nbits % 2 ^ 96)
  let m : Made := { kind := kCode, grant := 5, size := 12, hashed := [(0, 0, 0)] }
  let h : HEntry := { state := 2, node := .made i, rights := 5, grant := 5, size := 12 }
  let s := { s with nextNode := i + 1, nextParty := s.nextParty + 1, made := tset {} s.made i m, cur := 8 * probeCore,
                    agenda := [{ dt := 0, what := .issue (8 * probeCore) }], frozen := false }
  let s := s.updFn 0 fun f => { f with recd := { f.recd with quartos := f.recd.quartos ||| 1 }, cur := 1 }
  let s := s.setCtx 1 { live := true, hlog := 10, htent := 1, slot := 1, handles := [(1, h)] }
  let s := s.poke 0 bytes
  s.setThread (8 * probeCore)
    { stat := .running, ctx := 1, lcore := probeCore, code := .made i, codeH := 1, wdEnd := s.now + 65536, party := s.nextParty - 1 }

end Sys2Proof.Machine
end

