-- ==== Sys2Proof/Safety.lean ====
section
/-! DEFINITION. What counts as a safe run, and the properties of states that the claims name. -/

namespace Sys2Proof.Machine

/-- `n` steps from `s` end in a state: no fault, no refusal. -/
def Runs (s : State) (n : Nat) : Prop := ∃ t, core.run n s = .next t

/-- No run from `s` stops. -/
def Safe (s : State) : Prop := ∀ n, Runs s n

/-- The cells of memory stand in the one canonical form. -/
def State.MemOk (s : State) : Prop := Memory.wf s.mem = true

/-- A channel's head is waiting for dispatch only where it is eligible (R32). -/
def State.AgingOk (s : State) : Prop :=
  ∀ ch, (s.chan ch).since.isSome = true → s.headReady ch = true

/-- The issuing thread runs and the guard lets the instruction act (R93). -/
def State.Acts (s : State) (h : Head) : Prop := s.t.stat = .running ∧ s.t.guard h = true

/-- The issuing thread runs, the guard lets the instruction act, and the core has the role. -/
def State.ActsAs (s : State) (h : Head) (role : Nat) : Prop := s.Acts h ∧ s.role = role

/-- What `o` answers is a next state with property `P`. -/
def Answers (o : Host.Outcome State Fault Refusal) (P : State → Prop) : Prop := ∃ t, o = .next t ∧ P t

/-! ### Integer operands as the ETYPE reads them (R128) -/

def State.rdI (s : State) (et : EType) (a : GReg) : Int := etInt et (bits (s.t.rdG a).toNat 0 (etWidth et))
def State.giI (s : State) (et : EType) (b : GI) : Int := etInt et (bits (s.t.gi b).toNat 0 (etWidth et))
/-- Ext(r, ETYPE) of an integer that wraps modulo 2^n. -/
def inEt (et : EType) (r : Int) : Word := extTo (toBits (etWidth et) r) et

/-! ### Results of transactions (R247) -/

/-- Transaction i has a result with this status. -/
def State.StatusIs (s : State) (i st : Nat) : Prop := ∃ r, (s.txn i).res = some r ∧ r.status = st
/-- Transaction i has the result OK with this value. -/
def State.ValueIs (s : State) (i v : Nat) : Prop := ∃ r, (s.txn i).res = some r ∧ r.status = 0 ∧ r.value = w64 v

/-! ### What an instruction changes -/

/-- Nothing but the issuing thread differs. -/
def State.OnlyThread (s t : State) : Prop := t = s.setT (t.thread s.cur)

/-- Every part that a scalar or vector register write leaves alone is as it was: all but memory-like
tables and the issuing thread. -/
def State.SameFabric (s t : State) : Prop :=
  t.net = s.net ∧ t.chans = s.chans ∧ t.ctxs = s.ctxs ∧ t.made = s.made ∧ t.names = s.names ∧ t.txns = s.txns
    ∧ t.cores = s.cores ∧ t.quartos = s.quartos ∧ t.port = s.port ∧ t.launches = s.launches ∧ t.groups = s.groups
    ∧ t.mull = s.mull ∧ t.copies = s.copies ∧ t.sems = s.sems ∧ t.sfu = s.sfu ∧ t.now = s.now ∧ t.agenda = s.agenda

/-- A byte that no place of the list covers reads the same in both states. -/
def SameOutside (s t : State) (l : List (Place × Nat)) : Prop :=
  ∀ a, (∀ e ∈ l, a < e.1.addr ∨ e.1.addr + e.2 ≤ a) → readByte t.mem a = readByte s.mem a

/-- The bytes stand at the places: at the one place of the list, or parted between two that do not overlap. -/
def Stored (t : State) (l : List (Place × Nat)) (bytes : List Byte) : Prop :=
  (∀ pl, l = [(pl, bytes.length)] → t.peek pl.addr bytes.length = bytes) ∧
  (∀ pl k pl' k', l = [(pl, k), (pl', k')] → k + k' = bytes.length →
    pl.addr + k ≤ pl'.addr ∨ pl'.addr + k' ≤ pl.addr →
    t.peek pl.addr k = bytes.take k ∧ t.peek pl'.addr k' = bytes.drop k)

/-- The bytes at the places, in order. -/
def Holds (t : State) (l : List (Place × Nat)) (bytes : List Byte) : Prop := t.peekPlaces l = bytes

/-! ### Parts of an instruction -/

/-- An own access of a descriptor that the activation holds slots of would race: the update that returns them at its
end (R51, R174). -/
def State.EndRaces (s : State) : Prop :=
  ∃ q ∈ s.t.held, (s.race s.me 3 (linesOf (padNode s.myPad) q.desc 32)).isSome = true

/-- The guard and hints of an instruction; none for a word that is no instruction and for a step of the
machine itself. -/
def headOfInstr : Instr → Option Head
  | .nop h | .trap h _ | .eret h | .crd h _ _ | .cwr h _ _ | .cset h _ _ | .cclr h _ _ | .tstamp h _ | .brk h _
  | .tmark h _ | .wdog h _ | .halt h | .pmint h _ _ _ | .sresume h _ _ | .sresumeSkip h _ _ | .tkill h _ _
  | .icsync h _ | .br h _ | .bri h _ | .call h _ _ | .calli h _ _ | .ret h _ | .endAct h | .endDone h _
  | .loop h _ _ | .add h _ _ _ _ | .sub h _ _ _ _ | .mul h _ _ _ _ | .mulh h _ _ _ _ | .mulhu h _ _ _ _
  | .div h _ _ _ _ | .divu h _ _ _ _ | .rem h _ _ _ _ | .remu h _ _ _ _ | .and h _ _ _ _ | .or h _ _ _ _
  | .xor h _ _ _ _ | .andn h _ _ _ _ | .shl h _ _ _ _ | .shr h _ _ _ _ | .sra h _ _ _ _ | .rot h _ _ _ _
  | .min h _ _ _ _ | .max h _ _ _ _ | .minu h _ _ _ _ | .maxu h _ _ _ _ | .cmp h _ _ _ _ _ | .sel h _ _ _
  | .clz h _ _ _ | .ctz h _ _ _ | .popc h _ _ _ | .bfx h _ _ _ _ | .bfi h _ _ _ _ | .sext h _ _ _
  | .zext h _ _ _ | .li h _ _ | .lih h _ _ | .mov h _ _ | .padd h _ _ _ | .pset h _ _ _ | .pget h _ _ _
  | .pnarrow h _ _ _ | .pperm h _ _ _ | .pchk h _ _ _ | .psub h _ _ _ | .pmov h _ _ | .ptag h _ _
  | .ld h _ _ _ _ _ | .st h _ _ _ _ _ | .atom h _ _ _ _ _ _ _ | .cas h _ _ _ _ _ _ | .fence h _ _
  | .fflag h _ _ _ _ | .pld h _ _ | .pst h _ _ | .pref h _ _ | .vadd h _ _ _ _ _ | .vsub h _ _ _ _ _
  | .vmul h _ _ _ _ | .vmulh h _ _ _ _ | .vmad h _ _ _ _ | .vmin h _ _ _ _ | .vmax h _ _ _ _
  | .vabs h _ _ _ _ _ | .vneg h _ _ _ _ _ | .vand h _ _ _ _ | .vor h _ _ _ _ | .vxor h _ _ _ _
  | .vnot h _ _ _ _ | .vshl h _ _ _ _ | .vshr h _ _ _ _ | .vsra h _ _ _ _ | .vcmp h _ _ _ _ _ | .vsel h _ _ _ _
  | .vmov h _ _ | .vbcast h _ _ _ _ | .vextr h _ _ _ _ | .vins h _ _ _ _ | .viota h _ _ _ _ | .lbc h _ _ _ _
  | .vwid h _ | .kand h _ _ _ | .kor h _ _ _ | .knot h _ _ | .kpopc h _ _ _ | .kfirst h _ _ _
  | .vfadd h _ _ _ _ _ | .vfsub h _ _ _ _ _ | .vfmul h _ _ _ _ _ | .vfma h _ _ _ _ _ | .vfms h _ _ _ _ _
  | .vfnma h _ _ _ _ _ | .vfmin h _ _ _ _ | .vfmax h _ _ _ _ | .vfabs h _ _ _ _ | .vfneg h _ _ _ _
  | .vfcmp h _ _ _ _ _ | .vred h _ _ _ _ _ _ | .vfclass h _ _ _ _ | .vcvt h _ _ _ _ _ _ _ _
  | .vpack2 h _ _ _ _ _ _ | .vpack4 h _ _ _ _ _ _ | .vunpk h _ _ _ _ _ | .vperm h _ _ _ _ | .vslide h _ _ _ _
  | .vzip h _ _ _ _ _ | .vuzp h _ _ _ _ _ | .vexp2 h _ _ _ | .vlog2 h _ _ _ | .vrcp h _ _ _ _ | .vrsq h _ _ _ _
  | .vsin h _ _ _ | .vcos h _ _ _ | .vtanh h _ _ _ | .vld h _ _ _ _ | .vst h _ _ _ _ | .vlds h _ _ _ _
  | .vsts h _ _ _ _ | .vgath h _ _ _ _ | .vscat h _ _ _ _ | .vldb h _ _ _ _ | .send h _ _ _ _ _
  | .sendm h _ _ _ _ _ | .post h _ _ _ | .join h _ _ | .qadv h _ | .qstat h _ _ | .qbind h _ _
  | .qbindInit h _ _ _ | .semv h _ _ _ | .semq h _ _ _ | .swset h _ _ _ _ _ | .swread h _ _ _ | .sclaim h _ _
  | .srel h _ _ | .sload h _ _ _ _ _ | .ssave h _ _ _ _ _ | .mwld h _ _ _ | .mgang h _ _ _ _ | .mzero h _
  | .maccld h _ _ _ | .mdrain h _ _ _ _ _ _ _ | .mdrainRq h _ _ _ _ _ _ _ | .mstat h _ _ | .mstatClr h _ _
  | .mtwid h _ _ | .mdrev h _ _ | .mbfly h _ _ _ _ | .mbexp h _ _ | .mbexpSet h _ _ _ | .mcmul h _ _ _ _ _
  | .nwalk h _ _ _ | .nopen h _ _ | .nclose h _ _ | .nread h _ _ _ | .nwrite h _ _ _ | .nbind h _ _ _
  | .nunbind h _ _ _ | .nstat h _ _ | .nrevoke h _ _ | .ncreate h _ _ _ | .nremove h _ _ | .rslot h _ _ _
  | .rfree h _ _ | .rpush h _ _ _ _ _ | .rstat h _ _ | .mladd h _ _ _ _ _ | .mlread h _ _ _ _ _
  | .mspread h _ _ _ | .mlfence h | .mlcfgCreate h _ _ _ | .mlcfgCadence h _ _ _ | .mlcfgReset h _ _ _
  | .mlcfgDestroy h _ _ _ => some h
  | .illegalOpcode _ | .recordArrival | .headCheck | .fire | .watchdog | .parityError | .specialFunctionResult
  | .launchServe | .launchForward | .patchComplete | .doneWord | .doneqRetry | .doneDeadline | .dupdoneWord
  | .remoteAccess | .queueAppend | .joinPerform | .remoteSemv | .gangComplete | .gangStale | .sheetMoveBeat
  | .drainBeat | .butterflyComplete | .copyStart | .copyRefused | .copyTtabWrite | .copyWindowWrite
  | .copyFaultResume | .copyFaultAbort | .copyHeadCheck | .copyBeat | .nameMove | .nameResult | .pageMap
  | .pageUnmap | .pageCompress | .pageExpand | .pageDemote | .pageMap2 | .pageUnmap2 | .pageMove | .pageQuery
  | .pageAbort | .pageBadop | .pageCommandDone | .functionRecord | .l2Split | .launchQueueConfig
  | .contextCreate | .contextDestroy | .contextHalves | .makeq | .makepeer | .slotBind | .slotUnbind
  | .cxlWindowMap | .containerLoad | .loadComplete | .controlWrite | .worldctlWrite | .sliceYield | .sliceEnd
  | .sliceIdle | .saveRoutines | .contextSave | .restoreRoutines | .tickReady | .tickDeadline | .migratePrecopy
  | .migrateCancel | .migrateStop | .migrateStopped | .migrateStopTimeout | .migrateAbort | .migrateResuming
  | .migrateCommit | .migrateWindowAdvance | .migrateWindowRead | .migrateWindowWrite | .groupConfig
  | .chunkArrival | .slotEmit | .slotTimeout | .slotMarkerExpiry | .resultDelivery | .linkFlit | .linkResend
  | .mullExchangeSend | .mullExchangeApply | .mullAck | .traceSample | .traceStopRequest | .stopComplete
  | .traceResume | .traceReplay | .tokenVerify | .verifyDone | .delayClear | .freeze | .freezeread | .tapBypass
  | .tapIdcode | .tapSamplePreload | .tapExtest | .forecastUpdate | .reqtailWrite | .hostRequestTake
  | .rspheadWrite | .cxlMemRead | .cxlMemWrite | .mctpMessage | .moduleReset | .bootStage | .deviceError
  | .functionLevelReset | .correctableError | .lifeCycleChange => none

/-- The control register that an instruction names (R117). -/
def crNamed : Instr → Option Nat
  | .crd _ _ a => some a.toNat
  | .cwr _ d _ | .cset _ d _ | .cclr _ d _ => some d.toNat
  | _ => none

/-! ### Vector results (R146, R147) -/

/-- The answer is a write of v[d] whose element i is `f i`. -/
def VecIs (s : State) (o : Host.Outcome State Fault Refusal) (d : VReg) (w : Nat) (f : Nat → Nat) : Prop :=
  ∃ v, o = .next (s.retV d v) ∧ ∀ i, i < lanes w → el v i w = f i

/-- The answer is a write of m[d] with the bits of element i all equal to `f i`. -/
def MaskIs (s : State) (o : Host.Outcome State Fault Refusal) (d : MReg) (w : Nat) (f : Nat → Bool) : Prop :=
  ∃ k, o = .next (s.retM d k) ∧ ∀ i j, i < lanes w → j < w → k.getLsbD (i * w + j) = f i

/-- The answer writes f's element to each active element of v[d], keeps the others, ORs the active elements'
flags into fpflags and moves on; nothing but the issuing thread changes. -/
def FpIs (s : State) (o : Host.Outcome State Fault Refusal) (d : VReg) (w : Nat) (m : MWord) (f : Nat → Nat × Fl) : Prop :=
  ∃ t, o = .next t ∧ s.OnlyThread t ∧
    (∀ i, i < lanes w → el (t.t.rdV d) i w = if act m i w then (f i).1 % 2 ^ (8 * w) else el (s.t.rdV d) i w) ∧
    (∀ k, k < 5 → t.t.fpflags.getLsbD k =
      (s.t.fpflags.getLsbD k || (List.range (lanes w)).any fun i => act m i w && (f i).2.toBits.getLsbD k)) ∧
    t.t.pc = s.t.pc + 12 ∧ t.t.g = s.t.g ∧ t.t.b = s.t.b ∧ t.t.m = s.t.m ∧ (∀ x, x ≠ d → t.t.rdV x = s.t.rdV x)

/-- An integer clamped to what the ETYPE can hold (R73). -/
def clampEt (et : EType) (r : Int) : Int :=
  if et.toNat % 2 = 0 then max (-(2 ^ (etWidth et - 1))) (min (2 ^ (etWidth et - 1) - 1) r)
  else max 0 (min (2 ^ etWidth et - 1) r)

end Sys2Proof.Machine
end

