-- ==== Sys2Proof/WellFormed.lean ====
section
/-! DEFINITION. Which instructions a word can hold: the limits that the entries set beyond the widths
of the fields (R92, R96, R99). -/

namespace Sys2Proof

/-- A synchronising ORDER with its SCOPE, or plain with SCOPE 000 (R96). -/
def okOrdScope (od : Ord3) (sc : Scope3) : Bool := scpSync od.toNat sc.toNat

/-- The encoding checks of R96 and R99 on a decoded instruction. A step of the machine itself has no
encoding and is always well formed. -/
def Instr.wf : Instr → Bool
  | .add _ et _ _ _ | .sub _ et _ _ _ | .mul _ et _ _ _ | .and _ et _ _ _ | .or _ et _ _ _
  | .xor _ et _ _ _ | .andn _ et _ _ _ | .shl _ et _ _ _ | .shr _ et _ _ _ | .rot _ et _ _ _
  | .bfx _ et _ _ _ | .bfi _ et _ _ _ => etInt et.toNat
  | .mulh _ et _ _ _ | .div _ et _ _ _ | .rem _ et _ _ _ | .sra _ et _ _ _ | .min _ et _ _ _
  | .max _ et _ _ _ => etSigned et.toNat
  | .mulhu _ et _ _ _ | .divu _ et _ _ _ | .remu _ et _ _ _ | .minu _ et _ _ _
  | .maxu _ et _ _ _ => etUnsigned et.toNat
  | .cmp _ et c _ _ _ => etInt et.toNat && lt7 6 c.toNat
  | .clz _ et _ _ | .ctz _ et _ _ | .popc _ et _ _ | .sext _ et _ _ | .zext _ et _ _ => etInt et.toNat
  | .pget _ k _ _ => lt7 5 k.toNat
  | .ld _ et od sc _ _ => etLd et.toNat && ordLdSt 1 ⟨et.toNat, 0, 0, 0, 0⟩ od.toNat && okOrdScope od sc
  | .st _ et od sc _ _ => etLd et.toNat && ordLdSt 2 ⟨et.toNat, 0, 0, 0, 0⟩ od.toNat && okOrdScope od sc
  | .atom _ et od sc op _ _ _ =>
      etAtom et.toNat && ordAll od.toNat && okOrdScope od sc && lt7 7 op.toNat
  | .cas _ et od sc _ _ _ => etAtom et.toNat && ordAll od.toNat && okOrdScope od sc
  | .fence _ od sc => od.toNat != 0 && ordAll od.toNat && scpAll sc.toNat
  | .fflag _ et sc _ _ => etAtom et.toNat && scpAll sc.toNat
  | .vadd _ et _ _ _ _ | .vsub _ et _ _ _ _ | .vmul _ et _ _ _ | .vmulh _ et _ _ _ | .vmad _ et _ _ _
  | .vmin _ et _ _ _ | .vmax _ et _ _ _ | .vand _ et _ _ _ | .vor _ et _ _ _ | .vxor _ et _ _ _
  | .vnot _ et _ _ _ | .vshl _ et _ _ _ | .vshr _ et _ _ _ | .vsra _ et _ _ _ | .viota _ et _ _ _
  | .lbc _ et _ _ _ | .kpopc _ et _ _ | .kfirst _ et _ _ => etInt et.toNat
  | .vabs _ et _ _ _ _ => etSigned et.toNat
  | .vneg _ et sat _ _ _ => etInt et.toNat && (!sat || etSigned et.toNat)
  | .vcmp _ et c _ _ _ => etInt et.toNat && lt7 6 c.toNat
  | .vsel _ et _ _ _ | .vbcast _ et _ _ _ | .vextr _ et _ _ _ | .vins _ et _ _ _ | .vperm _ et _ _ _
  | .vslide _ et _ _ _ | .vzip _ et _ _ _ _ | .vuzp _ et _ _ _ _ | .vld _ et _ _ _ | .vst _ et _ _ _
  | .vlds _ et _ _ _ | .vsts _ et _ _ _ | .vldb _ et _ _ _ => etLd et.toNat
  | .vfadd _ et r _ _ _ | .vfsub _ et r _ _ _ | .vfmul _ et r _ _ _ | .vfma _ et r _ _ _
  | .vfms _ et r _ _ _ | .vfnma _ et r _ _ _ => etFp et.toNat && rndAny r.toNat
  | .vfmin _ et _ _ _ | .vfmax _ et _ _ _ | .vfabs _ et _ _ _ | .vfneg _ et _ _ _ | .vfcmp _ et _ _ _ _
  | .vfclass _ et _ _ _ => etFp et.toNat
  | .vred _ et r op _ _ _ =>
      etFp et.toNat && lt7 3 op.toNat && (if op.toNat == 0 then rndAny r.toNat else r.toNat == 0)
  | .vcvt _ et src r sat part _ _ _ =>
      etLd et.toNat && rndAny r.toNat && vcvtOk ⟨et.toNat, 0, 0, 0, 8 * src.toNat + 4 * sat.toNat + part.toNat⟩
  | .vpack2 _ et r _ _ _ _ => etPack2 et.toNat && rndAny r.toNat
  | .vpack4 _ et r _ half _ a =>
      etPack4 et.toNat && rndAny r.toNat && (!half || et.toNat == 13) && a.toNat % 4 == 0
  | .vunpk _ et part _ _ b =>
      etUnpk et.toNat && vunpkOk ⟨et.toNat, 0, 0, 0, part.toNat⟩ && (b.isSome == (et.toNat == 14))
  | .vrcp _ r _ _ _ | .vrsq _ r _ _ _ => rndAny r.toNat
  | .vgath _ et _ _ _ | .vscat _ et _ _ _ => etGath et.toNat
  | .send _ len _ _ _ _ | .sendm _ len _ _ _ _ => lt7 61 len.toNat
  | .sload _ od sc _ _ _ => (od.toNat == 0 || od.toNat == 1) && okOrdScope od sc
  | .ssave _ od sc _ _ _ => (od.toNat == 0 || od.toNat == 2) && okOrdScope od sc
  | .mwld _ et nib _ | .mgang _ et nib _ _ => etMat et.toNat && nibOk et.toNat nib.toNat
  | .maccld _ et _ _ => etMaccld et.toNat
  | .mdrain _ et r od sc _ _ _ =>
      etDrain et.toNat && 4 ≤ et.toNat && rndDrain ⟨et.toNat, 0, 0, 0, 0⟩ r.toNat &&
        (od.toNat == 0 || od.toNat == 2) && okOrdScope od sc
  | .mdrainRq _ et r od sc _ _ _ =>
      et.toNat ≤ 4 && rndDrain ⟨et.toNat, 0, 0, 0, 0⟩ r.toNat &&
        (od.toNat == 0 || od.toNat == 2) && okOrdScope od sc
  | .mbfly _ sc _ _ _ => scaleOk sc.toNat
  | .mcmul _ sc _ _ _ _ => scaleOk sc.toNat
  | .rpush _ od sc _ _ _ => (od.toNat == 0 && sc.toNat == 0) || (od.toNat == 1 && sc.toNat == 3)
  | .mladd _ mass r _ _ _ => if mass then r.toNat == 0 else rndAny r.toNat
  | .mlread _ et r _ _ b =>
      etMlread et.toNat && (if et.toNat == 10 then rndAny r.toNat else r.toNat == 0) &&
        (b.isNone == (et.toNat == 7))
  | .illegalOpcode w => !(isFormatL (bits w.toNat 86 10)) && (rowOf (bits w.toNat 86 10)).isNone
  | _ => true

end Sys2Proof
end

