-- ==== Sys2Proof/Certificates/Slice0/Obligations.lean ====
section
/-! DEFINITION. The statements about this model. -/

open Sys2Proof Sys2Proof.Machine

/-! ### Reset, fetch, decoding and the step -/

/-- R37, R109, R322, R350: what reset leaves that the manual states: the trap and dispatch vectors, of every context
and every partition, hold 0xFFFF in their handler field (R109), padlimit is 32 (R322), no thread holds an activation
(R37), and nothing is listed in memory. The model's own readings in it: log 1, 4. -/
def Obligations.ResetValues : Prop :=
  State.reset.smvec = 0xFFFF00000000 ∧
  (∀ n, (State.reset.fn n).hvvec = 0xFFFF00000000 ∧ (State.reset.fn n).hdvec = 0xFFFF00000000 ∧
    (State.reset.fn n).padlimit = 32) ∧
  (∀ c, (State.reset.ctx c).tvec = 0xFFFF00000000 ∧ (State.reset.ctx c).dvec = 0xFFFF00000000) ∧
  State.reset.mem = [] ∧ (∀ a, readByte State.reset.mem a = unwritten) ∧
  (∀ k, (State.reset.thread k).stat = .free)

/-- R91 to R97, R135, R163: the words that the manual works out bit by bit decode to the instructions they
stand for, among them `BR` two instructions back (R92), `ATOM.i64.add.ar.die g4, [b3+16], g5`, `VLD.f32 v1,
[b2], m1`, `SEND.w4 g5, 7, b2` (R166), `MGANG.u8 g10, g11` (R200), `MBFLY.s1 2, 1, g9` (R220), `NWALK g4, b2`
(R250), `RPUSH b6, v3, g5` (R289) and `MLADD.f32.est [b3+64], v2, 64` (R304). -/
def Obligations.WorkedWordsDecode : Prop :=
  let z : Head := { gn := false, gm := 0, stall := 0, cache := 0, yld := false, ign := false }
  decodeWord 0x2028008003200137FFD60000 = .ok (.add { z with gn := true, gm := 2 } 6 3 4 (.i (-3))) ∧
  decodeWord 0x1000000000FFFFFFFFFFFFFE = .ok (.br z (-2)) ∧
  decodeWord 0x034000800720050000000000 = .ok (.sresume z 7 20) ∧
  decodeWord 0x40800080046008C800560D00 = .ok (.atom z 6 3 2 0 4 { b := 3, disp := 2 } (.g 5)) ∧
  decodeWord 0x404001802620014000070000 = .ok (.st z 7 0 0 (.mem { b := 6, disp := 2 }) (.g 5)) ∧
  decodeWord 0x60C0010002400048001A0000 = .ok (.vfma z 10 0 2 1 (.g 1)) ∧
  decodeWord 0x80000100016000A8001A0000 = .ok (.vld z 10 1 (.mem { b := 2, disp := 0 }) (some 1)) ∧
  decodeWord 0x9000008005C001D800200004 = .ok (.send z 4 false 5 (.i 7) (some 2)) ∧
  decodeWord 0x9040018007C0009800500005 = .ok (.sendm z 5 false 7 (.i 2) (some 5)) ∧
  decodeWord 0xA14000800A2002C000010000 = .ok (.mgang z 1 false 10 (.g 11)) ∧
  decodeWord 0xA20000800960010800610881 = .ok (.mdrainRq z 1 0 2 1 9 4 6) ∧
  decodeWord 0xB080030002C0004800900001 = .ok (.mbfly z 1 (.i 2) (.i 1) 9) ∧
  decodeWord 0xB00000800B20030000000000 = .ok (.mtwid z 11 12) ∧
  decodeWord 0xC00000800460008000000000 = .ok (.nwalk z 4 2 none) ∧
  decodeWord 0xD0800180064000C800500000 = .ok (.rpush z 0 0 6 3 5) ∧
  decodeWord 0xD1000180834000B0040A0000 = .ok (.mladd z false 0 { b := 3, disp := 8 } 2 (.i 64))

/-- R103, R113: a running thread that issues executes the instruction its fetched word decodes to, and the
channel heads are looked at again after it. -/
def Says.StepRunsDecoded : Prop :=
  ∀ (s : State) (k dt : Nat) (r : List AgSlot) (w : Nat) (s' : State) (i : Instr),
    s.agenda = { dt := dt, what := .issue k } :: r → s.frozen = false →
    (let u : State := ({ s with agenda := r } : State).toIssue k dt
     u.t.stat = .running ∧ u.fetch = .ok (w, s') ∧ decodeAt s'.priv w = .ok i) →
    step s = (match exec i s' with
      | .next t => .next t.settle
      | .fault x => .fault x
      | .refused x => .refused x)

/-- R103, R104, R108: where CODEH's entry is live with X, the fetch gives the 12 bytes at the pc: of the pinned
image, or of the object's places; a stale entry, a pc whose 12 bytes pass the object's end and an entry without X
trap. -/
def Says.FetchReadsCode : Prop :=
  ∀ (s : State) (i : Nat), s.t.code = .made i →
    let t := s.t
    let h := s.hent t.ctx t.codeH.toNat
    let at_ := t.codeH.toNat * 2 ^ 44 + t.pc % 2 ^ 44
    let hashed : Prop := ∀ p, p = t.pc / 65536 ∨ p = (t.pc + 11) / 65536 →
      (coreDie (s.cur / 8), t.codeGen, p) ∈ (s.madeN i).hashed ∧ p ∉ (s.madeN i).poisoned
    (s.hlook t.ctx t.codeH.toNat t.codeHGen = none →
      s.fetch = .error ⟨0x12, t.codeH.toNat * 2 ^ 44, h.gen⟩) ∧
    (s.hlook t.ctx t.codeH.toNat t.codeHGen = some h →
      ((s.madeN i).size < t.pc + 12 → s.fetch = .error ⟨0x10, at_, 12⟩) ∧
      (t.pc + 12 ≤ (s.madeN i).size →
        (h.rights.toNat / 4 % 2 = 0 → s.fetch = .error ⟨0x11, at_, 4⟩) ∧
        (h.rights.toNat / 4 % 2 = 1 → hashed →
          (∀ b, s.codeImage i t.codeGen = some b → s.fetch = .ok (natOfBytes ((b.drop t.pc).take 12), s)) ∧
          (∀ l, s.codeImage i t.codeGen = none → s.places t.ctx t.code false true (pieces t.pc 12) = .ok l →
            s.fetch = .ok (natOfBytes (s.peekPlaces l), s)))))

/-- A step of the machine that the agenda holds is taken with its argument, after its time has passed. The model's
own readings in it: log 10, 14. -/
def Says.StepTakesMachineStep : Prop :=
  ∀ (s : State) (i : Instr) (dt : Nat) (arg : Arg) (r : List AgSlot),
    s.agenda = { dt := dt, what := .event i arg } :: r → s.frozen = false → isMachineStep i = true →
    step s = (match exec i { ({ s with agenda := r } : State).pass dt with arg := arg } with
      | .next t => .next t.settle
      | .fault x => .fault x
      | .refused x => .refused x)

/-- R102, R113: a word that no instruction has traps when it is issued: cause, FIELD and VALUE as the encoding
check gives them. -/
def Says.EncodingTrapAtIssue : Prop :=
  ∀ (s s' : State) (w : Nat) (e : EncErr), s.t.stat = .running → s.fetch = .ok (w, s') →
    decodeAt s'.priv w = .error e → issue s = .next (s'.trap e.cause 0 (e.value * 65536 + e.field))

/-- R100: a word whose OPC is unassigned traps with ILLEGAL_OPCODE, FIELD 0 and VALUE 0, whatever its guard. -/
def Says.UnassignedWordTraps : Prop :=
  ∀ (w : BitVec 96) (s : State), s.t.stat = .running → exec (.illegalOpcode w) s = .next (s.trap 0x01 0 0)

/-- R91 to R99: every well-formed instruction's word decodes to it, with every operand at every value. -/
def Obligations.DecodeOfEncode : Prop :=
  ∀ (i : Instr) (w : Nat), i.wf = true → encode i = some w → decodeWord w = .ok i

/-- R91 to R99: a 96-bit word that decodes is the word that the encoder gives its instruction, so no bit of it
is dropped. -/
def Obligations.EncodeOfDecode : Prop :=
  ∀ (i : Instr) (w : Nat), w < 2 ^ 96 → decodeWord w = .ok i → i.wf = true ∧ encode i = some w

/-- Every step answers a next state: none of the table's rows is refused, and none stops. So does every instruction
of a running thread, and every step of the machine. -/
def Obligations.StepAlwaysGoesOn : Prop :=
  (∀ s : State, ∃ t, step s = .next t) ∧
  ∀ (i : Instr) (s : State), s.t.stat = .running ∨ isMachineStep i = true → ∃ t, exec i s = .next t

/-- Every step keeps memory in its canonical form. -/
def Obligations.StepKeepsMemory : Prop := ∀ s t : State, s.MemOk → step s = .next t → t.MemOk

/-- The reset state's memory is in the canonical form. -/
def Obligations.ResetMemory : Prop := State.reset.MemOk

/-- R32: after every step a channel's head ages only while it is eligible for dispatch. -/
def Obligations.StepKeepsAging : Prop := ∀ s t : State, step s = .next t → t.AgingOk

/-- R93: an instruction whose guard is false falls through to the next one and does nothing else. The index
check of a control-register instruction comes before the guard (R95). -/
def Obligations.FalseGuardFallsThrough : Prop :=
  ∀ (i : Instr) (h : Head) (s : State), headOfInstr i = some h → s.t.stat = .running → s.t.guard h = false →
    (∀ n, crNamed i = some n → crOk s.priv n = true) → exec i s = .next s.next

/-! ### Registers -/

/-- R106: a write of a g register changes that register alone and moves the pc by 12; g0 stays zero. -/
def Says.GWrite : Prop :=
  ∀ (s : State) (d : GReg) (v : Word),
    s.OnlyThread (s.retG d v) ∧ (s.retG d v).t.pc = s.t.pc + 12 ∧
    (d ≠ 0 → (s.retG d v).t.rdG d = v) ∧ (s.retG 0 v).t.rdG 0 = 0 ∧
    (∀ x, x ≠ d → (s.retG d v).t.rdG x = s.t.rdG x) ∧
    (s.retG d v).t = { s.t with g := (s.retG d v).t.g, pc := s.t.pc + 12 }

/-- R106: writes of b, v and m registers change that register alone and move the pc by 12; m0 stays all ones. -/
def Says.BVMWrite : Prop :=
  ∀ (s : State),
    (∀ d p, (s.retB d p).t.rdB d = p ∧ (∀ x, x ≠ d → (s.retB d p).t.rdB x = s.t.rdB x) ∧
      s.OnlyThread (s.retB d p) ∧ (s.retB d p).t = { s.t with b := (s.retB d p).t.b, pc := s.t.pc + 12 }) ∧
    (∀ d v, (s.retV d v).t.rdV d = v ∧ (∀ x, x ≠ d → (s.retV d v).t.rdV x = s.t.rdV x) ∧
      s.OnlyThread (s.retV d v) ∧ (s.retV d v).t = { s.t with v := (s.retV d v).t.v, pc := s.t.pc + 12 }) ∧
    (∀ d v, (d ≠ 0 → (s.retM d v).t.rdM d = v) ∧ (s.retM 0 v).t.rdM 0 = BitVec.allOnes 256 ∧
      (∀ x, x ≠ d → (s.retM d v).t.rdM x = s.t.rdM x) ∧
      s.OnlyThread (s.retM d v) ∧ (s.retM d v).t = { s.t with m := (s.retM d v).t.m, pc := s.t.pc + 12 })

/-! ### Groups of the statements above -/

/-- A step at a well-formed decoded instruction is `exec` of it, and a step that the agenda asks for is that step of
the machine (R103, R104, R108, R113). -/
def Obligations.MachineSteps : Prop := Says.StepRunsDecoded ∧ Says.FetchReadsCode ∧ Says.StepTakesMachineStep

/-- Words that are no instruction trap with ILLEGAL_OPCODE or ILLEGAL_OPERAND (R100, R102, R113). -/
def Obligations.UndecodedWords : Prop := Says.EncodingTrapAtIssue ∧ Says.UnassignedWordTraps

/-- What a write of a register does to each register file; g0 reads as zero and discards writes (R106). -/
def Obligations.RegisterWrites : Prop := Says.GWrite ∧ Says.BVMWrite

/-! ### Scalar integers (R127 to R130) -/

/-- R128: sums, differences, products and their high halves, exact on the operands as the ETYPE reads them and
wrapped into n bits; AND, OR, XOR and ANDN bitwise on the 64-bit values. -/
def Says.ScalarArithmetic : Prop :=
  ∀ (s : State) (h : Head) (et : EType) (d a : GReg) (b : GI), s.Acts h →
    let x := s.rdI et a
    let y := s.giI et b
    exec (.add h et d a b) s = .next (s.retG d (inEt et (x + y))) ∧
    exec (.sub h et d a b) s = .next (s.retG d (inEt et (x - y))) ∧
    exec (.mul h et d a b) s = .next (s.retG d (inEt et (x * y))) ∧
    (etSigned et.toNat = true → exec (.mulh h et d a b) s = .next (s.retG d (inEt et (x * y / 2 ^ etWidth et)))) ∧
    (etUnsigned et.toNat = true → exec (.mulhu h et d a b) s = .next (s.retG d (inEt et (x * y / 2 ^ etWidth et))))

/-- R128: AND, OR, XOR and ANDN work bit by bit on the truncated operands. -/
def Says.ScalarBitwise : Prop :=
  ∀ (s : State) (h : Head) (et : EType) (d a : GReg) (b : GI), s.Acts h → et.toNat < 8 →
    exec (.and h et d a b) s =
      .next (s.retG d (extTo (bits (s.t.rdG a &&& s.t.gi b).toNat 0 (etWidth et)) et)) ∧
    exec (.or h et d a b) s =
      .next (s.retG d (extTo (bits (s.t.rdG a ||| s.t.gi b).toNat 0 (etWidth et)) et)) ∧
    exec (.xor h et d a b) s =
      .next (s.retG d (extTo (bits (s.t.rdG a ^^^ s.t.gi b).toNat 0 (etWidth et)) et)) ∧
    exec (.andn h et d a b) s =
      .next (s.retG d (extTo (bits (s.t.rdG a &&& ~~~(s.t.gi b)).toNat 0 (etWidth et)) et))

/-- R129: division truncates toward zero and a remainder takes the sign of its dividend; dividing by zero gives
all ones and the dividend; the most negative number by −1 gives itself and 0. -/
def Says.ScalarDivision : Prop :=
  ∀ (s : State) (h : Head) (et : EType) (d a : GReg) (b : GI), s.Acts h →
    let x := s.rdI et a
    let y := s.giI et b
    (etSigned et.toNat = true →
      exec (.div h et d a b) s = .next (s.retG d (inEt et (if y = 0 then -1 else x.tdiv y))) ∧
      exec (.rem h et d a b) s = .next (s.retG d (inEt et (if y = 0 then x else x.tmod y)))) ∧
    (etUnsigned et.toNat = true →
      exec (.divu h et d a b) s = .next (s.retG d (inEt et (if y = 0 then -1 else x / y))) ∧
      exec (.remu h et d a b) s = .next (s.retG d (inEt et (if y = 0 then x else x % y))))

/-- R128: a shift or rotation counts b modulo the width; SRA keeps the sign. -/
def Says.ScalarShifts : Prop :=
  ∀ (s : State) (h : Head) (et : EType) (d a : GReg) (b : GI), s.Acts h → et.toNat < 8 →
    let n := etWidth et
    let x := bits (s.t.rdG a).toNat 0 n
    let k := (s.t.gi b).toNat % n
    exec (.shl h et d a b) s = .next (s.retG d (inEt et (x * 2 ^ k : Nat))) ∧
    exec (.shr h et d a b) s = .next (s.retG d (inEt et (x / 2 ^ k : Nat))) ∧
    (etSigned et.toNat = true → exec (.sra h et d a b) s = .next (s.retG d (inEt et (s.rdI et a / 2 ^ k)))) ∧
    exec (.rot h et d a b) s = .next (s.retG d (inEt et (x * 2 ^ k % 2 ^ n + x / 2 ^ (n - k) : Nat)))

/-- R128: MIN and MAX compare signed, MINU and MAXU unsigned; CMP writes 1 or 0 by its condition, signed where
the ETYPE is. -/
def Says.ScalarCompare : Prop :=
  ∀ (s : State) (h : Head) (et : EType) (d a : GReg) (b : GI), s.Acts h →
    let x := s.rdI et a
    let y := s.giI et b
    (etSigned et.toNat = true →
      exec (.min h et d a b) s = .next (s.retG d (inEt et (min x y))) ∧
      exec (.max h et d a b) s = .next (s.retG d (inEt et (max x y)))) ∧
    (etUnsigned et.toNat = true →
      exec (.minu h et d a b) s = .next (s.retG d (inEt et (min x y))) ∧
      exec (.maxu h et d a b) s = .next (s.retG d (inEt et (max x y)))) ∧
    exec (.cmp h et 0 d a b) s = .next (s.retG d (if x = y then 1 else 0)) ∧
    exec (.cmp h et 1 d a b) s = .next (s.retG d (if x ≠ y then 1 else 0)) ∧
    exec (.cmp h et 2 d a b) s = .next (s.retG d (if x < y then 1 else 0)) ∧
    exec (.cmp h et 3 d a b) s = .next (s.retG d (if x ≤ y then 1 else 0)) ∧
    exec (.cmp h et 4 d a b) s = .next (s.retG d (if x > y then 1 else 0)) ∧
    exec (.cmp h et 5 d a b) s = .next (s.retG d (if x ≥ y then 1 else 0))

/-- R128: CLZ and CTZ count the zeros above the highest and below the lowest set bit, n where there is none;
POPC counts set bits; SEXT and ZEXT extend the low n bits. -/
def Says.ScalarCounts : Prop :=
  ∀ (s : State) (h : Head) (et : EType) (d a : GReg), s.Acts h → et.toNat < 8 →
    let n := etWidth et
    let x := bits (s.t.rdG a).toNat 0 n
    (∃ z, exec (.clz h et d a) s = .next (s.retG d (w64 z)) ∧ z ≤ n ∧ x < 2 ^ (n - z) ∧ (z < n → 2 ^ (n - z - 1) ≤ x)) ∧
    (∃ z, exec (.ctz h et d a) s = .next (s.retG d (w64 z)) ∧ z ≤ n ∧ x % 2 ^ z = 0 ∧ (z < n → x / 2 ^ z % 2 = 1)) ∧
    exec (.popc h et d a) s =
      .next (s.retG d (w64 ((List.range n).countP fun k => (s.t.rdG a).getLsbD k))) ∧
    exec (.sext h et d a) s = .next (s.retG d (BitVec.ofInt 64 (asInt x n))) ∧
    exec (.zext h et d a) s = .next (s.retG d (w64 x))

/-- R92, R128: LI, LIH, MOV and SEL. -/
def Says.ScalarMoves : Prop :=
  ∀ (s : State) (h : Head) (d : GReg) (a b : GI), s.Acts h →
    (∀ v : Imm56, exec (.li h d v) s = .next (s.retG d (v.signExtend 64))) ∧
    (∀ v : BitVec 8, exec (.lih h d v) s =
      .next (s.retG d (BitVec.ofNat 64 (v.toNat * 2 ^ 56 + (s.t.rdG d).toNat % 2 ^ 56)))) ∧
    exec (.mov h d a) s = .next (s.retG d (s.t.gi a)) ∧
    exec (.sel h d a b) s = .next (s.retG d (if s.t.rdG d = 0 then s.t.gi b else s.t.gi a))

/-- R130: BFX takes LEN bits from POS, BFI puts them there; a field of length 0 or past the width traps with
ILLEGAL_OPERAND, FIELD 3, and the operand's kind as VALUE, which is the model's own reading: log 25. -/
def Says.BitFields : Prop :=
  ∀ (s : State) (h : Head) (et : EType) (d a : GReg) (b : GI) (pos len : Nat), s.Acts h → et.toNat < 8 →
    pos = (s.t.gi b).toNat % 64 → len = (s.t.gi b).toNat / 64 % 128 →
    let n := etWidth et
    let x := (s.t.rdG a).toNat % 2 ^ n
    let r := x / 2 ^ pos % 2 ^ len
    let old := (s.t.rdG d).toNat % 2 ^ n
    (0 < len ∧ pos + len ≤ n →
      exec (.bfx h et d a b) s = .next (s.retG d (if et.toNat % 2 = 0 then BitVec.ofInt 64 (asInt r len) else w64 r)) ∧
      exec (.bfi h et d a b) s = .next (s.retG d (extTo
        (old - old / 2 ^ pos % 2 ^ len * 2 ^ pos + (s.t.rdG a).toNat % 2 ^ len * 2 ^ pos) et))) ∧
    (len = 0 ∨ n < pos + len →
      exec (.bfx h et d a b) s = .next (s.trapOperand 3 (giKind b)) ∧
      exec (.bfi h et d a b) s = .next (s.trapOperand 3 (giKind b)))

/-! ### Pointers (R131 to R134) -/

/-- R131, R134: PADD, PSET, PMOV and PPERM copy the tag; PGET reads a field; PTAG the tag; PSUB the distance. -/
def Says.PointerMoves : Prop :=
  ∀ (s : State) (h : Head) (d a b : BReg) (x : GI), s.Acts h →
    let p := s.t.rdB a
    (∃ q, exec (.padd h d a x) s = .next (s.retB d q) ∧ q.tag = p.tag ∧
      q.cursor = (p.cursor + (s.t.gi x).toNat) % 2 ^ 64 ∧ q.raw.toNat / 2 ^ 64 = p.raw.toNat / 2 ^ 64) ∧
    (∃ q, exec (.pset h d a x) s = .next (s.retB d q) ∧ q.tag = p.tag ∧
      q.cursor = (s.t.gi x).toNat ∧ q.raw.toNat / 2 ^ 64 = p.raw.toNat / 2 ^ 64) ∧
    exec (.pmov h d a) s = .next (s.retB d p) ∧
    (∃ q, exec (.pperm h d a x) s = .next (s.retB d q) ∧ q.tag = p.tag ∧ q.cursor = p.cursor ∧
      q.perms = p.perms &&& (s.t.gi x).toNat % 256 ∧ q.base = p.base ∧ q.top = p.top ∧ q.hidx = p.hidx ∧ q.gen = p.gen) ∧
    (∀ g, exec (.ptag h g a) s = .next (s.retG g (if p.tag then 1 else 0))) ∧
    (∀ g, exec (.pget h 0 g a) s = .next (s.retG g (w64 p.cursor)) ∧
      exec (.pget h 1 g a) s = .next (s.retG g (w64 (p.bm * 2 ^ p.e))) ∧
      exec (.pget h 2 g a) s = .next (s.retG g (w64 (p.tm * 2 ^ p.e))) ∧
      exec (.pget h 3 g a) s = .next (s.retG g (w64 p.perms)) ∧
      exec (.pget h 4 g a) s = .next (s.retG g (w64 (p.hidx + p.gen * 2 ^ 20)))) ∧
    (∀ g, p.hidx = (s.t.rdB b).hidx → p.gen = (s.t.rdB b).gen →
      exec (.psub h g a b) s = .next (s.retG g (w64 p.cursor - w64 (s.t.rdB b).cursor))) ∧
    (∀ g, p.hidx ≠ (s.t.rdB b).hidx ∨ p.gen ≠ (s.t.rdB b).gen →
      exec (.psub h g a b) s = .next (s.trap 0x10 0 0))

/-- R132: PNARROW keeps the tag, the cursor, the permissions and the handle, and its bounds cover
[CURSOR, CURSOR + len) inside the old ones; without the tag or D it traps, and with BOUNDS where no such bounds are. -/
def Says.PointerNarrow : Prop :=
  ∀ (s : State) (h : Head) (d a : BReg) (x : GI) (e bm tm : Nat), s.Acts h →
    let p := s.t.rdB a
    let len := (s.t.gi x).toNat
    (p.tag = false → exec (.pnarrow h d a x) s = .next (s.trap 0x13 0 a.toNat)) ∧
    (p.tag = true → p.perms / 16 % 2 = 0 → exec (.pnarrow h d a x) s = .next (s.trap 0x11 0 16)) ∧
    (p.tag = true → p.perms / 16 % 2 = 1 → 2 ^ 64 < p.cursor + len ∨ encodeBounds p.cursor (p.cursor + len) = none →
      exec (.pnarrow h d a x) s = .next (s.trap 0x10 0 len)) ∧
    (p.tag = true → p.perms / 16 % 2 = 1 → encodeBounds p.cursor (p.cursor + len) = some (e, bm, tm) →
      bm * 2 ^ e < p.base ∨ p.top < tm * 2 ^ e → exec (.pnarrow h d a x) s = .next (s.trap 0x10 0 len)) ∧
    (p.tag = true → p.perms / 16 % 2 = 1 → p.cursor + len ≤ 2 ^ 64 →
      encodeBounds p.cursor (p.cursor + len) = some (e, bm, tm) → p.base ≤ bm * 2 ^ e → tm * 2 ^ e ≤ p.top →
      ∃ q, exec (.pnarrow h d a x) s = .next (s.retB d q) ∧ q.tag = true ∧ q.cursor = p.cursor ∧ q.perms = p.perms ∧
        q.hidx = p.hidx ∧ q.gen = p.gen ∧ q.base = bm * 2 ^ e ∧ q.top = tm * 2 ^ e ∧
        q.base ≤ p.cursor ∧ p.cursor + len ≤ q.top)

/-- R133: PCHK writes 0 where every check of R108 passes, else the cause of the first that fails. -/
def Says.PointerCheck : Prop :=
  ∀ (s : State) (h : Head) (g b : GReg) (a : BReg), s.Acts h → (s.t.rdB a).pay = false →
    let size := (s.t.rdG b).toNat / 2 ^ 8 % 2 ^ 40
    let need := (s.t.rdG b).toNat % 2 ^ 8
    exec (.pchk h g a b) s = .next (s.retG g (w64 (match s.checkPtr s.t.ctx (s.t.rdB a) a.toNat 0 size need with
      | .ok _ => 0
      | .error t => t.cause)))

/-! ### Control flow (R124 to R126) -/

/-- R104, R125: where BR, BRI, CALL, CALLI, RET and LOOP go; a register target that is no multiple of 12 traps
with ALIGN. -/
def Says.Branches : Prop :=
  ∀ (s : State) (h : Head) (d a : GReg) (imm : Imm56), s.Acts h →
    let goTo (t : Thread) (x : Nat) : State := s.setT { t with pc := x }
    let rel : Nat := (((s.t.pc : Int) + 12 * imm.toInt) % 2 ^ 64).toNat
    let x := (s.t.rdG a).toNat
    exec (.br h imm) s = .next (goTo s.t rel) ∧
    exec (.call h d imm) s = .next (goTo (s.t.wrG d (w64 (s.t.pc + 12))) rel) ∧
    (x % 12 = 0 →
      exec (.bri h a) s = .next (goTo s.t x) ∧ exec (.ret h a) s = .next (goTo s.t x) ∧
      exec (.calli h d a) s = .next (goTo (s.t.wrG d (w64 (s.t.pc + 12))) x)) ∧
    (x % 12 ≠ 0 →
      exec (.bri h a) s = .next (s.trap 0x14 0 12) ∧ exec (.ret h a) s = .next (s.trap 0x14 0 12) ∧
      exec (.calli h d a) s = .next (s.trap 0x14 0 12)) ∧
    exec (.loop h 0 imm) s = .next (goTo s.t (s.t.pc + 12)) ∧
    (d ≠ 0 → s.t.rdG d = 1 → exec (.loop h d imm) s = .next (goTo (s.t.wrG d 0) (s.t.pc + 12))) ∧
    (d ≠ 0 → s.t.rdG d ≠ 1 → exec (.loop h d imm) s = .next (goTo (s.t.wrG d (s.t.rdG d - 1)) rel))

/-- R36, R41, R51, R126, R174: END and END.done free the thread, or trap with RACE where the return of the slots that
the activation holds would meet an unordered plain access of a descriptor; the counts that it holds go back to 0. END
adds no contribution to a done tree, and neither does END.done on a core that is no participant of its launch, or with
no launch. END.done first performs its activation's posted writes. On a participant, its first execution contributes
the word that R126 forms from g[OD], or from zero: it is combined with what the core's node holds, and goes to the
parent, or becomes the root's final word, when all the node awaits have come. A later execution sends the root a word
with bit 12 alone, and contributes nothing. The model's own readings in it: log 22 (the tree is over logical words),
171 (a root whose final word waits is closed), 227 (the trap). -/
def Says.EndFreesThread : Prop :=
  ∀ (s : State) (h : Head) (a : Option GReg), s.Acts h →
    let u := s.flushMine
    let core := u.cur / 8
    let freed (v t : State) : Prop := t.thread v.cur = {} ∧ (∀ k, k ≠ v.cur → t.thread k = v.thread k)
    let nothing (v t : State) : Prop := freed v t ∧ t.launches = v.launches ∧ t.doneMsgs = v.doneMsgs
    (s.EndRaces → ∃ l x, exec (.endAct h) s = .next (s.trapE (raceTrap {} (padNode s.myPad) l x)) ∧
      exec (.endDone h a) s = .next (s.trapE (raceTrap {} (padNode s.myPad) l x))) ∧
    (¬ s.EndRaces →
    Answers (exec (.endAct h) s) (fun t => nothing s t ∧ (s.traces = [] → ∀ q ∈ s.t.held,
      (if q.prod then (t.desc s.myPad q.desc).pheld else (t.desc s.myPad q.desc).cheld) = 0)) ∧
    (s.posted = [] → s.joins = [] → s.semvs = [] → u = s) ∧
    (u.t.launch = none → Answers (exec (.endDone h a) s) (nothing u)) ∧
    (∀ i, u.t.launch = some i →
      let l := u.launch i
      ((∀ c ∈ l.cores, c.1 ≠ core) → Answers (exec (.endDone h a) s) (nothing u)) ∧
      (∀ w, l.cores.find? (fun c => c.1 == core) = some (core, w) →
        let g := match a with
          | some r => (s.t.rdG r).toNat
          | none => 0
        let err := g / 2 ^ 16 % 2 ^ 16
        let own : Word := w64 (g % 2 ^ 12 + (tget 0 l.history core).toNat * 2 ^ 12 + err * 2 ^ 16 +
          (if err = 0 then 0 else u.t.lcore * 2 ^ 32) + 2 ^ 48)
        let ws := l.cores.map (·.2)
        let had := tget ((0 : Word), 0) l.words w
        let want := (ws.countP fun x => doneParent l.root ws x == some w) + 1
        (core ∈ l.contributed → Answers (exec (.endDone h a) s) (fun t => freed u t ∧ t.launches = u.launches ∧
          ∃ m, t.doneMsgs = u.doneMsgs ++ [m] ∧ m.launch = i ∧ m.dst = l.root ∧ m.dup = true ∧ m.word = w64 (2 ^ 12))) ∧
        (core ∉ l.contributed → ¬(w = l.root ∧ l.closed = true) → Answers (exec (.endDone h a) s) (fun t => freed u t ∧
          core ∈ (t.launch i).contributed ∧
          tget ((0 : Word), 0) (t.launch i).words w = (combineDone had.1 own, had.2 + 1) ∧
          (had.2 + 1 < want → t.doneMsgs = u.doneMsgs) ∧
          (∀ p, want ≤ had.2 + 1 → doneParent l.root ws w = some p → ∃ m, t.doneMsgs = u.doneMsgs ++ [m] ∧
            m.launch = i ∧ m.src = w ∧ m.dst = p ∧ m.dup = false ∧ m.word = combineDone had.1 own) ∧
          (want ≤ had.2 + 1 → doneParent l.root ws w = none → (t.launch i).closed = true))))))

/-! ### Groups of the statements above -/

/-- The scalar integer and logic instructions (R128, R129). -/
def Obligations.IntegerArithmetic : Prop := Says.ScalarArithmetic ∧ Says.ScalarBitwise ∧ Says.ScalarDivision

/-- Shifts, rotates, comparisons and counts (R128). -/
def Obligations.ShiftsAndComparisons : Prop := Says.ScalarShifts ∧ Says.ScalarCompare ∧ Says.ScalarCounts

/-- Moves, literals and bit fields (R92, R128, R130). -/
def Obligations.MovesAndFields : Prop := Says.ScalarMoves ∧ Says.BitFields

/-- The pointer instructions (R108, R131 to R134). -/
def Obligations.PointerOperations : Prop := Says.PointerMoves ∧ Says.PointerNarrow ∧ Says.PointerCheck

/-- Branches, calls, loops, and the end of an activation with the contribution to its launch that END.done makes and
END does not (R36, R41, R104, R125, R126). -/
def Obligations.ControlFlow : Prop := Says.Branches ∧ Says.EndFreesThread

/-! ### Traps and system instructions (R109 to R123) -/

/-- Causes that are taken as R111's vector entry or park at their level: all but a breakpoint, the kills of the
watchdog, of code integrity and of a slice's end, and a second-stage page fault. -/
def entryCause (c : Nat) : Prop := c ≠ 0x31 ∧ c ≠ 0x28 ∧ c ≠ 0x29 ∧ c ≠ 0x2A ∧ c ≠ 0x19

/-- R109, R111: above user level and with INVEC clear, a trap saves its cause, address, pc and information, sets
INVEC and goes on at the level's vector; the registers stay as they are. -/
def Says.TrapEntersVector : Prop :=
  ∀ (s : State) (c addr info : Nat), entryCause c → s.ctxPriv s.t.ctx ≠ 0 → s.t.invec = false →
    (s.trap c addr info).t = { s.t with
      tcause := w64 c, taddr := w64 addr, tepc := w64 s.t.pc, tinfo := w64 info, invec := true,
      pc := (s.vecOf s.t.ctx).toNat % 2 ^ 32 }

/-- R111: at user level a trap parks the thread with the core's next fault sequence number, keeps its pc and
registers, and posts a fault record to the handler that the governing supervisor's tvec names. -/
def Says.TrapParksUser : Prop :=
  ∀ (s : State) (c addr info g : Nat), entryCause c → s.ctxPriv s.t.ctx = 0 → (s.ctx s.t.ctx).govern = g →
    (s.ctx g).live = true → (s.ctx g).tvec.toNat / 2 ^ 32 % 2 ^ 16 ≠ 0xFFFF →
    let t := s.trap c addr info
    t.t = { s.t with
      tcause := w64 c, taddr := w64 addr, tepc := w64 s.t.pc, tinfo := w64 info,
      stat := .parked (s.core (s.cur / 8)).fseq false } ∧
    (t.core (s.cur / 8)).fseq = ((s.core (s.cur / 8)).fseq + 1) % 2 ^ 32 ∧
    ∃ r, t.net = s.net ++ [r] ∧ r.isMsg = true ∧ r.ctx = g ∧ r.hidx = (s.ctx g).tvec.toNat / 2 ^ 32 % 2 ^ 16 ∧
      r.core = svcOf (quartoOf (s.cur / 8)) ∧ r.payload.length = 64

/-- R111: a report at user level that no handler receives kills the activation, and so does a trap inside the vector
of a level above user. -/
def Says.TrapKills : Prop :=
  ∀ (s : State) (c addr info : Nat), entryCause c →
    (s.ctxPriv s.t.ctx = 0 →
      (s.ctx (s.ctx s.t.ctx).govern).live = false ∨ (s.ctx (s.ctx s.t.ctx).govern).tvec.toNat / 2 ^ 32 % 2 ^ 16 = 0xFFFF →
      (s.trap c addr info).t = {} ∧ (s.trap c addr info).net = s.net) ∧
    (s.ctxPriv s.t.ctx ≠ 0 → s.t.invec = true → (s.trap c addr info).t = {})

/-- R110, R118: TRAP takes cause 0x30 with the immediate as tinfo, and BRK records cause 0x31 and goes on at the
next instruction. -/
def Obligations.TrapAndBreak : Prop :=
  ∀ (s : State) (h : Head) (imm : Imm), s.Acts h →
    exec (.trap h imm) s = .next (s.trap 0x30 0 (imm.signExtend 64).toNat) ∧
    Answers (exec (.brk h imm) s) (fun t => t.t = { s.t with
      tcause := 0x31, taddr := 0, tepc := w64 s.t.pc, tinfo := imm.signExtend 64, pc := s.t.pc + 12 })

/-- R119: ERET with INVEC clears it and goes on at tepc; without, at the next instruction; below its level it
traps with PRIVILEGE. -/
def Obligations.EretReturns : Prop :=
  ∀ (s : State) (h : Head), s.Acts h →
    (s.priv ≠ 0 → s.t.invec = true →
      exec (.eret h) s = .next (s.setT { s.t with invec := false, pc := s.t.tepc.toNat })) ∧
    (s.priv ≠ 0 → s.t.invec = false → exec (.eret h) s = .next s.next) ∧
    (s.priv = 0 → exec (.eret h) s = .next (s.trap 0x04 0 2))

/-- R118, R20, R38: NOP does nothing, TSTAMP reads the 1 GHz timestamp, WDOG the cycles left, and TMARK only
offers a trace record. -/
def Obligations.ObservingInstructions : Prop :=
  ∀ (s : State) (h : Head) (d : GReg) (x : GI), s.Acts h →
    exec (.nop h) s = .next s.next ∧
    exec (.tstamp h d) s = .next (s.retG d (w64 (s.now / 3))) ∧
    exec (.wdog h d) s = .next (s.retG d (w64 (s.t.wdEnd - s.now))) ∧
    Answers (exec (.tmark h x) s) (fun t => t.t = s.t.step ∧ t.net = s.net ∧ t.ctxs = s.ctxs ∧
      t = (s.traceThread s.cur 1 s.t.pc (s.t.gi x).toNat).next)

/-- R109, R117: CRD reads the user registers at every level, the supervisor's from level 1, the hypervisor's from
level 2 and the monitor's from level 3 in the secure world; coreid shows the word, thread, level, world and INVEC;
an index above the level traps with PRIVILEGE. -/
def Says.ControlRegisterReads : Prop :=
  ∀ (s : State) (h : Head) (d : GReg), s.Acts h →
    exec (.crd h d 0x000) s = .next (s.retG d s.t.actinfo) ∧
    exec (.crd h d 0x001) s = .next (s.retG d s.t.actstart) ∧
    exec (.crd h d 0x002) s = .next (s.retG d (s.t.fpflags.zeroExtend 64)) ∧
    exec (.crd h d 0x003) s = .next (s.retG d (s.t.rmode.zeroExtend 64)) ∧
    exec (.crd h d 0x004) s = .next (s.retG d s.t.tcause) ∧
    exec (.crd h d 0x005) s = .next (s.retG d s.t.taddr) ∧
    exec (.crd h d 0x006) s = .next (s.retG d s.t.tepc) ∧
    exec (.crd h d 0x007) s = .next (s.retG d s.t.tinfo) ∧
    exec (.crd h d 0x00A) s = .next (s.retG d s.t.xferid) ∧
    (1 ≤ s.priv →
      exec (.crd h d 0x040) s = .next (s.retG d (s.ctx s.t.ctx).tvec) ∧
      exec (.crd h d 0x041) s = .next (s.retG d (s.ctx s.t.ctx).tscratch) ∧
      exec (.crd h d 0x042) s = .next (s.retG d (w64 s.t.ctx)) ∧
      exec (.crd h d 0x048) s = .next (s.retG d (s.ctx s.t.ctx).dvec)) ∧
    (2 ≤ s.priv →
      exec (.crd h d 0x100) s = .next (s.retG d (s.fn (s.ctxFn s.t.ctx)).hvvec) ∧
      exec (.crd h d 0x104) s = .next (s.retG d (s.fn (s.ctxFn s.t.ctx)).padlimit)) ∧
    exec (.crd h d 0x008) s = .next (s.retG d s.coreid) ∧
    exec (.crd h d 0x009) s = .next (s.retG d (w64 (s.t.wdEnd - s.now))) ∧
    (1 ≤ s.priv →
      exec (.crd h d 0x043) s = .next (s.retG d (s.ctx s.t.ctx).hbase) ∧
      exec (.crd h d 0x044) s = .next (s.retG d (s.ctx s.t.ctx).htsize) ∧
      exec (.crd h d 0x045) s = .next (s.retG d (s.ctx s.t.ctx).coretab) ∧
      exec (.crd h d 0x046) s = .next (s.retG d (s.ctx s.t.ctx).routetab) ∧
      exec (.crd h d 0x047) s = .next (s.retG d (s.slicectl (s.ctxFn s.t.ctx)))) ∧
    (2 ≤ s.priv →
      exec (.crd h d 0x101) s = .next (s.retG d (s.fn (s.ctxFn s.t.ctx)).s2base) ∧
      exec (.crd h d 0x102) s = .next (s.retG d (s.partmask (s.ctxFn s.t.ctx))) ∧
      exec (.crd h d 0x103) s = .next (s.retG d (s.fn (s.ctxFn s.t.ctx)).l2limit) ∧
      exec (.crd h d 0x105) s = .next (s.retG d (s.fn (s.ctxFn s.t.ctx)).hdvec) ∧
      exec (.crd h d 0x110) s = .next (s.retG d (s.fn (s.ctxFn s.t.ctx)).hbmcap) ∧
      exec (.crd h d 0x111) s = .next (s.retG d (s.fn (s.ctxFn s.t.ctx)).l2cap) ∧
      exec (.crd h d 0x112) s = .next (s.retG d (s.fn (s.ctxFn s.t.ctx)).linkcap) ∧
      exec (.crd h d 0x113) s = .next (s.retG d (s.fn (s.ctxFn s.t.ctx)).portcap) ∧
      exec (.crd h d 0x118) s = .next (s.retG d (tget 0 s.afr (coreDie (s.cur / 8)))) ∧
      exec (.crd h d 0x119) s = .next (s.retG d (tget 0 s.gatesNow (coreDie (s.cur / 8))))) ∧
    (3 ≤ s.priv → s.ctxWorld s.t.ctx = true →
      exec (.crd h d 0x1C0) s = .next (s.retG d s.smvec) ∧ exec (.crd h d 0x1C1) s = .next (s.retG d s.worldctl)) ∧
    (3 ≤ s.priv → s.ctxWorld s.t.ctx = false →
      exec (.crd h d 0x1C0) s = .next (s.trap 0x04 0 0x1C0) ∧ exec (.crd h d 0x1C1) s = .next (s.trap 0x04 0 0x1C1)) ∧
    (let i := s.coreid.toNat
     i % 2 ^ 12 = s.t.lcore % 2 ^ 12 ∧ i / 2 ^ 12 % 2 ^ 3 = s.cur % 8 ∧
      (s.priv < 4 → i / 2 ^ 20 = 0 ∧ i / 2 ^ 15 % 2 = 0 ∧ i / 2 ^ 16 % 2 ^ 2 = s.priv ∧
        i / 2 ^ 18 % 2 = (s.ctxWorld s.t.ctx).toNat ∧ i / 2 ^ 19 % 2 = s.t.invec.toNat)) ∧
    (∀ a : CReg, crLimit s.priv ≤ a.toNat → exec (.crd h d a) s = .next (s.trap 0x04 0 a.toNat))

/-- R95, R117: an index of the level that no register occupies traps with ILLEGAL_OPERAND, naming its field, whatever
the guard. -/
def Says.UnoccupiedRegisters : Prop :=
  ∀ (s : State) (h : Head) (d : GReg) (x : GI) (a : CReg), s.t.stat = .running →
    a.toNat < crLimit s.priv → crOccupied a.toNat = false →
    exec (.crd h d a) s = .next (s.trapOperand 2 0) ∧ exec (.cwr h a x) s = .next (s.trapOperand 1 0) ∧
    exec (.cset h a x) s = .next (s.trapOperand 1 0) ∧ exec (.cclr h a x) s = .next (s.trapOperand 1 0)

/-- R60, R109, R117, R316, R322, R323: at a register that the level may write, CWR replaces the value, CSET sets bits
and CCLR clears them; what a write leaves in each register is stated register by register: reserved bits keep their
values, a reserved code leaves rmode, the limits clamp, the caps fit beside the other partitions'. A read-only
register traps with ILLEGAL_OPERAND, VALUE 7, an index above the level with PRIVILEGE. The model's own readings in it:
log 185, 216 (taddr and tinfo are written whole). -/
def Says.ControlRegisterWrites : Prop :=
  ∀ (s : State) (h : Head) (x : GI) (a : CReg), s.Acts h →
    let v := s.t.gi x
    let i := a.toNat
    let all (t : State) : Prop := exec (.cwr h a x) s = .next t ∧ exec (.cset h a x) s = .next t ∧ exec (.cclr h a x) s = .next t
    let reach : Prop := i < crLimit s.priv ∧ crOccupied i = true ∧ (0x1C0 ≤ i → s.ctxWorld s.t.ctx = true)
    let ro : Prop := i ∈ [0x000, 0x001, 0x008, 0x009, 0x00A, 0x042, 0x102, 0x118, 0x119] ∨
      (s.priv = 0 ∧ 0x004 ≤ i ∧ i ≤ 0x007)
    (reach → ¬ ro → exec (.cwr h a x) s = .next (s.crWrite i v).next ∧
      exec (.cset h a x) s = .next (s.crWrite i (s.crRead i ||| v)).next ∧
      exec (.cclr h a x) s = .next (s.crWrite i (s.crRead i &&& ~~~v)).next) ∧
    (reach → ro → all (s.trapOperand 1 7)) ∧
    (crLimit s.priv ≤ i → all (s.trap 0x04 0 i)) ∧
    (i < crLimit s.priv → crOccupied i = true → 0x1C0 ≤ i → s.ctxWorld s.t.ctx = false → all (s.trap 0x04 0 i))

/-- R60, R109, R117, R316, R322, R323: what a write of a control register leaves in the state. -/
def Says.ControlRegisterValues : Prop :=
  ∀ (s : State) (v : Word),
    let n := s.ctxFn s.t.ctx
    let part (old : Word) (mask : Word) : Word := (old &&& ~~~mask) ||| (v &&& mask)
    let clamp (x lo hi : Nat) : Word := w64 (max lo (min x hi))
    let cap (get : Fn → Word) (total : Nat) : Word :=
      w64 (min (v.toNat % 2 ^ 20) (total - ((s.fns.filter fun e => e.1 != n).map fun e => (get e.2).toNat).sum))
    (v.toNat % 32 ≠ 0 ∨ v = 0 → s.crWrite 0x002 v = s.setT { s.t with fpflags := v.truncate 5 }) ∧
    s.crWrite 0x002 0x20 = s ∧
    (v.toNat % 8 < 5 → s.crWrite 0x003 v = s.setT { s.t with rmode := v.truncate 3 }) ∧
    (5 ≤ v.toNat % 8 → s.crWrite 0x003 v = s) ∧
    s.crWrite 0x004 v = s.setT { s.t with tcause := v } ∧ s.crWrite 0x005 v = s.setT { s.t with taddr := v } ∧
    s.crWrite 0x006 v = s.setT { s.t with tepc := v } ∧ s.crWrite 0x007 v = s.setT { s.t with tinfo := v } ∧
    s.crWrite 0x040 v = s.updCtx s.t.ctx (fun c => { c with tvec := part c.tvec 0x000FFFFFFFFFFFFF }) ∧
    s.crWrite 0x041 v = s.updCtx s.t.ctx (fun c => { c with tscratch := v }) ∧
    s.crWrite 0x043 v = s.updCtx s.t.ctx (fun c => { c with hbase := part c.hbase 0xFFFFF }) ∧
    s.crWrite 0x044 v = s.updCtx s.t.ctx (fun c => { c with htsize := part c.htsize 0xFFFF }) ∧
    s.crWrite 0x045 v = s.updCtx s.t.ctx (fun c => { c with coretab := part c.coretab 0xFFFFF }) ∧
    s.crWrite 0x046 v = s.updCtx s.t.ctx (fun c => { c with routetab := part c.routetab 0xFFFFF }) ∧
    (bitOn v.toNat 8 = false → s.crWrite 0x047 v = s) ∧
    (bitOn v.toNat 8 = true → s.crWrite 0x047 v = s.yieldSlice n s.t.ctx) ∧
    s.crWrite 0x048 v = s.updCtx s.t.ctx (fun c => { c with dvec := part c.dvec 0x000FFFFF00000000 }) ∧
    s.crWrite 0x100 v = s.updFn n (fun f => { f with hvvec := part f.hvvec 0x000FFFFFFFFFFFFF }) ∧
    s.crWrite 0x101 v = s.updFn n (fun f => { f with s2base := v }) ∧
    s.crWrite 0x103 v = s.updFn n (fun f => { f with l2limit := clamp (v.toNat % 32) 0 24 }) ∧
    s.crWrite 0x104 v = s.updFn n (fun f => { f with padlimit := clamp (v.toNat % 64) 16 32 }) ∧
    s.crWrite 0x105 v = s.updFn n (fun f => { f with hdvec := part f.hdvec 0x000FFFFF00000000 }) ∧
    s.crWrite 0x110 v = s.updFn n (fun f => { f with hbmcap := cap (·.hbmcap) 48339 }) ∧
    s.crWrite 0x111 v = s.updFn n (fun f => { f with l2cap := cap (·.l2cap) 2812 }) ∧
    s.crWrite 0x112 v = s.updFn n (fun f => { f with linkcap := cap (·.linkcap) 14648 }) ∧
    s.crWrite 0x113 v = s.updFn n (fun f => { f with portcap := cap (·.portcap) 2929 }) ∧
    s.crWrite 0x1C0 v = { s with smvec := part s.smvec 0x000FFFFFFFFFFFFF }

/-- R51, R120, R174: HALT at level 2 ends the activation, idles its core and leaves the other threads, but takes RACE
where END would (log 227); below, it traps. R123: ICSYNC at level 1 raises the generation of the code object that the
handle names; a free entry traps with REVOKED, another kind with ILLEGAL_OPERAND, and user level with PRIVILEGE. -/
def Says.HaltAndSync : Prop :=
  ∀ (s : State) (h : Head) (a : GReg), s.Acts h →
    let i := (s.t.rdG a).toNat % 2 ^ 20
    let e := s.hent s.t.ctx i
    (2 ≤ s.priv → s.EndRaces → ∃ l x, exec (.halt h) s = .next (s.trapE (raceTrap {} (padNode s.myPad) l x))) ∧
    (2 ≤ s.priv → ¬ s.EndRaces → Answers (exec (.halt h) s) (fun t => t.thread s.cur = {} ∧ (t.core (s.cur / 8)).idle = true ∧
      (∀ k, k ≠ s.cur → t.thread k = s.thread k) ∧ (∀ c, c ≠ s.cur / 8 → (t.core c).idle = (s.core c).idle))) ∧
    (s.priv < 2 → exec (.halt h) s = .next (s.trap 0x04 0 11)) ∧
    (s.priv = 0 → exec (.icsync h a) s = .next (s.trap 0x04 0 15)) ∧
    (1 ≤ s.priv → s.hcap s.t.ctx ≤ i ∨ e.used = false → exec (.icsync h a) s = .next (s.trap 0x12 (i * 2 ^ 44) e.gen)) ∧
    (1 ≤ s.priv → i < s.hcap s.t.ctx → e.used = true →
      (∀ m, e.node = .made m → (s.madeN m).kind = kCode →
        exec (.icsync h a) s = .next (s.updMade m fun x => { x with codeGen := x.codeGen + 1 }).next) ∧
      ((∀ m, e.node = .made m → (s.madeN m).kind ≠ kCode) → exec (.icsync h a) s = .next (s.trapOperand 1 1)))

/-- R121: PMINT at level 1 mints a pointer of the handle's rights over its first len bytes; an absent entry traps
with REVOKED, rights that the entry lacks with PERMISSION, a length above SIZE with BOUNDS, user level with
PRIVILEGE. -/
def Says.Mint : Prop :=
  (∀ (s : State) (h : Head) (d : BReg) (a b : GReg), s.Acts h →
    let i := (s.t.rdG a).toNat % 2 ^ 20
    let perms := (s.t.rdG a).toNat / 2 ^ 20 % 2 ^ 8
    let len := (s.t.rdG b).toNat
    let e := s.hent s.t.ctx i
    (s.priv = 0 → exec (.pmint h d a b) s = .next (s.trap 0x04 0 12)) ∧
    (1 ≤ s.priv → s.hcap s.t.ctx ≤ i ∨ e.used = false → exec (.pmint h d a b) s = .next (s.trap 0x12 0 0)) ∧
    (1 ≤ s.priv → i < s.hcap s.t.ctx → e.used = true →
      (perms &&& e.rights.toNat ≠ perms → exec (.pmint h d a b) s = .next (s.trap 0x11 0 perms)) ∧
      (perms &&& e.rights.toNat = perms → e.size < len → exec (.pmint h d a b) s = .next (s.trap 0x10 0 len)) ∧
      (perms &&& e.rights.toNat = perms → len ≤ e.size →
        exec (.pmint h d a b) s = .next (s.retB d (mintPtr perms e.gen i len))))) ∧
  ∀ perms gen i len : Nat, perms < 2 ^ 8 → gen < 2 ^ 12 → i < 2 ^ 20 → len ≤ 2 ^ 40 →
    let q := mintPtr perms gen i len
    q.tag = true ∧ q.perms = perms ∧ q.gen = gen ∧ q.hidx = i ∧ q.cursor = 0 ∧ q.base = 0 ∧ len ≤ q.top ∧
      ∀ e bm tm, encodeBounds 0 len = some (e, bm, tm) → q.e = e ∧ q.bm = bm ∧ q.tm = tm

/-- R122: SRESUME, SRESUME.skip and TKILL act, with status 0, on the thread that the word names where it is parked
with that FSEQ in that context: it is replayed, goes on at tepc + 12, or is killed. Any other thread gives 1, and one
that the issuer may not act on 2: a supervisor may act on the contexts it governs but on no second-stage fault, a
hypervisor on its partition's. A CORE that the context's table does not map, or of another die, traps with
ILLEGAL_OPERAND, and user level with PRIVILEGE. The model's own readings in it: log 21, 24. -/
def Says.ResumeAndKill : Prop :=
  ∀ (s : State) (h : Head) (d a : GReg), s.Acts h →
    let w := (s.t.rdG a).toNat
    let c := w / 2 ^ 16 % 2 ^ 16
    let all (t : State) : Prop := exec (.sresume h d a) s = .next t ∧ exec (.sresumeSkip h d a) s = .next t ∧
      exec (.tkill h d a) s = .next t
    (s.priv = 0 → exec (.sresume h d a) s = .next (s.trap 0x04 0 13) ∧
      exec (.sresumeSkip h d a) s = .next (s.trap 0x04 0 13) ∧ exec (.tkill h d a) s = .next (s.trap 0x04 0 14)) ∧
    (1 ≤ s.priv → s.mapCore c (w % 2 ^ 12) = none → all (s.trap 0x02 0 (w % 2 ^ 12))) ∧
    (∀ core, 1 ≤ s.priv → s.mapCore c (w % 2 ^ 12) = some core →
      let k := 8 * core + w / 2 ^ 12 % 8
      let named : Prop := ∃ hyp, (s.thread k).stat = .parked (w / 2 ^ 32 % 2 ^ 32) hyp ∧ (s.thread k).ctx = c
      let stage2 : Prop := ∃ q, (s.thread k).stat = .parked q true ∧ (s.thread k).ctx = c
      let may : Prop := (s.priv = 1 ∧ (s.ctx c).govern = s.t.ctx ∧ ¬ stage2) ∨ (2 ≤ s.priv ∧ (s.ctx c).fn = s.ctxFn s.t.ctx)
      (coreDie core ≠ coreDie (s.cur / 8) → all (s.trap 0x02 0 (w % 2 ^ 12))) ∧
      (coreDie core = coreDie (s.cur / 8) →
        (¬ may → all (s.retG d 2)) ∧ (may → ¬ named → all (s.retG d 1)) ∧
        (may → named →
          exec (.sresume h d a) s = .next ((s.retG d 0).unpark k (s.thread k).pc) ∧
          exec (.sresumeSkip h d a) s = .next ((s.retG d 0).unpark k ((s.thread k).tepc.toNat + 12)) ∧
          exec (.tkill h d a) s = .next ((s.retG d 0).kill k 8) ∧ ((s.retG d 0).kill k 8).thread k = {})))

/-! ### Groups of the statements above -/

/-- Taking a trap, in a context with a vector, in a user context, and where no level takes it (R109, R111). -/
def Obligations.TrapEntry : Prop := Says.TrapEntersVector ∧ Says.TrapParksUser ∧ Says.TrapKills

/-- The control registers (R60, R95, R109, R117, R316, R322, R323). -/
def Obligations.ControlRegisters : Prop :=
  Says.ControlRegisterReads ∧ Says.UnoccupiedRegisters ∧ Says.ControlRegisterWrites ∧ Says.ControlRegisterValues

/-- HALT, PMINT, ICSYNC, SRESUME and TKILL (R120 to R123). -/
def Obligations.SystemInstructions : Prop := Says.HaltAndSync ∧ Says.Mint ∧ Says.ResumeAndKill

/-! ### Memory (R135 to R145) -/

/-- R137, R138, R139: an LD of any ORDER that passes every check reads the bytes at its place, once the activation's
own posted stores and JOINs to them are performed, into g[OD], extended as the ETYPE says; it leaves every byte of
memory and every other register as it was. The model's own readings in it: log 36, 40. -/
def Obligations.PlainLoad : Prop :=
  ∀ (s : State) (h : Head) (et : EType) (od : Ord3) (sc : Scope3) (d : GReg) (m : MemOp) (p : Ptr) (hit : Hit), s.Acts h →
    let size := etSize et
    p = s.t.rdB m.b → p.pay = false →
    s.reach p m.b.toNat (dispOf m size) size (if od = 0 then 1 else 129) .load (if od = 0 then 1 else size) = .ok hit →
    isCopy hit.node = false → s.raceCheck p hit.node hit.off size (if od = 0 then 0 else 2) = .ok () →
    let u := s.flushRange hit.node hit.off size
    (s.posted = [] → s.joins = [] → u = s) ∧
    Answers (exec (.ld h et od sc d (.mem m)) s) (fun t =>
      t.t = (s.t.wrG d (loaded et (natOfBytes (u.peekPlaces hit.places)))).step ∧ t.mem = u.mem ∧ t.tags = u.tags ∧
      (od = 0 → s.posted = [] → s.joins = [] → s.SameFabric t))

/-- R50, R137, R139: a plain ST at an own home stores the low bytes of its source at the place the pointer and the
displacement name, after the activation's own appends to a ring in that pad, and changes no other byte and no register;
through a handle homed elsewhere it is posted and
changes no byte yet. A releasing ST stores them at once, after every earlier posted store of its activation; where its
home is another tile's pad, no window counts it here. The model's own reading in it: log 35. -/
def Says.Stores : Prop :=
  ∀ (s : State) (h : Head) (et : EType) (od : Ord3) (sc : Scope3) (m : MemOp) (x : GI) (p : Ptr) (hit : Hit), s.Acts h →
    let size := etSize et
    p = s.t.rdB m.b → p.pay = false → s.awaitsWrite p = false →
    s.reach p m.b.toNat (dispOf m size) size (if od = 0 then 2 else 130) .store (if od = 0 then 1 else size) = .ok hit →
    isCopy hit.node = false → s.nodeKind hit.node ≠ kQueue →
    s.storeCheck p hit.node hit.off size (if od = 0 then 1 else 3) = .ok () →
    let bytes := bytesOfNat size (s.t.gi x).toNat
    (od = 0 → s.remote hit.node = false →
      Answers (exec (.st h et od sc (.mem m) x) s) (fun t =>
        let u := (s.noteStore hit.node hit.off size 1).flushOwnPad hit.node
        (s.posted = [] → u.mem = s.mem ∧ u.net = s.net ∧ u.posted = []) ∧
        t.t = s.t.step ∧ SameOutside u t hit.places ∧
        Stored t hit.places bytes ∧ t.net = u.net ∧ t.posted = u.posted)) ∧
    (od = 0 → s.remote hit.node = true →
      Answers (exec (.st h et od sc (.mem m) x) s) (fun t =>
        t.t = s.t.step ∧ t.mem = s.mem ∧
        ∃ q, t.posted = s.posted ++ [q] ∧ q.bytes = bytes ∧ q.node = hit.node ∧ q.off = hit.off ∧ q.places = hit.places)) ∧
    (od ≠ 0 → (∀ pad, nodePad hit.node = some pad → s.flushMine.swWindow (s.cur / 8) pad hit.off = none) →
      Answers (exec (.st h et od sc (.mem m) x) s) (fun t =>
        t.t = s.t.step ∧ SameOutside s.flushMine t hit.places ∧ Stored t hit.places bytes))

/-- R55, R136, R139, R241, R254: a ST through a queue is posted as an append behind the activation's other posted
stores, which are performed, and changes no byte yet, but a synchronising one at an offset that is no multiple of its
size traps with ALIGN; a write through a handle with an earlier NWRITE of the activation outstanding waits at its
issue. The model's own reading in it: log 179. -/
def Says.StoresWait : Prop :=
  ∀ (s : State) (h : Head) (et : EType) (od : Ord3) (sc : Scope3) (g : GReg) (op : BitVec 3) (m : MemOp) (x : GI) (b : BReg)
    (e : HEntry) (off : Nat), s.Acts h →
    let p := s.t.rdB m.b
    (s.awaitsWrite p = true → exec (.st h et od sc (.mem m) x) s = .next s ∧ exec (.atom h et od sc op g m x) s = .next s ∧
      exec (.cas h et od sc g m g) s = .next s ∧ exec (.fflag h et sc m x) s = .next s ∧ exec (.pst h m b) s = .next s) ∧
    (s.awaitsWrite p = false → p.pay = false →
      s.checkPtr s.t.ctx p m.b.toNat (dispOf m (etSize et)) (etSize et) (if od = 0 then 2 else 130) = .ok (e, off) →
      s.nodeKind e.node = kQueue → isCopy e.node = false →
      (od ≠ 0 → off % etSize et ≠ 0 → exec (.st h et od sc (.mem m) x) s = .next (s.trap 0x14 (addrOf p off) (etSize et))) ∧
      (od = 0 ∨ off % etSize et = 0 →
        Answers (exec (.st h et od sc (.mem m) x) s) (fun t => t.t = s.t.step ∧ t.mem = s.flushStores.mem ∧
          ∃ q, t.posted = s.flushStores.posted ++ [q] ∧ q.node = e.node ∧ q.off = off ∧
            q.bytes = bytesOfNat (etSize et) (s.t.gi x).toNat)))

/-- R108, R137: an access whose pointer has no tag traps with TAG, before anything else of it is looked at. -/
def Obligations.UntaggedPointerTraps : Prop :=
  ∀ (s : State) (h : Head) (et : EType) (od : Ord3) (sc : Scope3) (op : BitVec 3) (g : GReg) (x : GI) (m : MemOp), s.Acts h →
    (s.t.rdB m.b).tag = false →
    let u := s.trap 0x13 0 m.b.toNat
    exec (.ld h et od sc g (.mem m)) s = .next u ∧ exec (.st h et od sc (.mem m) x) s = .next u ∧
    exec (.atom h et od sc op g m x) s = .next u ∧ exec (.cas h et od sc g m g) s = .next u ∧
    exec (.fflag h et sc m x) s = .next u ∧ (∀ b, exec (.pld h b m) s = .next u) ∧ (∀ b, exec (.pst h m b) s = .next u)

/-- R46, R55, R140: an ATOM or a CAS of any ORDER that passes its checks puts the old value, extended, into g[OD],
and stores the new one at the place alone, after the activation's earlier posted writes through the handle, and
after all of them where it releases. No other byte and no other register changes. The model's own readings in it:
log 36, 37. -/
def Says.AtomicUpdates : Prop :=
  ∀ (s : State) (h : Head) (et : EType) (od : Ord3) (sc : Scope3) (d b : GReg) (m : MemOp) (x : GI) (p : Ptr) (hit : Hit)
    (pl : Place), s.Acts h →
    let size := etSize et
    etAtom et.toNat = true → p = s.t.rdB m.b → s.awaitsWrite p = false →
    s.reach p m.b.toNat (dispOf m size) size (if od = 0 then 8 else 136) .atomic size = .ok hit →
    hit.places = [(pl, size)] →
    let u := s.flushHandle p hit.node hit.off size
    u.raceCheck p hit.node hit.off size 3 = .ok () →
    let old := u.peekN pl.addr size
    let n := etWidth et
    let v := (s.t.gi x).toNat % 2 ^ n
    let sig := etSigned et.toNat = true
    let done (new : Nat) (t : State) : Prop :=
      t.t = (s.t.wrG d (extTo old et)).step ∧ t.peekN pl.addr size = new % 2 ^ n ∧
      SameOutside (if releases od.toNat then u.flushMine else u) t hit.places
    Answers (exec (.atom h et od sc 0 d m x) s) (done (old + v)) ∧
    Answers (exec (.atom h et od sc 1 d m x) s) (done (old &&& v)) ∧
    Answers (exec (.atom h et od sc 2 d m x) s) (done (old ||| v)) ∧
    Answers (exec (.atom h et od sc 3 d m x) s) (done (old ^^^ v)) ∧
    Answers (exec (.atom h et od sc 4 d m x) s) (done v) ∧
    (¬ sig → Answers (exec (.atom h et od sc 5 d m x) s) (done (min old v)) ∧
      Answers (exec (.atom h et od sc 6 d m x) s) (done (max old v))) ∧
    (sig → Answers (exec (.atom h et od sc 5 d m x) s) (done (if asInt old n ≤ asInt v n then old else v)) ∧
      Answers (exec (.atom h et od sc 6 d m x) s) (done (if asInt old n ≤ asInt v n then v else old))) ∧
    ((s.t.rdG d).toNat % 2 ^ n = old → Answers (exec (.cas h et od sc d m b) s) (done ((s.t.rdG b).toNat)))

/-- R140: a CAS whose expected value differs stores nothing and returns the old value; it is an atomic read. -/
def Says.FailedCas : Prop :=
  ∀ (s : State) (h : Head) (et : EType) (od : Ord3) (sc : Scope3) (d b : GReg) (m : MemOp) (p : Ptr) (hit : Hit), s.Acts h →
    let size := etSize et
    p = s.t.rdB m.b → s.awaitsWrite p = false →
    s.reach p m.b.toNat (dispOf m size) size (if od = 0 then 8 else 136) .atomic size = .ok hit →
    let u := s.flushHandle p hit.node hit.off size
    u.raceCheck p hit.node hit.off size 2 = .ok () →
    natOfBytes (u.peekPlaces hit.places) ≠ (s.t.rdG d).toNat % 2 ^ etWidth et →
    Answers (exec (.cas h et od sc d m b) s) (fun t =>
      t.t = (s.t.wrG d (extTo (natOfBytes (u.peekPlaces hit.places)) et)).step ∧ t.mem = (u.flushRange hit.node hit.off size).mem)

/-- R141, R142, R144, R254: a FENCE with a release half performs the activation's posted writes and SEMVs inside its
scope and no others, and waits where an NWRITE of the activation inside its scope is still to be performed; one
without does nothing. FFLAG stores its flag as a release, behind every posted write of the activation, and PREF
changes nothing at all. The model's own readings in it: log 35, 179. -/
def Says.FenceFlagPrefetch : Prop :=
  ∀ (s : State) (h : Head) (et : EType) (od : Ord3) (sc : Scope3) (m : MemOp) (x : GI) (w : Bool), s.Acts h →
    let size := etSize et
    (releases od.toNat = false → exec (.fence h od sc) s = .next s.next) ∧
    (releases od.toNat = true →
      let inside (n : Node) : Bool := locIn sc.toNat (coreLoc (s.cur / 8)) (s.homeLoc n)
      let coming : Prop := ∃ e ∈ s.txns, e.2.op = 4 ∧ e.2.issuer = s.t.party ∧ e.2.ctx = s.t.ctx ∧ e.2.host = none ∧
        e.2.res = none ∧ inside (s.hent s.t.ctx e.2.ha.1).node = true
      (coming → exec (.fence h od sc) s = .next s) ∧
      (¬ coming → exec (.fence h od sc) s =
        .next ((s.flush fun q => q.party == s.t.party && inside q.node).flushSemvs fun r =>
          r.party == s.t.party && locIn sc.toNat (coreLoc (s.cur / 8)) (padLoc r.pad)).next)) ∧
    exec (.pref h w m) s = .next s.next ∧
    (∀ (hit : Hit) (pl : Place), s.awaitsWrite (s.t.rdB m.b) = false →
      s.reach (s.t.rdB m.b) m.b.toNat (dispOf m size) size 130 .store size = .ok hit →
      s.raceCheck (s.t.rdB m.b) hit.node hit.off size 3 = .ok () → hit.places = [(pl, size)] →
      let u := s.flushMine.flush fun q => q.party == s.t.party && s.nodeHome q.node == s.nodeHome hit.node
      Answers (exec (.fflag h et sc m x) s) (fun t => t.t = s.t.step ∧ SameOutside u t hit.places ∧
        t.peekN pl.addr size = (s.t.gi x).toNat % 2 ^ (8 * size)))

/-- R143: PST stores the 128 bits with the tag beside them, or posts them to a home elsewhere, and PLD reads both; a
pointer without G is stored to the issuing tile's pad alone; a store of data clears the tag of the granule it
touches. The model's own reading in it: log 32. -/
def Says.PointersInMemory : Prop :=
  ∀ (s : State) (h : Head) (b : BReg) (m : MemOp) (hit : Hit) (pl : Place), s.Acts h →
    let p := s.t.rdB m.b
    let v := s.t.rdB b
    p.pay = false →
    (s.reach p m.b.toNat (dispOf m 16) 16 1 .load 16 = .ok hit →
      s.raceCheck p hit.node hit.off 16 0 = .ok () → hit.places = [(pl, 16)] →
      let u := s.flushRange hit.node hit.off 16
      Answers (exec (.pld h b m) s) (fun t => t.t.rdB b =
        { tag := tget false u.tags (pl.addr / 16), raw := BitVec.ofNat 128 (u.peekN pl.addr 16) } ∧
        t.t.pc = s.t.pc + 12 ∧ (∀ x, x ≠ b → t.t.rdB x = s.t.rdB x) ∧ t.mem = u.mem ∧ t.tags = u.tags)) ∧
    (s.awaitsWrite p = false → s.reach p m.b.toNat (dispOf m 16) 16 2 .store 16 = .ok hit →
      (v.perms / 64 % 2 = 0 → nodePad hit.node ≠ some s.myPad → s.nodeKind hit.node ≠ kMull →
        exec (.pst h m b) s = .next (s.trap 0x11 (addrOf p hit.off) 64)) ∧
      (v.perms / 64 % 2 = 1 ∨ nodePad hit.node = some s.myPad → s.raceCheck p hit.node hit.off 16 1 = .ok () →
        hit.places = [(pl, 16)] →
        (s.remote hit.node = false → Answers (exec (.pst h m b) s) (fun t => t.t = s.t.step ∧
          SameOutside ((s.note hit.node hit.off 16 1).flushOwnPad hit.node) t hit.places ∧
          (s.posted = [] → SameOutside s t hit.places) ∧
          t.peekN pl.addr 16 = v.raw.toNat ∧ tget false t.tags (pl.addr / 16) = v.tag)) ∧
        (s.remote hit.node = true → Answers (exec (.pst h m b) s) (fun t => t.t = s.t.step ∧ t.mem = s.mem ∧
          t.tags = s.tags ∧ ∃ q, t.posted = s.posted ++ [q] ∧ q.pst = true ∧ q.tag = v.tag ∧ q.places = hit.places ∧
            q.bytes = bytesOfNat 16 v.raw.toNat)))) ∧
    (∀ a bs, bs ≠ [] → tget false (s.poke a bs).tags (a / 16) = false)

/-! ### Groups of the statements above -/

/-- ST, at once or posted, and what waits for an earlier NWRITE (R55, R136, R137, R139, R241, R254). -/
def Obligations.PlainStore : Prop := Says.Stores ∧ Says.StoresWait

/-- ATOM and CAS (R46, R55, R140). -/
def Obligations.AtomicOperations : Prop := Says.AtomicUpdates ∧ Says.FailedCas

/-- FENCE, FFLAG, PREF, PLD and PST (R141 to R144, R254). -/
def Obligations.FencesAndPointersInMemory : Prop := Says.FenceFlagPrefetch ∧ Says.PointersInMemory

/-! ### Vectors (R146 to R165) -/

/-- R147, R149: the destructive integer instructions work on the active elements of v[OD], exactly, and wrap or
saturate into the element; inactive elements keep their bits. -/
def Says.VectorArithmetic : Prop :=
  ∀ (s : State) (h : Head) (et : EType) (d : VReg) (a : VGI) (m : Option MReg), s.Acts h → et.toNat < 8 →
    let w := etSize et
    let n := etWidth et
    let x (i : Nat) : Int := etInt et (el (s.t.rdV d) i w)
    let y (i : Nat) : Int := etInt et (s.t.vgi a i w)
    let upd (f : Nat → Int) (i : Nat) : Nat := if act (s.t.om m) i w then toBits n (f i) else el (s.t.rdV d) i w
    VecIs s (exec (.vadd h et false d a m) s) d w (upd fun i => x i + y i) ∧
    VecIs s (exec (.vadd h et true d a m) s) d w (upd fun i => clampEt et (x i + y i)) ∧
    VecIs s (exec (.vsub h et false d a m) s) d w (upd fun i => x i - y i) ∧
    VecIs s (exec (.vsub h et true d a m) s) d w (upd fun i => clampEt et (x i - y i)) ∧
    VecIs s (exec (.vmul h et d a m) s) d w (upd fun i => x i * y i) ∧
    VecIs s (exec (.vmulh h et d a m) s) d w (upd fun i => x i * y i / 2 ^ n) ∧
    VecIs s (exec (.vmin h et d a m) s) d w (upd fun i => min (x i) (y i)) ∧
    VecIs s (exec (.vmax h et d a m) s) d w (upd fun i => max (x i) (y i))

/-- R149: the bitwise instructions and the shifts of active elements; VABS, VNEG and VNOT read OA; VMAD works on
every element. -/
def Says.VectorLogic : Prop :=
  ∀ (s : State) (h : Head) (et : EType) (d b : VReg) (a : VGI) (m : Option MReg), s.Acts h → et.toNat < 8 →
    let w := etSize et
    let n := etWidth et
    let x (i : Nat) : Nat := el (s.t.rdV d) i w
    let y (i : Nat) : Nat := s.t.vgi a i w
    let z (i : Nat) : Int := asInt (el (s.t.rdV b) i w) n
    let upd (f : Nat → Nat) (i : Nat) : Nat := if act (s.t.om m) i w then f i else x i
    VecIs s (exec (.vand h et d a m) s) d w (upd fun i => x i &&& y i) ∧
    VecIs s (exec (.vor h et d a m) s) d w (upd fun i => x i ||| y i) ∧
    VecIs s (exec (.vxor h et d a m) s) d w (upd fun i => x i ^^^ y i) ∧
    VecIs s (exec (.vshl h et d a m) s) d w (upd fun i => x i * 2 ^ (y i % n) % 2 ^ n) ∧
    VecIs s (exec (.vshr h et d a m) s) d w (upd fun i => x i / 2 ^ (y i % n)) ∧
    VecIs s (exec (.vsra h et d a m) s) d w (upd fun i => toBits n (asInt (x i) n / 2 ^ (y i % n))) ∧
    VecIs s (exec (.vnot h et d b m) s) d w (upd fun i => 2 ^ n - 1 - el (s.t.rdV b) i w) ∧
    VecIs s (exec (.vabs h et false d b m) s) d w (upd fun i => toBits n (z i).natAbs) ∧
    VecIs s (exec (.vneg h et false d b m) s) d w (upd fun i => toBits n (-(z i))) ∧
    (et.toNat % 2 = 0 →
      VecIs s (exec (.vabs h et true d b m) s) d w (upd fun i => toBits n (clampEt et (z i).natAbs)) ∧
      VecIs s (exec (.vneg h et true d b m) s) d w (upd fun i => toBits n (clampEt et (-(z i))))) ∧
    VecIs s (exec (.vmad h et d b a) s) d w (fun i => (el (s.t.rdV b) i w * y i + x i) % 2 ^ n)

/-- R150: VCMP and LBC write all bits of each element of a mask; KAND, KOR and KNOT all 256 bits; KPOPC counts and
KFIRST finds the lowest active element, or gives all ones. -/
def Says.VectorMasks : Prop :=
  ∀ (s : State) (h : Head) (et : EType) (d j k : MReg) (g x : GReg) (v : VReg) (b : VGI) (y : GI), s.Acts h →
    et.toNat < 8 →
    let w := etSize et
    let p (i : Nat) : Int := etInt et (el (s.t.rdV v) i w)
    let q (i : Nat) : Int := etInt et (s.t.vgi b i w)
    MaskIs s (exec (.vcmp h et 0 d v b) s) d w (fun i => decide (p i = q i)) ∧
    MaskIs s (exec (.vcmp h et 1 d v b) s) d w (fun i => decide (p i ≠ q i)) ∧
    MaskIs s (exec (.vcmp h et 2 d v b) s) d w (fun i => decide (p i < q i)) ∧
    MaskIs s (exec (.vcmp h et 3 d v b) s) d w (fun i => decide (p i ≤ q i)) ∧
    MaskIs s (exec (.vcmp h et 4 d v b) s) d w (fun i => decide (p i > q i)) ∧
    MaskIs s (exec (.vcmp h et 5 d v b) s) d w (fun i => decide (p i ≥ q i)) ∧
    (et.toNat % 2 = 0 →
      MaskIs s (exec (.lbc h et d x y) s) d w (fun i => decide ((s.t.rdG x).toInt + i < (s.t.gi y).toInt))) ∧
    (et.toNat % 2 = 1 →
      MaskIs s (exec (.lbc h et d x y) s) d w (fun i => decide ((s.t.rdG x).toNat + i < (s.t.gi y).toNat))) ∧
    exec (.kand h d j k) s = .next (s.retM d (s.t.rdM j &&& s.t.rdM k)) ∧
    exec (.kor h d j k) s = .next (s.retM d (s.t.rdM j ||| s.t.rdM k)) ∧
    exec (.knot h d j) s = .next (s.retM d (BitVec.allOnes 256 ^^^ s.t.rdM j)) ∧
    exec (.kpopc h et g j) s = .next (s.retG g (w64 ((List.range (256 / w)).countP fun i => (s.t.rdM j).getLsbD (i * w)))) ∧
    (∀ i, i < 256 / w → (s.t.rdM j).getLsbD (i * w) = true → (∀ l, l < i → (s.t.rdM j).getLsbD (l * w) = false) →
      exec (.kfirst h et g j) s = .next (s.retG g (w64 i))) ∧
    ((∀ i, i < 256 / w → (s.t.rdM j).getLsbD (i * w) = false) →
      exec (.kfirst h et g j) s = .next (s.retG g (BitVec.allOnes 64)))

/-- R151: the lane movements, of any ETYPE that they take; a lane index counts modulo the number of lanes. VEXTR
extends an integer as its ETYPE says and zero-extends the bits of any other. -/
def Says.VectorLanes : Prop :=
  ∀ (s : State) (h : Head) (et : EType) (d v : VReg) (m : MReg) (g : GReg) (a : VGI) (x y : GI), s.Acts h →
    etLd et.toNat = true →
    let w := etSize et
    let lane := el (s.t.rdV v) ((s.t.gi x).toNat % (256 / w)) w
    VecIs s (exec (.vsel h et d a m) s) d w
      (fun i => if act (s.t.rdM m) i w then s.t.vgi a i w else el (s.t.rdV d) i w) ∧
    exec (.vmov h d v) s = .next (s.retV d (s.t.rdV v)) ∧
    VecIs s (exec (.vbcast h et d v x) s) d w (fun _ => lane) ∧
    (et.toNat < 8 → exec (.vextr h et g v x) s = .next (s.retG g (extTo lane et))) ∧
    (8 ≤ et.toNat → exec (.vextr h et g v x) s = .next (s.retG g (w64 lane))) ∧
    VecIs s (exec (.vins h et d x y) s) d w
      (fun i => if i = (s.t.gi y).toNat % (256 / w) then (s.t.gi x).toNat % 2 ^ (8 * w) else el (s.t.rdV d) i w) ∧
    (et.toNat < 8 →
      VecIs s (exec (.viota h et d x y) s) d w (fun i => ((s.t.gi x).toNat + i * (s.t.gi y).toNat) % 2 ^ (8 * w))) ∧
    exec (.vwid h g) s = .next (s.retG g 2048)

/-- R153, R154: the floating-point instructions of one or two sources deliver one rounded result for each active
element and raise its flags; the sign instructions change the sign bit alone. -/
def Says.VectorFloat : Prop :=
  ∀ (s : State) (h : Head) (et : EType) (r : Rnd) (d b : VReg) (a : VG) (m : Option MReg), s.Acts h →
    etFp et.toNat = true →
    let w := etSize et
    let f := fmt et.toNat
    let x (i : Nat) : Nat := el (s.t.rdV d) i w
    let y (i : Nat) : Nat := s.t.vg a i w
    let z (i : Nat) : Nat := el (s.t.rdV b) i w
    let md := s.t.mode r
    FpIs s (exec (.vfadd h et r d a m) s) d w (s.t.om m) (fun i => fAdd f md (x i) (y i)) ∧
    FpIs s (exec (.vfsub h et r d a m) s) d w (s.t.om m) (fun i => fSub f md (x i) (y i)) ∧
    FpIs s (exec (.vfmul h et r d a m) s) d w (s.t.om m) (fun i => fMul f md (x i) (y i)) ∧
    FpIs s (exec (.vfmin h et d a m) s) d w (s.t.om m) (fun i => fMinMax f false (x i) (y i)) ∧
    FpIs s (exec (.vfmax h et d a m) s) d w (s.t.om m) (fun i => fMinMax f true (x i) (y i)) ∧
    FpIs s (exec (.vfabs h et d b m) s) d w (s.t.om m) (fun i => fSign f (fun _ => false) (z i)) ∧
    FpIs s (exec (.vfneg h et d b m) s) d w (s.t.om m) (fun i => fSign f (fun b => !b) (z i)) ∧
    FpIs s (exec (.vfma h et r d b a) s) d w (BitVec.allOnes 256) (fun i => fMulAdd f md false false (z i) (y i) (x i)) ∧
    FpIs s (exec (.vfms h et r d b a) s) d w (BitVec.allOnes 256) (fun i => fMulAdd f md false true (z i) (y i) (x i)) ∧
    FpIs s (exec (.vfnma h et r d b a) s) d w (BitVec.allOnes 256) (fun i => fMulAdd f md true false (z i) (y i) (x i)) ∧
    VecIs s (exec (.vfclass h et d b m) s) d w
      (fun i => if act (s.t.om m) i w then fClass f (z i) % 2 ^ (8 * w) else x i)

/-- R71, R150, R154, R155: VFCMP writes the result of each element into all the bits of that element of a mask, and
raises the flags of the comparisons; VRED writes one scalar from the pairwise tree over the active elements, with the
operation's identity elsewhere, and raises the flags of its nodes. Neither changes anything else. -/
def Says.VectorReduce : Prop :=
  ∀ (s : State) (h : Head) (et : EType) (r : Rnd) (c : BitVec 3) (d : MReg) (g : GReg) (v : VReg) (a : VG)
    (m : Option MReg), s.Acts h → etFp et.toNat = true →
    let w := etSize et
    let f := fmt et.toNat
    let cmp (i : Nat) : Bool × Fl := fCmp f c.toNat (el (s.t.rdV v) i w) (s.t.vg a i w)
    let src (one : Nat) : List Nat :=
      (List.range (lanes w)).map fun i => if act (s.t.om m) i w then el (s.t.rdV v) i w else one
    let red (node : Nat → Nat → Nat × Fl) (one : Nat) : State :=
      s.setT (((s.t.wrG g (w64 (pairTree node (Nat.log2 (lanes w)) (src one)).1)).raise
        (pairTree node (Nat.log2 (lanes w)) (src one)).2).step)
    exec (.vred h et r 0 g v m) s = .next (red (fAdd f (s.t.mode r)) f.sgn) ∧
    exec (.vred h et 0 1 g v m) s = .next (red (fMinMax f true) (f.sgn + f.infCode)) ∧
    exec (.vred h et 0 2 g v m) s = .next (red (fMinMax f false) f.infCode) ∧
    Answers (exec (.vfcmp h et c d v a) s) (fun t => s.OnlyThread t ∧
      t.t = { s.t with m := t.t.m, fpflags := t.t.fpflags, pc := s.t.pc + 12 } ∧
      (∀ x, x ≠ d → t.t.rdM x = s.t.rdM x) ∧ t.t.rdM 0 = BitVec.allOnes 256 ∧
      (d ≠ 0 → ∀ i j, i < lanes w → j < w → (t.t.rdM d).getLsbD (i * w + j) = (cmp i).1) ∧
      ∀ k, k < 5 → t.t.fpflags.getLsbD k =
        (s.t.fpflags.getLsbD k || (List.range (lanes w)).any fun i => (cmp i).2.toBits.getLsbD k))

/-- R157 to R159: the conversions give each element of the destination the converted element of the source. The
model's own readings in it: log 52, 55, 56. -/
def Obligations.VectorConvert : Prop :=
  ∀ (s : State) (h : Head) (et src : EType) (r : Rnd) (sat half : Bool) (part : BitVec 2) (p3 : BitVec 3) (d a b : VReg)
    (m : Option MReg) (g : Option GReg), s.Acts h →
    (etLd et.toNat = true → etLd src.toNat = true →
      FpIs s (exec (.vcvt h et src r sat part d a m) s) d (etSize et) (s.t.om m) (fun j =>
        match cvtSource (etSize src) (etSize et) part.toNat j with
        | some i => cvt src.toNat et.toNat (s.t.mode r) sat (el (s.t.rdV a) i (etSize src))
        | none => (el (s.t.rdV d) j (etSize et), {}))) ∧
    FpIs s (exec (.vpack2 h et r sat d a b) s) d 2 (BitVec.allOnes 256) (fun i =>
      cvt 10 et.toNat (s.t.mode r) sat (if i < 64 then el (s.t.rdV a) i 4 else el (s.t.rdV b) (i - 64) 4)) ∧
    FpIs s (exec (.vunpk h et p3 d a g) s) d 4 (BitVec.allOnes 256) (fun i =>
      encodeFp fp32 0 false (unpackEl s.t et a g p3.toNat i)) ∧
    (et.toNat = 11 ∨ et.toNat = 12 →
      FpIs s (exec (.vpack4 h et r sat half d a) s) d 1 (BitVec.allOnes 256) (fun j =>
        cvt 10 et.toNat (s.t.mode r) sat (el (s.t.rdV (a + BitVec.ofNat 5 (j / 64))) (j % 64) 4))) ∧
    (et.toNat = 13 →
      let code (j : Nat) : Nat := (cvt 10 13 (s.t.mode r) sat (el (s.t.rdV (a + BitVec.ofNat 5 (j / 64))) (j % 64) 4)).1
      Answers (exec (.vpack4 h et r sat half d a) s) (fun t => s.OnlyThread t ∧ t.t.pc = s.t.pc + 12 ∧
        ∀ k, k < 128 →
          el (t.t.rdV d) (128 * half.toNat + k) 1 = (code (2 * k) + 16 * code (2 * k + 1)) % 2 ^ 8 ∧
          el (t.t.rdV d) (128 * (1 - half.toNat) + k) 1 = el (s.t.rdV d) (128 * (1 - half.toNat) + k) 1)) ∧
    (a.toNat % 4 ≠ 0 → ∀ w, encode (.vpack4 h et r sat half d a) = some w → decodeWord w = .error ⟨0x02, 2, 2⟩)

/-- R160: the permutations move elements as bit patterns. -/
def Says.VectorPermute : Prop :=
  ∀ (s : State) (h : Head) (et : EType) (hi : Bool) (d a b : VReg) (x : GI), s.Acts h → etLd et.toNat = true →
    let w := etSize et
    let n := 256 / w
    let p (i : Nat) : Nat := el (s.t.rdV a) i w
    let q (i : Nat) : Nat := el (s.t.rdV b) i w
    VecIs s (exec (.vperm h et d a b) s) d w (fun i => if q i < n then p (q i) else 0) ∧
    VecIs s (exec (.vslide h et d a x) s) d w (fun i =>
      if 0 ≤ (i : Int) + (s.t.gi x).toInt ∧ (i : Int) + (s.t.gi x).toInt < n then p ((i : Int) + (s.t.gi x).toInt).toNat
      else el (s.t.rdV d) i w) ∧
    VecIs s (exec (.vzip h et hi d a b) s) d w (fun i =>
      let k := (if hi then n / 2 else 0) + i / 2
      if i % 2 = 0 then p k else q k) ∧
    VecIs s (exec (.vuzp h et hi d a b) s) d w (fun i =>
      if i < n / 2 then p (2 * i + hi.toNat) else q (2 * (i - n / 2) + hi.toNat))

/-- R161, R162: a special-function instruction queues a request at its tile and its thread waits, at the same pc
and with the same registers; the unit's result then writes the active elements and lets the thread go on. The
model's own reading in it: log 53. -/
def Obligations.SpecialFunctions : Prop :=
  ∀ (s : State) (h : Head) (r : Rnd) (d a : VReg) (m : Option MReg), s.Acts h →
    let asked (op md : Nat) (t : State) : Prop :=
      t.t = { s.t with stat := .sfu } ∧
      tget [] t.sfu s.myPad = tget [] s.sfu s.myPad ++
        [{ thread := s.cur, op := op, rnd := BitVec.ofNat 3 md, dst := d, src := s.t.rdV a, mask := s.t.om m }] ∧
      t.mem = s.mem
    Answers (exec (.vexp2 h d a m) s) (asked 0 0) ∧ Answers (exec (.vlog2 h d a m) s) (asked 1 0) ∧
    Answers (exec (.vrcp h r d a m) s) (asked 2 (s.t.mode r)) ∧ Answers (exec (.vrsq h r d a m) s) (asked 3 (s.t.mode r)) ∧
    Answers (exec (.vsin h d a m) s) (asked 4 0) ∧ Answers (exec (.vcos h d a m) s) (asked 5 0) ∧
    Answers (exec (.vtanh h d a m) s) (asked 6 0) ∧
    (∀ (q : SfuReq) (l : List SfuReq), tget [] s.sfu s.arg.a = q :: l →
      Answers (exec .specialFunctionResult s) (fun t =>
        tget [] t.sfu s.arg.a = l ∧ (t.thread q.thread).stat = .running ∧ (t.thread q.thread).pc = (s.thread q.thread).pc + 12 ∧
        ∀ i, i < 64 → el ((t.thread q.thread).rdV q.dst) i 4 =
          if act q.mask i 4 then (sfValue q.op q.rnd.toNat (el q.src i 4)).1 % 2 ^ 32 else el ((s.thread q.thread).rdV q.dst) i 4))

/-- R163, R164: a vector load that passes every check fills the addressed elements from their places, once the
activation's own posted stores to them are performed, and keeps the others; a vector store writes its elements in
ascending order, the highest standing whole, and changes no byte outside their places; to a home elsewhere it posts
them. The model's own reading in it: log 39. -/
def Obligations.VectorMemory : Prop :=
  ∀ (s : State) (h : Head) (et : EType) (d : VReg) (o : MemOp) (g : GReg) (x : VReg) (m : Option MReg)
    (hs : List (Nat × Hit)), s.Acts h → (s.t.rdB o.b).pay = false → etLd et.toNat = true →
    let w := etSize et
    let p := s.t.rdB o.b
    let disp := dispOf o w
    let loads (l : List (Nat × Int)) : Prop := s.hitElems p o.b.toNat w 1 .load l = .ok hs
    let filled (t : State) : Prop :=
      let r := s.readElems w hs
      t.mem = r.2.mem ∧ t.t.pc = s.t.pc + 12 ∧ (∀ v, v ≠ d → t.t.rdV v = s.t.rdV v) ∧ t.t.g = s.t.g ∧ t.t.m = s.t.m ∧
      (∀ i, i < lanes w → el (t.t.rdV d) i w = match r.1.find? fun e => e.1 == i with
        | some e => e.2 % 2 ^ (8 * w)
        | none => el (s.t.rdV d) i w) ∧
      (s.posted = [] → s.joins = [] → r.2.mem = s.mem ∧ r.1 = hs.map fun e => (e.1, natOfBytes (s.peekPlaces e.2.places)))
    let stores (l : List (Nat × Int)) : Prop := s.awaitsWrite p = false ∧ s.hitElems p o.b.toNat w 2 .store l = .ok hs
    let written (t : State) : Prop :=
      t = (s.writeElems p (s.t.rdV d) w hs).next ∧ t.t = s.t.step ∧
      ((∀ e ∈ hs, s.remote e.2.node = false) → s.posted.any (s.appendsTo s.myPad) = false → SameOutside s t (hs.flatMap fun e => e.2.places) ∧
        ∀ e pl k, hs.getLast? = some e → e.2.places = [(pl, k)] → t.peek pl.addr w = bytesOfNat w (el (s.t.rdV d) e.1 w)) ∧
      ((∀ e ∈ hs, s.remote e.2.node = true) → t.mem = s.mem ∧
        ∃ l, t.posted = s.posted ++ l ∧ l.map (·.bytes) = hs.map fun e => bytesOfNat w (el (s.t.rdV d) e.1 w))
    (loads (unitElems (s.t.om m) w (dispOf o 256)) → Answers (exec (.vld h et d (.mem o) m) s) filled) ∧
    (loads (strideElems (s.t.rdG g) w disp) → Answers (exec (.vlds h et d o g) s) filled) ∧
    (loads (indexElems (s.t.rdV x) w disp) → Answers (exec (.vgath h et d o x) s) filled) ∧
    (loads (bcastElems (s.t.om m) w disp) → Answers (exec (.vldb h et d o m) s) filled) ∧
    (stores (unitElems (s.t.om m) w (dispOf o 256)) → Answers (exec (.vst h et (.mem o) d m) s) written) ∧
    (stores (strideElems (s.t.rdG g) w disp) → Answers (exec (.vsts h et o d g) s) written) ∧
    (stores (indexElems (s.t.rdV x) w disp) → Answers (exec (.vscat h et o d x) s) written)

/-! ### Groups of the statements above -/

/-- Vector integer and logic instructions (R147, R149). -/
def Obligations.VectorIntegers : Prop := Says.VectorArithmetic ∧ Says.VectorLogic

/-- Comparisons, masks, lanes and permutations (R150, R151, R160). -/
def Obligations.VectorMasksAndLanes : Prop := Says.VectorMasks ∧ Says.VectorLanes ∧ Says.VectorPermute

/-- Floating-point arithmetic, classification, comparisons and reductions (R71, R150, R153 to R155). -/
def Obligations.VectorFloatingPoint : Prop := Says.VectorFloat ∧ Says.VectorReduce

/-! ### Payloads and queue slots (R35, R138, R164, R174) -/

/-- R35: loads through the activation's payload pointer read the payload's bytes, VLD element by element; an access
outside the payload's bytes traps with BOUNDS, and one without its right with PERMISSION; no access changes
memory. The model's own reading in it: log 32. -/
def Obligations.PayloadAccess : Prop :=
  ∀ (s : State) (h : Head) (et : EType) (d : GReg) (v : VReg) (m : MemOp) (x : GI) (k : Option MReg), s.Acts h →
    let p := s.t.rdB m.b
    let size := etSize et
    let off : Int := (p.cursor : Int) + dispOf m size
    let inside : Prop := (p.base : Int) ≤ off ∧ off + size ≤ p.top ∧ off + size ≤ s.t.payload.length
    p.pay = true → p.tag = true →
    (¬ inside → exec (.ld h et 0 0 d (.mem m)) s = .next (s.trap 0x10 (addrOf p off) size)) ∧
    (inside →
      (p.perms % 2 = 1 → exec (.ld h et 0 0 d (.mem m)) s =
        .next (s.retG d (loaded et (natOfBytes ((s.t.payload.drop off.toNat).take size))))) ∧
      (p.perms % 2 = 0 → exec (.ld h et 0 0 d (.mem m)) s = .next (s.trap 0x11 (addrOf p off) 1)) ∧
      (s.awaitsWrite p = false → p.perms / 2 % 2 = 0 →
        exec (.st h et 0 0 (.mem m) x) s = .next (s.trap 0x11 (addrOf p off) 2))) ∧
    (∀ xs, s.payloadElems p size (unitElems (s.t.om k) size (dispOf m 256)) = .ok xs →
      exec (.vld h et v (.mem m) k) s = .next (s.retV v (loadedV (s.t.rdV v) size xs)) ∧
      ∀ e ∈ xs, ∃ a : Int, (e.1, a) ∈ unitElems (s.t.om k) size (dispOf m 256) ∧
        e.2 = natOfBytes ((s.t.payload.drop ((p.cursor : Int) + a).toNat).take size))

/-- R138, R174: a queue operand names slot c of what the bound register still reserves; LD reads it, ST writes it,
and ADV then moves the register past it, after every earlier posted store of the activation; a slot that is not
reserved traps with QUEUE_UNDERRUN or QUEUE_OVERRUN, for VLD and VST too. The model's own readings in it: log 26,
45. -/
def Says.QueueSlots : Prop :=
  ∀ (s : State) (h : Head) (et : EType) (d : GReg) (x : GI) (v : VReg) (m : Option MReg) (o : QOp) (hit : Hit),
    s.Acts h →
    let q := s.t.rdQ o.q
    let ds := s.desc s.myPad q.desc
    let size := etSize et
    let after : QReg := { q with pos := q.pos + (o.c.toNat + 1), left := q.left - (o.c.toNat + 1) }
    (q.bound = false ∨ q.left ≤ o.c.toNat →
      let info := o.q.toNat + (o.c.toNat + 1) * 256
      exec (.ld h et 0 0 d (.que o)) s = .next (s.trap 0x21 0 info) ∧
      exec (.st h et 0 0 (.que o) x) s = .next (s.trap 0x22 0 info) ∧
      exec (.vld h et v (.que o) m) s = .next (s.trap 0x21 0 info) ∧
      exec (.vst h et (.que o) v m) s = .next (s.trap 0x22 0 info)) ∧
    (s.slotHit o false size 1 = .ok hit → s.raceCheck {} hit.node hit.off size 0 = .ok () →
      let u := s.flushRange hit.node hit.off size
      let got := loaded et (natOfBytes (u.peekPlaces hit.places))
      hit.off = ds.base + (q.start + q.pos + o.c.toNat) % 2 ^ 32 % ds.size * 2 ^ ds.slotlog ∧
      (o.adv = false → Answers (exec (.ld h et 0 0 d (.que o)) s) (fun t => t.t = (s.t.wrG d got).step ∧ t.mem = u.mem)) ∧
      (o.adv = true → Answers (exec (.ld h et 0 0 d (.que o)) s) (fun t =>
        t.t.rdQ o.q = after ∧ t.t.pc = s.t.pc + 12 ∧ (∀ y, y ≠ o.q → t.t.rdQ y = s.t.rdQ y) ∧
        (d ≠ 0 → t.t.rdG d = got) ∧ ∀ y, y ≠ d → t.t.rdG y = s.t.rdG y))) ∧
    (s.slotHit o true size 1 = .ok hit → s.raceCheck {} hit.node hit.off size 1 = .ok () →
      (o.adv = false → Answers (exec (.st h et 0 0 (.que o) x) s) (fun t => t.t = s.t.step ∧
        SameOutside ((s.noteStore hit.node hit.off size 1).flushAppends s.myPad) t hit.places ∧
        (s.posted = [] → SameOutside s t hit.places) ∧ Stored t hit.places (bytesOfNat size (s.t.gi x).toNat))) ∧
      (o.adv = true → Answers (exec (.st h et 0 0 (.que o) x) s) (fun t => t.t.rdQ o.q = after ∧
        t.t.pc = s.t.pc + 12 ∧ (∀ y, y ≠ o.q → t.t.rdQ y = s.t.rdQ y) ∧ t.t.g = s.t.g)))

/-- R138, R163, R164, R174: VLD through a queue operand fills its active elements from the named slot, and VST writes
them there, element i at byte i × w of the slot; the other elements, and every other byte, stay. ADV then moves the
register past the slot, where no element is active too. The model's own reading in it: log 39. -/
def Says.QueueVectors : Prop :=
  ∀ (s : State) (h : Head) (et : EType) (v : VReg) (m : Option MReg) (o : QOp) (slot : Nat) (hs : List (Nat × Hit)),
    s.Acts h → etLd et.toNat = true →
    let q := s.t.rdQ o.q
    let ds := s.desc s.myPad q.desc
    let w := etSize et
    let l := unitElems (s.t.om m) w 0
    let after : QReg := { q with pos := q.pos + (o.c.toNat + 1), left := q.left - (o.c.toNat + 1) }
    let place (i : Nat) : Nat := padAddr s.myPad (slot + i * w)
    let active (i : Nat) : Prop := i < lanes w ∧ act (s.t.om m) i w = true
    let moved (t : State) : Prop := t.t.pc = s.t.pc + 12 ∧ (∀ y, y ≠ o.q → t.t.rdQ y = s.t.rdQ y) ∧ t.t.g = s.t.g ∧
      t.t.rdQ o.q = (if o.adv then after else q)
    s.advCheck o (!l.isEmpty) = .ok () →
    (s.slotAt o false 0 (!l.isEmpty) = .ok slot → s.slotElems slot ds.slotBytes w false l = .ok hs →
      slot = ds.base + (q.start + q.pos + o.c.toNat) % 2 ^ 32 % ds.size * 2 ^ ds.slotlog ∧
      Answers (exec (.vld h et v (.que o) m) s) (fun t => moved t ∧ (∀ y, y ≠ v → t.t.rdV y = s.t.rdV y) ∧
        (s.posted = [] → s.joins = [] → (o.adv = false → t.mem = s.mem) ∧
          (∀ i, active i → el (t.t.rdV v) i w = natOfBytes (s.peek (place i) w)) ∧
          ∀ i, i < lanes w → ¬ active i → el (t.t.rdV v) i w = el (s.t.rdV v) i w))) ∧
    (s.slotAt o true 0 (!l.isEmpty) = .ok slot → s.slotElems slot ds.slotBytes w true l = .ok hs →
      slot = ds.base + (q.start + q.pos + o.c.toNat) % 2 ^ 32 % ds.size * 2 ^ ds.slotlog ∧
      Answers (exec (.vst h et (.que o) v m) s) (fun t => moved t ∧ t.t.v = s.t.v ∧
        (s.posted.any (s.appendsTo s.myPad) = false → o.adv = false →
          (∀ i, active i → t.peek (place i) w = bytesOfNat w (el (s.t.rdV v) i w)) ∧
          ∀ a, (∀ i, active i → a < place i ∨ place i + w ≤ a) → readByte t.mem a = readByte s.mem a)))

/-! ### Messages, queues, semaphores and sync words (R166 to R181) -/

/-- R167, R168: SEND posts one message to the core that g[OD] names, after the activation's earlier posted writes:
its header with the sender's word and the time, its priority, its payload as read at issue, in the sender's
context. An operand OB that does not match LEN traps with ILLEGAL_OPERAND, FIELD 3, and a core word that does not
map as R43 says. -/
def Says.SendPosts : Prop :=
  ∀ (s : State) (h : Head) (len : BitVec 6) (noinh : Bool) (d : GReg) (a : GI) (b : BReg), s.Acts h →
    let w := (s.t.rdG d).toNat
    let hidx := (s.t.gi a).toNat % 2 ^ 16
    let posted (core n : Nat) (pl : List Byte) (u t : State) : Prop :=
      let e := u.hPrio s.t.ctx hidx
      let boosted := noinh = false ∧ e < s.t.boost
      t.t = s.t.step ∧ t.mem = u.mem ∧ ∃ r, t.net = u.net ++ [r] ∧ r.isMsg = true ∧ r.payload = pl ∧ r.core = core ∧ r.ctx = s.t.ctx ∧ r.hidx = hidx ∧
        hdrHidx r.hdr = hidx ∧ hdrDst r.hdr = w % 2 ^ 16 ∧ hdrLen r.hdr = n ∧
        hdrTs r.hdr = s.ts % 2 ^ 64 ∧ r.hdr.toNat / 2 ^ 80 % 2 ^ 16 = s.t.lcore % 2 ^ 16 ∧ r.hdr.toNat / 2 ^ 124 = 0 ∧
        (e < 8 → s.t.boost < 8 → (boosted → hdrPrio r.hdr = s.t.boost ∧ r.hdr.toNat / 2 ^ 123 % 2 = 1) ∧
          (¬ boosted → hdrPrio r.hdr = e ∧ r.hdr.toNat / 2 ^ 123 % 2 = 0))
    (∀ t, s.coord (s.t.rdG d) = .error t → exec (.send h len noinh d a none) s = .next (s.trapE t) ∧
      exec (.send h len noinh d a (some b)) s = .next (s.trapE t)) ∧
    (∀ core, s.coord (s.t.rdG d) = .ok core →
      Answers (exec (.send h 0 noinh d a none) s) (posted core 0 [] s.flushMine) ∧
      (∀ pl u, len ≠ 0 → s.readPayload b (4 * len.toNat) = .ok (pl, u) →
        Answers (exec (.send h len noinh d a (some b)) s) (posted core len.toNat pl u.flushMine)) ∧
      exec (.send h 0 noinh d a (some b)) s = .next (s.trapOperand 3 3) ∧
      (len ≠ 0 → exec (.send h len noinh d a none) s = .next (s.trapOperand 3 0))) ∧
    (∀ hit n, (s.t.rdB b).pay = false → (s.t.rdB b).cursor % 4 = 0 →
      s.reach (s.t.rdB b) b.toNat 0 n 1 .load 1 = .ok hit → isCopy hit.node = false →
      s.raceCheck (s.t.rdB b) hit.node hit.off n 0 = .ok () →
      ∃ u, s.readPayload b n = .ok ((s.flushRange hit.node hit.off n).peekPlaces hit.places, u))

/-- R169, R279: SENDM posts one copy to each member core of the group that the result tree reaches, in the order of
the member list, however often the list names it, each with MCAST set and the same payload; a group with no member
completes and delivers nothing. A sender whose switch die has no VALID entry sends like any other: R279 is silent, and
this is the model's choice (log 191). The model's other reading in it: log 48. -/
def Says.SendmPosts : Prop :=
  ∀ (s : State) (h : Head) (len : BitVec 6) (noinh : Bool) (d : BReg) (a : GI) (b : BReg) (g : Nat), s.Acts h →
    s.groupPtr d = .ok g →
    let grp := s.group g
    let tree := grp.reached 4 (grp.valid.filter fun sw => eParent (grp.entry sw) == 31)
    let copies (pl : List Byte) (u t : State) : Prop := t.t = s.t.step ∧ t.mem = u.mem ∧
      ∃ l, t.net = u.net ++ l ∧
        l.map (fun r => r.core) = (grp.members.filterMap (u.mapCore s.t.ctx)).eraseDups.filter (fun core =>
          tree.contains (coreDie core / 8) && bitOn (eResult (grp.entry (coreDie core / 8))) (coreDie core % 8)) ∧
        ∀ r ∈ l, r.isMsg = true ∧ r.ctx = s.t.ctx ∧ hdrHidx r.hdr = (s.t.gi a).toNat % 2 ^ 16 ∧ r.payload = pl ∧
          r.hdr.toNat / 2 ^ 124 % 2 = 1 ∧ hdrTs r.hdr = s.ts % 2 ^ 64
    Answers (exec (.sendm h 0 noinh d a none) s) (copies [] s.flushMine) ∧
    (∀ pl u, len ≠ 0 → s.readPayload b (4 * len.toNat) = .ok (pl, u) →
      Answers (exec (.sendm h len noinh d a (some b)) s) (copies pl u.flushMine)) ∧
    (exec (.sendm h 0 noinh d a (some b)) s = .next (s.trapOperand 3 3)) ∧
    (len ≠ 0 → exec (.sendm h len noinh d a none) s = .next (s.trapOperand 3 0))

/-- R170: POST without a cell has one continuation record join its channel of the issuing core at once, behind those
there; with one, it arms the cell with the
record, the issuer's word, context and priority, or traps where it is armed already. An odd pair, and a cell that
does not match JOINCNT, trap, and so does a tagged FRAME without G for a pool-bound channel. The model's own reading
in it: log 47. -/
def Says.PostsRecord : Prop :=
  ∀ (s : State) (h : Head) (a : GReg) (c : BReg) (b : Option BReg) (d : Option BReg), s.Acts h →
    let ctl := (s.t.rdG a).toNat
    let jc := ctl / 2 ^ 32 % 2 ^ 32
    let frame : Ptr := match b with
      | some r => s.t.rdB r
      | none => {}
    let local_ : Prop := frame.tag = true ∧ frame.perms / 64 % 2 = 0
    (a.toNat % 2 = 1 → exec (.post h d a b) s = .next (s.trapOperand 2 1)) ∧
    (a.toNat % 2 = 0 →
      (jc ≠ 0 → exec (.post h none a b) s = .next (s.trapOperand 1 0)) ∧
      (jc = 0 → exec (.post h (some c) a b) s = .next (s.trapOperand 1 3)) ∧
      (jc = 0 → local_ → s.poolBound (s.t.rdG a) = true → exec (.post h none a b) s = .next (s.trap 0x11 0 64)) ∧
      (jc = 0 → ¬ (local_ ∧ s.poolBound (s.t.rdG a) = true) →
        let u := s.flushMine
        let key := 16 * (s.cur / 8) + ctl / 2 ^ 16 % 2 ^ 4
        let c := u.chan key
        ∃ r : Rec, r.isMsg = false ∧ r.core = s.cur / 8 ∧ r.hidx = ctl % 2 ^ 16 ∧ r.chan = ctl / 2 ^ 16 % 2 ^ 4 ∧
          r.arg = s.t.rdG (a + 1) ∧ r.frame = frame ∧ r.genarg = bitOn ctl 24 ∧ r.ctx = s.t.ctx ∧
          Answers (exec (.post h none a b) s) (fun t => t = (u.arriveRec r).next ∧ t.t = s.t.step ∧
            ((u.ctx s.t.ctx).live = true → (u.ctx s.t.ctx).stopped = false → u.faulted (u.ctx s.t.ctx).fn = false →
              countMine (s.cur / 8) s.t.ctx c.ingress = 0 → countMine (s.cur / 8) s.t.ctx c.spilled = 0 →
              countMine (s.cur / 8) s.t.ctx c.onchip < 64 →
              t.mem = u.mem ∧ t.net = u.net ∧ t.chan key = { c with onchip := c.onchip ++ [{ r with arrTs := s.ts }] }))) ∧
      (jc ≠ 0 → s.awaitsWrite (s.t.rdB c) = false →
        (∀ t, s.arm c (s.t.rdG a) (s.t.rdG (a + 1)) frame = .error t → exec (.post h (some c) a b) s = .next (s.trapE t)) ∧
        ∀ hit pl e off, s.checkPtr s.t.ctx (s.t.rdB c) c.toNat 0 64 10 = .ok (e, off) → off % 64 = 0 →
          ¬ (local_ ∧ (s.poolBound (s.t.rdG a) = true ∨ nodePad e.node ≠ some s.myPad)) →
          s.reach (s.t.rdB c) c.toNat 0 64 10 .atomic 64 = .ok hit → hit.places = [(pl, 64)] →
          s.raceCheck (s.t.rdB c) hit.node hit.off 64 3 = .ok () →
          let u := s.flushHandle (s.t.rdB c) hit.node hit.off 64
          (u.armed pl.addr = true → exec (.post h (some c) a b) s = .next (s.trapOperand 1 3)) ∧
          (u.armed pl.addr = false → Answers (exec (.post h (some c) a b) s) (fun t => t.t = s.t.step ∧ t.net = u.net ∧
            SameOutside u t hit.places ∧ tget false t.marks (pl.addr / 64) = true ∧
            tget false t.tags (pl.addr / 16 + 1) = frame.tag ∧
            let x := t.peekN pl.addr 64
            x % 2 ^ 16 = ctl % 2 ^ 16 ∧ x / 2 ^ 16 % 2 ^ 4 = ctl / 2 ^ 16 % 2 ^ 4 ∧ bitOn x 24 = bitOn ctl 24 ∧
            x / 2 ^ 32 % 2 ^ 32 = jc ∧ x / 2 ^ 64 % 2 ^ 64 = (s.t.rdG (a + 1)).toNat ∧
            x / 2 ^ 128 % 2 ^ 128 = frame.raw.toNat ∧ bitOn x 296 = true ∧
            (s.t.lcore < 4096 → s.t.ctx < 65536 → x / 2 ^ 256 % 2 ^ 12 = s.t.lcore ∧ x / 2 ^ 300 % 2 ^ 16 = s.t.ctx ∧
              x / 2 ^ 297 % 2 ^ 3 = min 7 s.t.eff)))))

/-- R172: a JOIN is issued behind the activation's earlier posted writes, performed at once at an own home and posted
to another. At its home it takes its amount off an armed cell's count; the one that brings it to 0 disarms the cell
and posts its record; an amount above the count, or a cell that is not armed, is refused with a dispatch fault and
leaves the cell. An amount of 0 or above 2^32 − 1 traps. The model's own readings in it: log 47, 180. -/
def Says.JoinCounts : Prop :=
  (∀ (s : State) (h : Head) (d : BReg) (a : GI), s.Acts h →
    let k := (s.t.gi a).toNat
    (k = 0 ∨ 2 ^ 32 ≤ k → exec (.join h d a) s = .next (s.trapOperand 2 (giKind a))) ∧
    (0 < k → k < 2 ^ 32 → s.awaitsWrite (s.t.rdB d) = false →
      (∀ t, s.joinIssue d k = .error t → exec (.join h d a) s = .next (s.trapE t)) ∧
      ∀ hit pl n, s.reach (s.t.rdB d) d.toNat 0 64 8 .atomic 64 = .ok hit → hit.places = [(pl, n)] →
        s.raceCheck (s.t.rdB d) hit.node hit.off 64 3 = .ok () →
        let u := s.flushMine
        ∃ j : JoinReq, j.k = k ∧ j.node = hit.node ∧ j.off = hit.off ∧ j.place = pl ∧ j.ctx = s.t.ctx ∧
          (s.remote hit.node = true → Answers (exec (.join h d a) s) (fun t => t.t = s.t.step ∧ t.mem = u.mem ∧
            t.joins = u.joins ++ [j])) ∧
          (s.remote hit.node = false → Answers (exec (.join h d a) s) (fun t => t.t = s.t.step ∧
            ∃ v : State, v.mem = u.mem ∧ v.net = u.net ∧ t = (v.joinAt j).next)))) ∧
  ∀ (s : State) (j : JoinReq), j.place.addr % 64 = 0 →
    let x := s.peekN j.place.addr 64
    let left := x / 2 ^ 32 % 2 ^ 32
    let live : Prop := (s.hlook j.ctx j.handle.toNat j.gen).isSome = true
    (¬ live ∨ s.armed j.place.addr = false ∨ left < j.k →
      (s.traces = [] → (s.joinAt j).mem = s.mem) ∧ (s.joinAt j).marks = s.marks ∧
      ((s.joinAt j).dropped = s.dropped + 1 ∨ ∃ r, (s.joinAt j).net = s.net ++ [r] ∧ hdrPrio r.hdr = 7)) ∧
    (live → s.armed j.place.addr = true →
      (j.k < left → 0 < j.k → (s.joinAt j).peekN j.place.addr 64 / 2 ^ 32 % 2 ^ 32 = left - j.k ∧
        (s.joinAt j).armed j.place.addr = true ∧ (s.joinAt j).net = s.net) ∧
      (j.k = left → (s.joinAt j).armed j.place.addr = false ∧
        ∀ core, (s.joinAt j).mapCore (x / 2 ^ 300 % 2 ^ 16) (x / 2 ^ 256 % 2 ^ 12) = some core →
          ∃ r, (s.joinAt j).net = s.net ++ [r] ∧ r.isMsg = false ∧ r.core = core ∧ r.hidx = x % 2 ^ 16 ∧
            r.chan = x / 2 ^ 16 % 2 ^ 4 ∧ r.arg = w64 (x / 2 ^ 64 % 2 ^ 64) ∧ r.ctx = x / 2 ^ 300 % 2 ^ 16))

/-- R175, R176: QADV moves a bound register past n reserved slots and traps where fewer are left; QSTAT reports the
register and its ring, after the activation's own appends to a ring there; QBIND binds registers 4 to 15 with nothing
reserved, and INIT writes the descriptor. ADV, a COUNT where none may be, an unbound register for QADV, registers 0 to
3 and a bad offset trap with ILLEGAL_OPERAND. -/
def Says.QueueRegisters : Prop :=
  ∀ (s : State) (h : Head) (d : QOp) (g : GReg) (a : GI) (b : GReg), s.Acts h →
    let q := s.t.rdQ d.q
    let off := (s.t.gi a).toNat % 2 ^ 21
    let bad (u : State) : Prop := exec (.qbind h d a) s = .next u ∧ exec (.qbindInit h d a b) s = .next u
    (d.adv = true ∨ q.bound = false → exec (.qadv h d) s = .next (s.trapOperand 1 4)) ∧
    (d.adv = false → q.bound = true →
      (d.c = 0 → exec (.qadv h d) s = .next s.next) ∧
      (d.c.toNat ≤ q.left → 0 < d.c.toNat → s.raceCheck {} (padNode s.myPad) q.desc 32 3 = .ok () →
        Answers (exec (.qadv h d) s) (fun t => t.t.rdQ d.q = { q with pos := q.pos + d.c.toNat, left := q.left - d.c.toNat } ∧
          t.t.pc = s.t.pc + 12 ∧ ∀ x, x ≠ d.q → t.t.rdQ x = s.t.rdQ x)) ∧
      (q.left < d.c.toNat → exec (.qadv h d) s =
        .next (s.trap (if q.prod then 0x22 else 0x21) 0 (d.q.toNat + d.c.toNat * 256)))) ∧
    (d.adv = true ∨ d.c ≠ 0 → exec (.qstat h g d) s = .next (s.trapOperand 2 4)) ∧
    (d.adv = false → d.c = 0 → q.bound = false → exec (.qstat h g d) s = .next (s.retG g 0)) ∧
    (d.adv = false → d.c = 0 → q.bound = true → s.raceCheck {} (padNode s.myPad) q.desc 32 2 = .ok () →
      let u := s.flushAppends s.myPad
      let ds := u.desc s.myPad q.desc
      let filled := (ds.tail + 2 ^ 32 - ds.head) % 2 ^ 32
      Answers (exec (.qstat h g d) s) (fun t => t.mem = u.mem ∧ (s.posted = [] → u = s) ∧
        t.t = (s.t.wrG g (w64 (q.left % 256 + q.pos % 256 * 2 ^ 8 + 2 ^ 16 + q.prod.toNat * 2 ^ 17 +
          min filled 0xFFFF * 2 ^ 32 + (ds.size - filled) % 2 ^ 16 * 2 ^ 48))).step)) ∧
    (d.adv = true ∨ d.c ≠ 0 ∨ d.q.toNat < 4 → bad (s.trapOperand 1 4)) ∧
    (d.adv = false → d.c = 0 → 4 ≤ d.q.toNat → off % 32 ≠ 0 ∨ s.myPadSize < off + 32 → bad (s.trapOperand 2 (giKind a))) ∧
    (d.adv = false → d.c = 0 → 4 ≤ d.q.toNat → off % 32 = 0 → off + 32 ≤ s.myPadSize →
      let new := initDesc (s.t.rdG b).toNat
      let bound : QReg := { bound := true, desc := off }
      exec (.qbind h d a) s = .next (s.setT (s.t.wrQ d.q bound).step) ∧
      ((descOf new).faulty s.myPadSize = true → exec (.qbindInit h d a b) s = .next (s.trapOperand 3 1)) ∧
      ((descOf new).faulty s.myPadSize = false → s.raceCheck {} (padNode s.myPad) off 32 3 = .ok () →
        let u := s.flushAppends s.myPad
        let old := u.desc s.myPad off
        (old.cheld ≠ 0 ∨ old.pheld ≠ 0 → exec (.qbindInit h d a b) s = .next (u.trapOperand 2 1)) ∧
        (old.cheld = 0 → old.pheld = 0 →
          Answers (exec (.qbindInit h d a b) s) (fun t => t.t = (s.t.wrQ d.q bound).step ∧
            t.peekN (padAddr s.myPad off) 32 = new))))

/-- R177: SEMV adds to the semaphore of the issuing tile or of the tile whose object its pointer names, saturating at
2^32 − 1, at once in the own tile and posted to another; 0 adds nothing. SEMQ reads one, after the activation's own
posted SEMVs. The model's own reading in it: log 44. -/
def Says.Semaphores : Prop :=
  ∀ (s : State) (h : Head) (d a : GI) (g : GReg) (b : Option BReg), s.Acts h →
    let id := (s.t.gi d).toNat % 32
    let n := (s.t.gi a).toNat
    (∀ t, s.semBank b id = .error t → exec (.semv h d a b) s = .next (s.trapE t) ∧ exec (.semq h g d b) s = .next (s.trapE t)) ∧
    (∀ pad, s.semBank b id = .ok pad →
      (b = none → pad = s.myPad) ∧
      (∀ r, b = some r → ∃ e off die t, s.checkPtr s.t.ctx (s.t.rdB r) r.toNat (id * 4) 4 8 = .ok (e, off) ∧
        e.node = .sem die t ∧ pad = 32 * die + t) ∧
      (n ≠ 0 → pad = s.myPad → Answers (exec (.semv h d a b) s) (fun t => t.t = s.t.step ∧ t.mem = s.flushMine.mem ∧
        t.sem pad id = min (s.flushMine.sem pad id + n) (2 ^ 32 - 1) ∧
        ∀ p k, semKey p k ≠ semKey pad id → t.sem p k = s.flushMine.sem p k)) ∧
      (n ≠ 0 → pad ≠ s.myPad → Answers (exec (.semv h d a b) s) (fun t => t.t = s.t.step ∧ t.sems = s.flushMine.sems ∧
        ∃ r, t.semvs = s.flushMine.semvs ++ [r] ∧ r.pad = pad ∧ r.sem = id ∧ r.amount = n)) ∧
      (n = 0 → exec (.semv h d a b) s = .next s.next) ∧
      exec (.semq h g d b) s = .next (s.flushMySemvs.retG g (w64 (s.flushMySemvs.sem pad id))) ∧
      s.flushMySemvs.semvs = (s.semvs.filter fun r => r.party != s.t.party) ∧ (s.semvs = [] → s.flushMySemvs = s))

/-- R178 to R180: SWSET writes its sync word in the issuing tile's pad, BUMP after the activation's earlier posted
writes, and the word advances as R179 says; SWREAD reads GEN, the control bits and WPRIO, or GEN and COUNT. The
target 0 and an offset that is misaligned or outside the pad trap. The model's own reading in it: log 41. -/
def Says.SyncWords : Prop :=
  ∀ (s : State) (h : Head) (hi keep bump : Bool) (d b : GI) (a : GReg) (g : GReg), s.Acts h →
    let off := (s.t.gi d).toNat % 2 ^ 21
    let target := (s.t.rdG a).toNat % 2 ^ 32
    let ctl := (s.t.gi b).toNat
    let u := if bump then s.flushMine else s.flushAppends s.myPad
    let at_ := padAddr s.myPad off
    (off % 16 ≠ 0 ∨ s.myPadSize < off + 16 → exec (.swset h keep bump d a b) s = .next (s.trapOperand 1 (giKind d)) ∧
      exec (.swread h hi g d) s = .next (s.trapOperand 2 (giKind d))) ∧
    (off % 16 = 0 → off + 16 ≤ s.myPadSize →
      (target = 0 → exec (.swset h keep bump d a b) s = .next (s.trapOperand 2 1)) ∧
      (target ≠ 0 → s.raceCheck {} (padNode s.myPad) off 16 3 = .ok () →
        Answers (exec (.swset h keep bump d a b) s) (fun t => t.t = s.t.step ∧ t.net = u.net ∧
          SameOutside u t [({ addr := at_ }, 16)] ∧
          let old := u.peekN at_ 16
          let x := swWord old target ctl keep bump
          x % 2 ^ 32 = target ∧ x / 2 ^ 32 % 2 ^ 32 = (if keep then old / 2 ^ 32 % 2 ^ 32 else 0) ∧
          x / 2 ^ 64 % 2 ^ 32 = (old / 2 ^ 64 % 2 ^ 32 + bump.toNat) % 2 ^ 32 ∧ bitOn x 96 = bitOn ctl 0 ∧
          bitOn x 97 = bitOn ctl 1 ∧ x / 2 ^ 104 % 2 ^ 8 = ctl / 2 ^ 8 % 2 ^ 8 ∧
          t.peekN at_ 16 = (swAdvance x).2)) ∧
      (s.raceCheck {} (padNode s.myPad) off 16 2 = .ok () →
        let v := s.flushAppends s.myPad
        let w := v.peekN at_ 16
        Answers (exec (.swread h hi g d) s) (fun t => t.mem = v.mem ∧ (s.posted = [] → v = s) ∧
          t.t = (s.t.wrG g (w64 (if hi then w / 2 ^ 64 % 2 ^ 34 + min 7 (w / 2 ^ 104 % 2 ^ 8) * 2 ^ 40
            else w / 2 ^ 64 % 2 ^ 32 + w / 2 ^ 32 % 2 ^ 32 * 2 ^ 32))).step)))

/-- R179: a sync word advances while it is armed and COUNT is at least TARGET: each time COUNT falls by TARGET, GEN
rises by one and ARMED stays only where AUTO is set. -/
def Says.SyncAdvances : Prop :=
  ∀ w : Nat, w < 2 ^ 128 →
    let target := w % 2 ^ 32
    let count := w / 2 ^ 32 % 2 ^ 32
    let (k, x) := swAdvance w
    (bitOn w 96 = false ∨ target = 0 ∨ count < target → k = 0 ∧ x = w) ∧
    (bitOn w 96 = true → target ≠ 0 → target ≤ count →
      k = (if bitOn w 97 then count / target else 1) ∧ x / 2 ^ 32 % 2 ^ 32 = count - k * target ∧
      x / 2 ^ 64 % 2 ^ 32 = (w / 2 ^ 64 % 2 ^ 32 + k) % 2 ^ 32 ∧ bitOn x 96 = bitOn w 97 ∧ x % 2 ^ 32 = target ∧
      x / 2 ^ 97 = w / 2 ^ 97)

/-! ### Groups of the statements above -/

/-- Queue slots, vector accesses of them among these, and queue registers (R138, R163, R164, R174 to R176). -/
def Obligations.QueueInstructions : Prop := Says.QueueSlots ∧ Says.QueueVectors ∧ Says.QueueRegisters

/-- SEND, SENDM, POST and JOIN (R43, R167 to R170, R172, R279). SENDM rests on log 191 for a sender whose switch die
has no VALID entry. -/
def Obligations.MessageInstructions : Prop := Says.SendPosts ∧ Says.SendmPosts ∧ Says.PostsRecord ∧ Says.JoinCounts

/-- Semaphores and sync words (R177 to R180). -/
def Obligations.SemaphoresAndSyncWords : Prop := Says.Semaphores ∧ Says.SyncWords ∧ Says.SyncAdvances

/-! ### Matrix engine (R182 to R229) -/

/-- R184, R202, R203: SCLAIM takes the lowest run of free sheets in every quarto of the group, with m1 all ones, or
takes none, with m1 zero; a count that is not 1 to 128 traps. SREL gives held sheets back and traps with SHEET on
the first one that is not held. The model's own readings in it: log 57, 59, 65. -/
def Says.SheetClaims : Prop :=
  ∀ (s : State) (h : Head) (d : GReg) (x a : GI) (f : Nat), s.Acts h → (s.role = 0 ∨ s.role = 2) →
    let n := (s.t.gi a).toNat
    (n = 0 ∨ 128 < n → exec (.sclaim h d a) s = .next (s.trapOperand 2 (giKind a))) ∧
    (1 ≤ n → n ≤ 128 →
      (s.claimRun s.t.ctx n s.myGroup = some f → Answers (exec (.sclaim h d a) s) (fun t =>
        t.t = ((s.t.wrG d (w64 f)).wrM 1 (BitVec.allOnes 256)).step ∧ t.mem = s.mem ∧
        (∀ q ∈ s.myGroup, ∀ i, i < n → s.freeRun q f n = true ∧ tget 0 (t.quarto q).holder (f + i) = s.t.ctx) ∧
        ∀ g, g < f → ∃ q ∈ s.myGroup, s.freeRun q g n = false)) ∧
      (s.claimRun s.t.ctx n s.myGroup = none → exec (.sclaim h d a) s =
        .next (s.setT ((s.t.wrG d (BitVec.allOnes 64)).wrM 1 0).step)) ∧
      (s.t.gi x = w64 f → f + n ≤ 128 →
        ((∀ i, i < n → ∀ q ∈ s.myGroup, s.holdsSheet s.t.ctx q (f + i) = true) →
          Answers (exec (.srel h x a) s) (fun t => t.t = s.t.step ∧
            ∀ q ∈ s.myGroup, ∀ i, i < n → tget 0 (t.quarto q).holder (f + i) = 0)) ∧
        (∀ i, i < n → (∀ j, j < i → ∀ q ∈ s.myGroup, s.holdsSheet s.t.ctx q (f + j) = true) →
          (∃ q ∈ s.myGroup, s.holdsSheet s.t.ctx q (f + i) = false) →
          exec (.srel h x a) s = .next (s.trap 0x23 0 (f + i)))))

/-- R204, R205: an SLOAD or SSAVE that passes its checks is accepted behind the commands already at the port, with
its sheet, rows, pointer and tag, and moves nothing yet. An acquiring SLOAD and a releasing SSAVE of a scope
beyond the core set out after the activation's earlier posted stores, and the SLOAD's party starts with what the
activation has. The
model's own readings in it: log 61, 63. -/
def Says.SheetMoves : Prop :=
  ∀ (s : State) (h : Head) (od : Ord3) (sc : Scope3) (x : GI) (m : MemOp) (b : GReg)
    (sheet off hidx tag first rows : Nat) (scale : Bool),
    s.ActsAs h 0 → moveCtl (s.t.rdG b) = .ok (hidx, tag, scale, first, rows) →
    s.sheetCheck s.myGroup sheet = .ok () →
    let p := s.t.rdB m.b
    let taken (edge rel : Bool) (cmd : PortCmd) (t : State) : Prop :=
      let u := if edge then s.flushMine else s
      t.t = s.t.step ∧ t.mem = u.mem ∧ t.sheetMem = u.sheetMem ∧
      t.parties = (u.newParty (if edge && !rel then u.carry s.t.party else [])).2.parties ∧
      ∃ o, t.port = u.port ++ [o] ∧ o.cmd = cmd ∧ o.quarto = s.myQuarto ∧ o.core = s.cur / 8 ∧ o.ctx = s.t.ctx ∧
        o.tag = tag ∧ o.hidx = hidx ∧ o.beat = 0 ∧ o.party = u.nextParty ∧ o.rel = rel
    (s.sheetNum x 1 = .ok sheet →
      s.padRegion p m.b.toNat (dispOf m 256) (moveBytes rows scale) 1 16 (ownPad s.myPad 2) = .ok off →
      Answers (exec (.sload h od sc x m b) s)
        (taken (acquires od.toNat && decide (1 ≤ sc.toNat)) false (.sload sheet first rows scale p off))) ∧
    (s.sheetNum x 2 = .ok sheet →
      s.padRegion p m.b.toNat (dispOf m 256) (moveBytes rows scale) 2 16 (ownPad s.myPad 1) = .ok off →
      Answers (exec (.ssave h od sc m x b) s)
        (taken (releases od.toNat && decide (1 ≤ sc.toNat)) (releases od.toNat && decide (1 ≤ sc.toNat))
          (.ssave sheet first rows scale p off)))

/-- R206, R210, R211, R216: each of these takes effect at its issue, after the earlier commands at the ports that it
meets: MWLD latches the sheet's bytes; MZERO zeroes its rows and no other, and where they are a whole half sets its
mode and anchor, and traps on part of a half whose mode or anchor differ; MACCLD overwrites rows; MSTAT reads a half's
word, and its CLR form clears the sticky bits. The model's own readings in it: log 54, 60, 64. -/
def Says.MatrixState : Prop :=
  ∀ (s : State) (h : Head) (et : EType) (nib : Bool) (x a : GI) (d : GReg) (m : MemOp), s.ActsAs h 2 →
    let q := s.myQuarto
    (∀ sheet, s.sheetNum x 1 = .ok sheet → s.sheetCheck s.myGroup sheet = .ok () →
      let u := s.portBefore [rSheet q sheet] [rWeights q]
      Answers (exec (.mwld h et nib x) s) (fun t => t.t = u.t.step ∧
        (t.quarto q).weights = { ctx := u.t.ctx, et := et, nib := nib, data := u.sheetCells q sheet })) ∧
    (let w := (s.t.rdG d).toNat
     let first := w % 2 ^ 8
     let rows := w / 2 ^ 8 % 2 ^ 8
     let mode := BitVec.ofNat 3 (w / 2 ^ 32 % 2 ^ 3)
     let hf := s.half q (first / 128)
     let u := s.portBefore [] (rRows q first rows ++ if rows = 128 then [rHalf q (first / 128)] else [])
     (zeroCtlOk (s.t.rdG d) = false → exec (.mzero h d) s = .next (s.trapOperand 1 1)) ∧
     (zeroCtlOk (s.t.rdG d) = true → s.sheetCheck s.myGroup (128 + first / 128) = .ok () →
      (rows ≠ 128 → (hf.mode ≠ mode ∨ hf.anchor ≠ gAnchor (s.t.rdG d)) → exec (.mzero h d) s = .next (s.trapOperand 1 1)) ∧
      (rows = 128 ∨ (hf.mode = mode ∧ hf.anchor = gAnchor (s.t.rdG d)) →
        Answers (exec (.mzero h d) s) (fun t => t.t = u.t.step ∧
          (∀ i j, i < rows → j < 128 → t.accAt q (first + i) j = {}) ∧
          (∀ r j, j < 128 → r < 256 → (r < first ∨ first + rows ≤ r) → t.accAt q r j = u.accAt q r j) ∧
          (rows = 128 → t.half q (first / 128) = { mode := mode, anchor := gAnchor (s.t.rdG d) }) ∧
          (rows ≠ 128 → ∀ k, t.half q k = u.half q k))))) ∧
    (∀ (hit : Hit) (bytes : List Byte) (u : State) (off : Nat),
      let w := (s.t.rdG d).toNat
      let n := loadSize et.toNat
      let first := w % 2 ^ 8
      let rows := w / 2 ^ 8 % 2 ^ 8
      w / 2 ^ 16 = 0 → rowsOk first rows = true → s.sheetCheck s.myGroup (128 + first / 128) = .ok () →
      loadModeOk et.toNat (s.half q (first / 128)).mode.toNat = true →
      s.padRegion (s.t.rdB m.b) m.b.toNat (dispOf m n) (128 * rows * n) 1 n (ownPad s.myPad 2) = .ok off →
      s.reach (s.t.rdB m.b) m.b.toNat (dispOf m n) (128 * rows * n) 1 .load 1 = .ok hit →
      s.readHit (s.t.rdB m.b) hit (128 * rows * n) 0 0 = .ok (bytes, u) →
      exec (.maccld h et d m) s = .next (u.loadRows et.toNat first rows bytes).next) ∧
    (∀ k, s.t.gi a = w64 k → k ≤ 1 → s.sheetCheck s.myGroup (128 + k) = .ok () →
      let u := s.portBefore [rHalf q k] []
      let v := s.portBefore [rHalf q k] [rHalf q k]
      exec (.mstat h d a) s = .next (u.retG d (u.half q k).word) ∧
      Answers (exec (.mstatClr h d a) s) (fun t => t.t = (v.t.wrG d (v.half q k).word).step ∧
        t.half q k = { mode := (v.half q k).mode, anchor := (v.half q k).anchor })) ∧
    (1 < (s.t.gi a).toNat → exec (.mstat h d a) s = .next (s.trapOperand 2 (giKind a)) ∧
      exec (.mstatClr h d a) s = .next (s.trapOperand 2 (giKind a)))

/-- R186, R187, R207: an MGANG that is not the last of its group is kept at the barrier; the last one of an
agreeing group starts the operation, and of one that differs traps with the mask, with the barrier empty again; a
core's second arrival traps with GANG_MISMATCH, and a control or stream word with a bad field with
ILLEGAL_OPERAND. The model's own reading in it: log 58. -/
def Says.GangArrivals : Prop :=
  ∀ (s : State) (h : Head) (et : EType) (nib : Bool) (d : GReg) (a : GI), s.ActsAs h 2 →
    let ctl := s.t.rdG d
    let st := s.t.gi a
    let lead := leadOf s.myGroup
    let arrs := tget [] (s.quarto lead).barrier s.t.ctx
    let fresh : Bool := arrs.all fun e => e.core != s.cur / 8
    let streamOk : Prop := st.toNat / 2 ^ 14 = 0 ∧ aRow st + gM ctl ≤ 128
    (gangCtlOk ctl = false → exec (.mgang h et nib d a) s = .next (s.trapOperand 1 1)) ∧
    (gangCtlOk ctl = true → ¬ streamOk → exec (.mgang h et nib d a) s = .next (s.trapOperand 2 (giKind a))) ∧
    (gangCtlOk ctl = true → streamOk →
    s.sheetCheck s.myGroup (aSheet st) = .ok () → s.sheetCheck s.myGroup (128 + gRow ctl / 128) = .ok () →
    (fresh = true → arrs.length + 1 < 8 * s.myGroup.length →
      Answers (exec (.mgang h et nib d a) s) (fun t => t.t = s.t.step ∧ t.port = s.port ∧
        ∃ e, tget [] (t.quarto lead).barrier s.t.ctx = arrs ++ [e] ∧ e.core = s.cur / 8 ∧ e.ctl = ctl ∧ e.stream = st)) ∧
    (∀ mask, fresh = true → 8 * s.myGroup.length ≤ arrs.length + 1 →
      (∀ e : Arrival, e.core = s.cur / 8 → e.ctl = ctl → e.et = et → e.nib = nib →
        s.gangMask s.t.ctx s.myGroup (arrs ++ [e]) e = mask) →
      (mask = 0 → Answers (exec (.mgang h et nib d a) s) (fun t => t.t = s.t.step ∧
        tget [] (t.quarto lead).barrier s.t.ctx = [] ∧
        ∃ e o, t.port = s.port ++ [o] ∧ o.cmd = .gang s.myGroup (arrs ++ [e]) ctl ∧ e.core = s.cur / 8)) ∧
      (mask ≠ 0 → ∃ u : State, exec (.mgang h et nib d a) s = .next (u.trap 0x24 0 mask) ∧
        tget [] (u.quarto lead).barrier s.t.ctx = [] ∧ u.port = s.port ∧ u.t = s.t)) ∧
    (fresh = false → exec (.mgang h et nib d a) s = .next (s.trap 0x24 0 128)))

/-- R212 to R215: an MDRAIN that passes its checks is accepted with its rows, its format, its rounding mode, its
requantising table as read at issue, and the core that its completion goes to; a releasing one whose scope holds
the quarto and that core sets out after the activation's earlier posted stores. The model's own reading in it: log
63. -/
def Says.DrainIssue : Prop :=
  ∀ (s : State) (h : Head) (et : EType) (r : Rnd) (od : Ord3) (sc : Scope3) (d b : GReg) (a : BReg) (core off : Nat),
    s.ActsAs h 2 →
    let x := (s.t.rdG b).toNat
    let first := x % 2 ^ 8
    let rows := x / 2 ^ 8 % 2 ^ 8
    let n := drainSize et.toNat
    s.coord (s.t.rdG d) = .ok core → rowsOk first rows = true → s.sheetCheck s.myGroup (128 + first / 128) = .ok () →
    s.padRegion (s.t.rdB a) a.toNat 0 (128 * rows * n) 2 n (drainPad core) = .ok off →
    let cmd (q : Option Rq) : PortCmd := .drain first rows et (s.t.mode r) q (s.t.rdB a) off core
    let rel := releases od.toNat && drainScope sc.toNat s.myQuarto core
    let taken (v : State) (q : Option Rq) (t : State) : Prop :=
      let u := if rel then v.flushMine else v
      t.t = s.t.step ∧ t.mem = u.mem ∧ ∃ o, t.port = u.port ++ [o] ∧ o.cmd = cmd q ∧ o.quarto = s.myQuarto ∧
        o.hidx = x / 2 ^ 48 % 2 ^ 16 ∧ o.ctx = s.t.ctx ∧ o.rel = rel
    (drainModeOk et.toNat (s.half s.myQuarto (first / 128)).mode.toNat false = true →
      Answers (exec (.mdrain h et r od sc d a b) s) (taken s none)) ∧
    (∀ q u, drainModeOk et.toNat (s.half s.myQuarto (first / 128)).mode.toNat true = true → a.toNat % 2 = 0 →
      s.readTable et.toNat (a + 1) = .ok (q, u) →
      Answers (exec (.mdrainRq h et r od sc d a b) s) (taken u (some q))) ∧
    (a.toNat % 2 = 1 → exec (.mdrainRq h et r od sc d a b) s = .next (s.trapOperand 2 3))

/-- R221, R222, R224, R226, R227: MTWID keeps the plan for the context; MDREV, MBFLY and MCMUL are accepted with
the plan as it stands; MBEXP reads a sheet's exponent after the earlier commands that it meets, and its SET form
replaces it. A bad plan or radix word, and a transform without a plan, trap. The model's own reading in it: log
67. -/
def Obligations.ButterflyIssue : Prop :=
  ∀ (s : State) (h : Head) (d a : GReg) (x y : GI) (scale : BitVec 3) (conj : Bool), s.ActsAs h 2 →
    let p := s.plan
    let taken (cmd : PortCmd) (t : State) : Prop := t.t = s.t.step ∧ t.sheetMem = s.sheetMem ∧ t.mem = s.mem ∧
      ∃ o, t.port = s.port ++ [o] ∧ o.cmd = cmd ∧ o.quarto = s.myQuarto ∧ o.ctx = s.t.ctx
    (∀ n b t inv rs, planWord (s.t.rdG d) = some (n, b, t, inv) → radixWord (s.t.rdG a) n = some rs →
      Answers (exec (.mtwid h d a) s) (fun u => u.t = s.t.step ∧
        u.plan = { n := n, b := b, t := t, inv := inv, radices := rs } ∧ rs.foldl (· * ·) 1 = n)) ∧
    (planWord (s.t.rdG d) = none → exec (.mtwid h d a) s = .next (s.trapOperand 1 1)) ∧
    (∀ n b t inv, planWord (s.t.rdG d) = some (n, b, t, inv) → radixWord (s.t.rdG a) n = none →
      exec (.mtwid h d a) s = .next (s.trapOperand 2 1)) ∧
    (p = {} → exec (.mdrev h x y) s = .next (s.trapOperand 1 (giKind x)) ∧
      exec (.mbfly h scale x y a) s = .next (s.trapOperand 1 (giKind x))) ∧
    (∀ dst src, p ≠ {} → s.runNum x p.t 1 = .ok dst → s.runNum y p.t 2 = .ok src → s.runCheck dst p.t = .ok () →
      s.runCheck src p.t = .ok () →
      Answers (exec (.mdrev h x y) s) (taken (.mdrev dst src p)) ∧
      (let w := (s.t.rdG a).toNat
       w / 2 ^ 9 = 0 → w / 2 ^ 5 % 2 ^ 3 = 0 → 1 ≤ w % 2 ^ 5 → w % 2 ^ 5 ≤ p.radices.length →
        s.halfCheck (w / 2 ^ 8 % 2) = .ok () → (s.half s.myQuarto (w / 2 ^ 8 % 2)).mode = 4 →
        Answers (exec (.mbfly h scale x y a) s) (taken (.mbfly dst src p (w % 2 ^ 5) (w / 2 ^ 8 % 2) scale.toNat)))) ∧
    (∀ dst src, let w := (s.t.rdG a).toNat
      let t := w / 2 ^ 12 % 2 ^ 4
      let bs := w % 2 ^ 7
      1 ≤ t → t ≤ 8 → w / 2 ^ 16 = 0 → w / 2 ^ 9 % 2 ^ 3 = 0 → w / 2 ^ 7 % 2 = 0 → bs + t ≤ 128 →
      s.runNum x t 1 = .ok dst → s.runNum y t 2 = .ok src → s.runCheck dst t = .ok () → s.runCheck src t = .ok () →
      s.runCheck bs t = .ok () → s.halfCheck (w / 2 ^ 8 % 2) = .ok () →
      Answers (exec (.mcmul h scale conj x y a) s) (taken (.mcmul dst src bs t (w / 2 ^ 8 % 2) scale.toNat conj))) ∧
    (∀ sheet, s.sheetNum x 2 = .ok sheet → s.runCheck sheet 1 = .ok () →
      let q := s.myQuarto
      let u := s.portBefore [rSheet q sheet] []
      let v := s.portBefore [rSheet q sheet] [rSheet q sheet]
      exec (.mbexp h d x) s = .next (u.retG d (BitVec.ofInt 64 (u.expOf q sheet))) ∧
      Answers (exec (.mbexpSet h d x y) s) (fun t => t.t = (v.t.wrG d (BitVec.ofInt 64 (v.expOf q sheet))).step ∧
        t.expOf q sheet = asInt ((s.t.gi y).toNat % 2 ^ 16) 16))

/-! ### Names (R246 to R258) -/

/-- R246, R248, R250: an instruction of class 0xC whose request word and operands pass issues one transaction, with
the next number, after the activation's earlier posted stores, and goes on; over its NAMEQ quota the transaction has
BUSY at once. A request word with reserved bits, a cell where there must be none, or an ARG out of range traps, and so
does an operand. The model's own readings in it: log 91, 94. -/
def Obligations.NameIssue : Prop :=
  ∀ (s : State) (h : Head) (d : GReg) (a b : BReg) (g : GReg) (ob : Option BReg), s.Acts h →
    let w := (s.t.rdG d).toNat
    let issues (op : Nat) (i : Instr) (r : Except Trp (Txn × State)) : Prop :=
      (s.requestOk op w = false → exec i s = .next (s.trapOperand 1 1)) ∧
      (s.requestOk op w = true →
        (∀ e, r = .error e → exec i s = .next (s.trapE e)) ∧
        (∀ x v, r = .ok (x, v) → Answers (exec i s) (fun (t : State) =>
          let u : State := v.flushMine
          t.t = s.t.step ∧ t.mem = u.mem ∧ t.net = u.net ∧ t.nextTxn = u.nextTxn + 1 ∧
          (∀ k, k ≠ u.nextTxn → t.txn k = u.txn k) ∧
          let y : Txn := t.txn u.nextTxn
          y.op = op ∧ y.ctx = s.t.ctx ∧ y.core = s.cur / 8 ∧ y.rtag = w / 2 ^ 32 % 2 ^ 16 ∧ y.hidx = w / 2 ^ 48 ∧
          y.arg = w % 2 ^ 10 ∧ y.ha = x.ha ∧ y.hb = x.hb ∧ y.off = x.off ∧ y.data = x.data ∧
          y.party = u.nextParty ∧ y.issuer = s.t.party ∧ y.die = coreDie (s.cur / 8) ∧ y.host = none ∧
          y.res = if u.nameBusy s.t.ctx (coreDie (s.cur / 8)) then some { status := nsBUSY } else none)))
    issues 0 (.nwalk h d a ob) (s.walkArgs (s.formTxn 0 w) a ob) ∧
    issues 1 (.nopen h d a) (s.oneHandle (s.formTxn 1 w) a) ∧
    issues 2 (.nclose h d a) (s.oneHandle (s.formTxn 2 w) a) ∧
    issues 3 (.nread h d a b) (s.readArgs (s.formTxn 3 w) a b) ∧
    issues 4 (.nwrite h d a b) (s.writeArgs (s.formTxn 4 w) a b) ∧
    issues 5 (.nbind h d a b) (s.twoHandles (s.formTxn 5 w) a (some b)) ∧
    issues 6 (.nunbind h d a ob) (s.twoHandles (s.formTxn 6 w) a ob) ∧
    issues 7 (.nstat h d a) (s.oneHandle (s.formTxn 7 w) a) ∧
    issues 8 (.nrevoke h d a) (s.oneHandle (s.formTxn 8 w) a) ∧
    issues 9 (.ncreate h d a g) (s.createArgs (s.formTxn 9 w) a (s.t.rdG g)) ∧
    issues 10 (.nremove h d a) (s.oneHandle (s.formTxn 10 w) a)

/-! ### Fabric and mull regions (R274 to R311) -/

/-- R289 to R293: RSLOT reserves the next w sequence numbers of its group at every switch die or none at all, and
where it falls short answers BUSY, NOT_BOUND or FULL; RFREE ends a window, RPUSH sends one chunk on its way and RSTAT
reads the group's word. The model's own readings in it: log 135, 139, 165, 181. -/
def Obligations.FabricInstructions : Prop :=
  ∀ (s : State) (h : Head) (od : Ord3) (sc : Scope3) (d b : GReg) (a : BReg) (x : GI) (v : VReg) (g : Nat), s.Acts h →
    let n := (s.t.gi x).toNat
    let grp := s.group g
    let short : Bool := grp.valid.any fun sw =>
      decide (s.quotaFree (eTenant (grp.entry sw)) sw + s.poolFree sw < n * grp.nchunk)
    (n = 0 ∨ 256 < n → exec (.rslot h d a x) s = .next (s.trapOperand 3 (giKind x))) ∧
    (s.aperturePtr a 8 = .ok g → 1 ≤ n → n ≤ 256 →
      (grp.valid = [] → exec (.rslot h d a x) s = .next (s.retG d (w64 nsNOT_BOUND))) ∧
      (grp.valid ≠ [] → 16 ≤ grp.windows.length ∨ 4096 < n * grp.nchunk →
        exec (.rslot h d a x) s = .next (s.retG d (w64 nsFULL))) ∧
      (grp.valid ≠ [] → grp.windows.length < 16 → n * grp.nchunk ≤ 4096 →
        (short = true → Answers (exec (.rslot h d a x) s) (fun t => t.t = (s.t.wrG d (w64 nsBUSY)).step ∧
          t.groups = s.groups ∧ t.slots = s.slots)) ∧
        (short = false → Answers (exec (.rslot h d a x) s) (fun t =>
          t.t = (s.t.wrG d (w64 (n * 2 ^ 16 + grp.nextseq * 2 ^ 32))).step ∧
          (t.group g).nextseq = (grp.nextseq + n) % 2 ^ 32 ∧ (∀ k, k ≠ g → t.group k = s.group k) ∧
          ∃ w, (t.group g).windows = grp.windows ++ [w] ∧ w.base = grp.nextseq ∧ w.w = n ∧ w.ctx = s.t.ctx ∧
            w.delivered = [])))) ∧
    (s.aperturePtr a 8 = .ok g →
      Answers (exec (.rfree h a x) s) (fun t => t.t = s.t.step ∧ t.mem = s.mem ∧
        (t.group g).windows = grp.windows.filter (fun w => w.base != n % 2 ^ 32) ∧ ∀ k, k ≠ g → t.group k = s.group k)) ∧
    ((s.t.rdG b).toNat / 2 ^ 40 ≠ 0 → exec (.rpush h od sc a v b) s = .next (s.trapOperand 3 1)) ∧
    (s.aperturePtr a 2 = .ok g → (s.t.rdG b).toNat / 2 ^ 40 = 0 →
      let u := if acquires od.toNat then s.flushMine else s
      Answers (exec (.rpush h od sc a v b) s) (fun t => t.t = s.t.step ∧ t.mem = u.mem ∧
        ∃ p, t.pushes = u.pushes ++ [p] ∧ p.grp = g ∧ p.body.data = s.t.rdV v ∧ p.seq = (s.t.rdG b).toNat % 2 ^ 32 ∧
          p.chunk = (s.t.rdG b).toNat / 2 ^ 32 % 2 ^ 8 ∧ p.leaf = true ∧
          p.body.know = (if acquires od.toNat then u.carry s.t.party else []))) ∧
    (s.aperturePtr a 1 = .ok g → exec (.rstat h d a) s = .next (s.retG d (s.groupWord g)))

/-- R304 to R309: MLADD posts its addends; MLREAD reads masses, estimates or the stripe's own words of the issuing
die's replica after the activation's own earlier additions, whose flags it raises first; MSPREAD over c stripes gives
the largest of their spread words, each as it is read, in ascending order, while between two readings some of the
exchanges on their way to the die arrive (which of them is the free `Config.landed`), so exactly the largest in the
issuing state where no exchange is on its way; it traps at c = 0; and MLFENCE leaves none of the activation's
additions outstanding. A count of 0 does nothing. The model's own readings in it: log 143, 144, 147, 193. -/
def Says.MullInstructions : Prop :=
  ∀ (s : State) (h : Head) (mass : Bool) (r : Rnd) (d : GReg) (v : VReg) (m : MemOp) (a : BReg) (x : GI) (k off : Nat),
    s.Acts h →
    let stripe (u : State) : Stripe := (u.region k).rep (coreDie (s.cur / 8)) (off / 4096)
    (let cnt := min (s.t.gi x).toNat (if mass then 32 else 64)
     (cnt = 0 → exec (.mladd h mass r m v x) s = .next s.next) ∧
     (cnt ≠ 0 → s.mullWords m cnt 2 1 = .ok (k, off) →
      Answers (exec (.mladd h mass r m v x) s) (fun t => t.t = s.t.step ∧ t.mull = s.mull ∧
        ∃ e, t.mullAdds = s.mullAdds ++ [e] ∧ e.region = k ∧ e.stripe = off / 4096 ∧ e.first = off % 4096 / 8 ∧
          e.die = coreDie (s.cur / 8) ∧ e.mass = mass ∧ e.rnd = s.t.mode r ∧ e.party = s.t.party ∧
          e.vals = (List.range cnt).map fun i => el (s.t.rdV v) i (if mass then 8 else 4)))) ∧
    (let cnt := min (s.t.gi x).toNat 32
     (cnt = 0 → exec (.mlread h 6 r v m (some x)) s = .next s.next) ∧
     (cnt ≠ 0 → s.mullWords m cnt 1 2 = .ok (k, off) →
      let u := s.flushStripe k (off / 4096)
      Answers (exec (.mlread h 6 r v m (some x)) s) (fun t => t.t.pc = s.t.pc + 12 ∧ t.t.fpflags = u.t.fpflags ∧
        ∀ i, i < 32 → el (t.t.rdV v) i 8 = if i < cnt
          then toBits 64 (tget 0 (stripe u).s (off % 4096 / 8 + i))
          else el (s.t.rdV v) i 8))) ∧
    (let cnt := min (s.t.gi x).toNat 64
     (cnt = 0 → exec (.mlread h 10 r v m (some x)) s = .next s.next) ∧
     (cnt ≠ 0 → s.mullWords m cnt 1 2 = .ok (k, off) →
      let u := s.flushStripe k (off / 4096)
      let est (i : Nat) := estimate (s.t.mode r) (u.region k).e (stripe u) (off % 4096 / 8 + i)
      Answers (exec (.mlread h 10 r v m (some x)) s) (fun t => t.t.pc = s.t.pc + 12 ∧
        (∀ i, i < 64 → el (t.t.rdV v) i 4 = if i < cnt then (est i).1 % 2 ^ 32 else el (s.t.rdV v) i 4) ∧
        ∀ f, f < 5 → t.t.fpflags.getLsbD f =
          (u.t.fpflags.getLsbD f || (List.range cnt).any fun i => (est i).2.toBits.getLsbD f)))) ∧
    (s.mullWords m 3 1 2 = .ok (k, off) →
      let z := stripe (s.flushStripe k (off / 4096))
      Answers (exec (.mlread h 7 r v m none) s) (fun t => t.t.pc = s.t.pc + 12 ∧
        el (t.t.rdV v) 0 8 = z.w % 2 ^ 64 ∧ el (t.t.rdV v) 1 8 = z.damaged.toNat ∧
        el (t.t.rdV v) 2 8 = z.spread.toNat ∧ ∀ i, 3 ≤ i → i < 32 → el (t.t.rdV v) i 8 = el (s.t.rdV v) i 8)) ∧
    (let c := (s.t.gi x).toNat
     (c = 0 → exec (.mspread h d a x) s = .next (s.trapOperand 3 (giKind x))) ∧
     ∀ e, c ≠ 0 → s.checkPtr s.t.ctx (s.t.rdB a) a.toNat 0 (4096 * c) 1 = .ok (e, off) →
      (off % 4096 ≠ 0 → exec (.mspread h d a x) s = .next (s.trap 0x14 (addrOf (s.t.rdB a) off) (4096 * c))) ∧
      (off % 4096 = 0 → s.regionOf e.node = some k →
      let word (u : State) (i : Nat) : Nat :=
        let y := (u.region k).rep (coreDie (s.cur / 8)) (off / 4096 + i)
        if y.damaged then 0x7F800000 else y.spread.toNat
      (∀ read : Nat → State, read 0 = s →
        (∀ i, read (i + 1) =
          (read i).landSome k (coreDie (s.cur / 8)) (Config.landed (read i).fresh (off / 4096 + i))) →
        exec (.mspread h d a x) s =
          .next ((read (c - 1)).retG d (w64 (((List.range c).map fun i => word (read i) i).foldl max 0)))) ∧
      (s.mullX = [] ∨ c = 1 →
        exec (.mspread h d a x) s = .next (s.retG d (w64 (((List.range c).map (word s)).foldl max 0)))))) ∧
    Answers (exec (.mlfence h) s) (fun t => t.mem = s.mem ∧ ∀ e ∈ t.mullAdds, e.party ≠ s.t.party)

/-- R310: MLCFG at supervisor level creates a region and returns its status, sets its cadence, resets stripes and
destroys it; at user level it traps with PRIVILEGE. The model's own reading in it: log 146. -/
def Says.MullConfig : Prop :=
  ∀ (s : State) (h : Head) (d : GReg) (a : BReg) (x : GI) (i k : Nat), s.Acts h →
    let v := (s.t.gi x).toNat
    let f := (s.t.rdB a).cursor / 4096
    (s.priv = 0 → exec (.mlcfgCreate h d a x) s = .next (s.trap 0x04 0 840) ∧
      exec (.mlcfgCadence h d a x) s = .next (s.trap 0x04 0 840) ∧ exec (.mlcfgReset h d a x) s = .next (s.trap 0x04 0 840) ∧
      exec (.mlcfgDestroy h d a x) s = .next (s.trap 0x04 0 840)) ∧
    (∀ hit bs u, 1 ≤ s.priv → v = 0 → s.reach (s.t.rdB a) a.toNat 0 64 1 .load 16 (ownPad s.myPad 2) = .ok hit →
      s.readHit (s.t.rdB a) hit 64 0 0 = .ok (bs, u) →
      exec (.mlcfgCreate h d a x) s =
        .next ((u.mullCreate (natOfBytes bs)).2.retG d (w64 (u.mullCreate (natOfBytes bs)).1))) ∧
    (1 ≤ s.priv → v ≤ 65535 → s.mullPtr a = .ok (i, k) →
      Answers (exec (.mlcfgCadence h d a x) s) (fun t => t.t = (s.t.wrG d 0).step ∧ (t.region k).cadence = v ∧
        ∀ j, j ≠ k → t.region j = s.region j)) ∧
    (1 ≤ s.priv → v ≠ 0 → s.mullPtr a = .ok (i, k) → f + v ≤ (s.region k).stripes →
      Answers (exec (.mlcfgReset h d a x) s) (fun t => t.t = (s.t.wrG d 0).step ∧
        ∀ die j, f ≤ j → j < f + v → j < 65536 → (t.region k).rep die j = {})) ∧
    (1 ≤ s.priv → v ≠ 0 → s.mullPtr a = .ok (i, k) → (s.region k).stripes < f + v →
      exec (.mlcfgReset h d a x) s = .next (s.retG d 15)) ∧
    (1 ≤ s.priv → v = 0 → s.mullPtr a = .ok (i, k) →
      Answers (exec (.mlcfgDestroy h d a x) s) (fun t => t.region k = {} ∧ ∀ e ∈ t.mullAdds, e.region ≠ k))

/-- R300, R310: what CREATE makes of a configuration block: 15 for a bad field, 3 for a member die that the context's
table does not map, 14 for members that torus links between members do not join, 9 for a name that is there, 10 for a
die with sixteen regions or without room for a replica, each of which changes nothing; else 0, and a live region with
the block's members, stripes, exponent, cadence and priority, every stripe as CREATE leaves it, under /mull/name with
the block's grant. -/
def Says.MullCreation : Prop :=
  ∀ (s : State) (x : Nat), let c := s.t.ctx
    let stripes := x / 2 ^ 320 % 2 ^ 24
    let mask := x / 2 ^ 256 % 2 ^ 32
    let dies := (List.range 32).filter fun d => bitOn mask d
    let got := s.mullCreate x
    let named (name : List Byte) : Prop := unpad (bytesOfNat 32 (x % 2 ^ 256)) = some name ∧ pathOk 1 name = true
    let good : Prop := 1 ≤ stripes ∧ stripes ≤ 65536 ∧ mask ≠ 0 ∧ ∃ name, named name
    (¬ good → got = (15, s)) ∧
    (good → (∃ d ∈ dies, s.mapDie c d = none) → got = (3, s)) ∧
    ∀ name, good → named name → (∀ d ∈ dies, s.mapDie c d ≠ none) →
      let members := (dies.filterMap (s.mapDie c)).eraseDups
      let joined : Prop := ∀ p : Nat → Prop, (∃ d ∈ members, p d) →
        (∀ d ∈ members, p d → ∀ l, l < 4 → torusTo d l ∈ members → p (torusTo d l)) → ∀ d ∈ members, p d
      let crowded : Prop := ∃ d ∈ members, 16 ≤ s.mull.countP fun e => e.2.live && e.2.members.contains d
      let there : Prop := (s.child c .mulls name).isSome = true
      (¬ joined → got = (14, s)) ∧ (joined → there → got = (9, s)) ∧ (joined → ¬ there → crowded → got = (10, s)) ∧
      (joined → ¬ there → ¬ crowded →
        (s.replicaFrames (s.ctxFn c) (4096 * stripes) members = none → got = (10, s)) ∧
        ((s.replicaFrames (s.ctxFn c) (4096 * stripes) members).isSome = true → got.1 = 0 ∧ ∃ k i,
          let r := got.2.region k
          r.live = true ∧ r.members = members ∧ r.stripes = stripes ∧ r.e = asInt (x / 2 ^ 368 % 2 ^ 8) 8 ∧
          r.cadence = x / 2 ^ 352 % 2 ^ 16 ∧ r.prio = x / 2 ^ 344 % 2 ^ 3 ∧ r.ctx = c ∧ r.fn = s.ctxFn c ∧ r.node = i ∧
          (∀ die j, r.rep die j = { s := [], w := 2 ^ 32, spread := 0x7F800000, damaged := false }) ∧
          (∀ j, j ≠ k → got.2.region j = s.region j) ∧ got.2.threads = s.threads ∧ got.2.mem = s.mem ∧
          (got.2.madeN i).kind = kMull ∧ (got.2.madeN i).size = 4096 * stripes ∧ (got.2.madeN i).region = k ∧
          (got.2.madeN i).grant = BitVec.ofNat 8 (x / 2 ^ 376 % 2 ^ 8) ∧
          got.2.names = s.names ++ [{ dir := .mulls, name := name, node := .made i, only := none }]))

/-! ### Groups of the statements above -/

/-- Claiming, releasing, loading and saving sheets (R184, R202 to R205). -/
def Obligations.Sheets : Prop := Says.SheetClaims ∧ Says.SheetMoves

/-- The matrix engine's instructions (R186, R187, R206, R207, R210 to R216). -/
def Obligations.MatrixCommands : Prop := Says.MatrixState ∧ Says.GangArrivals ∧ Says.DrainIssue

/-- The instructions of mull regions (R300, R304 to R310). -/
def Obligations.MullRegions : Prop := Says.MullInstructions ∧ Says.MullConfig ∧ Says.MullCreation

/-! ### Steps of the machine: records and dispatch (R24 to R38, R106, R274, R317) -/

/-- R26 to R29, R34, R274, R276: an arriving record joins its channel, a continuation the one it names and a message
the one its handler names: on chip while fewer than 64 are and none waits behind them, else in the backing object
while that has room, else in the ingress behind those that wait there, with a dispatch fault for the first of an
episode of its queue. A message with no handler is a dispatch fault;
one does not pass an earlier message of its sender to its core, nor what was sent before it from its die to its die in
its class; a record of a dead context is gone. The model's own readings in
it: log 71, 72, 169, 189. -/
def Says.Arrivals : Prop :=
  ∀ (s : State) (r : Rec), s.net[s.arg.a]? = some r → s.arg.b = 0 →
    let rest : State := { s with net := s.net.eraseIdx s.arg.a }
    (s.recWaits r = true → exec .recordArrival s = .next s) ∧
    (∀ x ∈ s.net, x.flit < r.flit →
      (r.isMsg = true ∧ x.isMsg = true ∧ r.sender ≠ 0 ∧ x.sender = r.sender ∧ x.core = r.core) ∨
        (r.way ≠ none ∧ x.way = r.way) → s.recWaits r = true) ∧
    (∀ m ∈ s.doneMsgs, m.flit < r.flit → r.way ≠ none → s.doneWay m = r.way → s.recWaits r = true) ∧
    (∀ x ∈ s.results, x.flit < r.flit → r.way ≠ none → s.resultWay x = r.way → s.recWaits r = true) ∧
    (s.recWaits r = false →
      ((s.ctx r.ctx).live = false → exec .recordArrival s = .next rest) ∧
      ((s.ctx r.ctx).live = true → (s.ctx r.ctx).stopped = false → s.faulted (s.ctx r.ctx).fn = false →
      let joins (ch : Nat) : Prop :=
        let c := s.chan ch
        let x : Rec := { r with arrTs := s.ts }
        let chip := countMine (ch / 16) r.ctx c.onchip
        let back := countMine (ch / 16) r.ctx c.spilled
        (countMine (ch / 16) r.ctx c.ingress = 0 →
          (back = 0 → chip < 64 → Answers (exec .recordArrival s) (fun t => t.net = rest.net ∧
            (t.chan ch).onchip = c.onchip ++ [x] ∧ (t.chan ch).spilled = c.spilled ∧ (t.chan ch).ingress = c.ingress)) ∧
          (∀ l, ¬ (back = 0 ∧ chip < 64) → back < c.backDepth.toNat → rest.backPlaces c = some l →
            Answers (exec .recordArrival s) (fun t => t.net = rest.net ∧ (t.chan ch).onchip = c.onchip ∧
              (t.chan ch).spilled = c.spilled ++ [x] ∧ (t.chan ch).ingress = c.ingress))) ∧
        (countMine (ch / 16) r.ctx c.ingress ≠ 0 ∨ (¬ (back = 0 ∧ chip < 64) ∧ c.backDepth.toNat ≤ back) →
          Answers (exec .recordArrival s) (fun t => (t.chan ch).onchip = c.onchip ∧ (t.chan ch).spilled = c.spilled ∧
            (t.chan ch).ingress = c.ingress ++ [x] ∧
            (c.episodes.contains (queueAt (ch / 16) r.ctx) = true → t.net = rest.net) ∧
            (c.episodes.contains (queueAt (ch / 16) r.ctx) = false →
              (t.dropped = s.dropped + 1 ∧ t.net = rest.net) ∨
                ∃ y, t.net = rest.net ++ [y] ∧ y.isMsg = true ∧ hdrPrio y.hdr = 7)))
      (r.isMsg = false → r.chan < 16 → joins (16 * r.core + r.chan)) ∧
      (r.isMsg = true → r.chanFixed = false → hdrLen r.hdr ≤ 60 → r.hdr.toNat / 2 ^ 125 = 0 →
        (∀ e, s.handler r.ctx r.hidx = some e → joins (16 * r.core + e / 2 ^ 284 % 16)) ∧
        (s.handler r.ctx r.hidx = none → exec .recordArrival s = .next (rest.discard r 0 1 r.hidx)))))

/-- R29, R34: a head that fails a check of the dispatcher leaves its channel, where the waiting ones move up, and is
reported, or counted where no handler is named; one that passes stays. The model's own reading in it: log 74. -/
def Says.HeadChecks : Prop :=
  ∀ (s : State) (r : Rec), s.headOf s.arg.a = some r →
    (s.recFault (s.arg.a / 16) r = none → exec .headCheck s = .next s) ∧
    (∀ kind info, s.recFault (s.arg.a / 16) r = some (kind, info) →
      exec .headCheck s = .next ((s.unqueue s.arg.a r).discard r (s.arg.a % 16) kind info) ∧
      ((s.chan s.arg.a).spilled = [] → (s.chan s.arg.a).ingress = [] →
      Answers (exec .headCheck s) (fun t => (t.chan s.arg.a).onchip = (s.chan s.arg.a).onchip.erase r ∧
        ((t.dropped = s.dropped + 1 ∧ t.net = s.net) ∨
          (t.dropped = s.dropped ∧ ∃ x, t.net = s.net ++ [x] ∧ x.isMsg = true ∧ hdrPrio x.hdr = 7)))))

/-- R31, R32, R35: a core that is not idle, with a free thread and an eligible head, starts the head's activation on
that thread: its registers as R35 gives them, the queue registers of its declarations bound and the others unbound,
the counts that it reserves in CHELD and PHELD, its semaphore's counts taken, the head out of its channel. No plain
access of the descriptors that it reserves on is recorded here: one that nothing orders before the reservation is a
race (log 210). With no free thread or no eligible head nothing fires. The model's own readings in it: log 50, 74,
181, 198, 199, 209. -/
def Says.Firing : Prop :=
  ∀ (s : State), (s.core s.arg.a).idle = false →
    (s.pickHead s.arg.a = none ∨ s.freeThread s.arg.a s.arg.b = none → exec .fire s = .next s) ∧
    (∀ k ch r e, s.freeThread s.arg.a s.arg.b = some k → s.pickHead s.arg.a = some (ch, r) → s.handler r.ctx r.hidx = some e →
      (∀ d ∈ qDecls e, d.cnt ≠ 0 → ∀ l ∈ linesOf (padNode (padOf (k / 8))) d.desc 32,
        ∀ x ∈ tget [] s.lines l, plain x.kind = false) →
      Answers (exec .fire s) (fun t =>
        let a := t.thread k
        let core := k / 8
        let calm : Prop := (s.chan ch).spilled = [] ∧ (s.chan ch).ingress = []
        a.stat = .running ∧ a.ctx = r.ctx ∧ a.hidx = r.hidx ∧ a.pc = e % 2 ^ 32 ∧ a.chan = ch % 16 ∧ a.payload = r.payload ∧
        a.codeH.toNat = e / 2 ^ 32 % 2 ^ 20 ∧ a.launch = r.launch ∧
        a.rdG 1 = (if r.isMsg then w64 (r.hdr.toNat / 2 ^ 64) else r.arg) ∧
        (∀ x : GReg, x ≠ 1 → a.rdG x = 0) ∧ (∀ x : VReg, a.rdV x = 0) ∧ (∀ x : MReg, x ≠ 0 → a.rdM x = 0) ∧
        a.rdB 0 = (if r.frame.tag then r.frame else if eFRAMESZ e ≠ 0 then s.framePtr r.ctx (padOf core) e
          else { tag := false, raw := r.frame.raw }) ∧
        a.rdB 1 = (if r.isMsg then payloadPtr (hdrLen r.hdr) else {}) ∧ (∀ x : BReg, 2 ≤ x.toNat → a.rdB x = {}) ∧
        (∀ x : BitVec 4, (∀ d ∈ qDecls e, d.q ≠ x.toNat) → a.rdQ x = {}) ∧
        a.fpflags = 0 ∧ a.rmode = 0 ∧ a.invec = false ∧ a.actstart = w64 s.ts ∧ a.xferid = r.xferid.zeroExtend 64 ∧
        a.tcause = 0 ∧ a.taddr = 0 ∧ a.tepc = 0 ∧ a.tinfo = 0 ∧
        a.actinfo = w64 ((if r.isMsg then 0 else 1) + ch % 16 * 2 + r.hidx % 65536 * 32) ∧
        a.wdEnd = s.now + (if e / 2 ^ 57 % 2 ^ 5 = 0 then 65536 else 2 ^ (e / 2 ^ 57 % 2 ^ 5)) ∧
        (eSemEn e = true → t.sem (padOf core) (eSemId e) = s.sem (padOf core) (eSemId e) - eSemCnt e) ∧
        (calm → (t.chan ch).onchip = (s.chan ch).onchip.erase r) ∧
        (calm → s.traces = [] → ∀ d ∈ qDecls e, d.cnt ≠ 0 →
          (∀ x ∈ qDecls e, x.cnt ≠ 0 → x.desc = d.desc → x.prod = d.prod → x.cnt = d.cnt) →
          let x := t.desc (padOf core) d.desc
          (if d.prod then x.pheld else x.cheld) = d.cnt ∧ x.head = (s.desc (padOf core) d.desc).head ∧
          x.tail = (s.desc (padOf core) d.desc).tail) ∧
        (calm → ∀ d ∈ qDecls e, ∃ q, a.rdQ (BitVec.ofNat 4 d.q) = q ∧ q.bound = true ∧ q.prod = d.prod ∧ q.desc = d.desc ∧
          q.left = d.cnt ∧ q.pos = 0 ∧
          q.start = if d.prod then (s.desc (padOf core) d.desc).tail else (s.desc (padOf core) d.desc).head)))

/-- R38, R106: the watchdog kills an activation whose budget is out, and no other; a recurring parity error puts
its partition in FAULTED with cause 1 and its die, and leaves it no activation. The model's own readings in it: log
20, 31. -/
def Says.Kills : Prop :=
  ∀ (s : State), let k := s.arg.a
    ((s.thread k).stat ≠ .free → (s.thread k).wdEnd ≤ s.now → Answers (exec .watchdog s) (fun t =>
      t.thread k = {} ∧ (t.core (k / 8)).fseq = ((s.core (k / 8)).fseq + 1) % 2 ^ 32)) ∧
    ((s.thread k).stat = .free ∨ s.now < (s.thread k).wdEnd → exec .watchdog s = .next s) ∧
    ((s.thread k).stat = .running → let n := s.ctxFn (s.thread k).ctx
      Answers (exec .parityError s) (fun t => (t.fn n).errstat.toNat % 2 = 1 ∧ (t.fn n).errstat.toNat / 2 ^ 8 % 2 ^ 8 = 1 ∧
        (t.fn n).errstat.toNat / 2 ^ 16 % 2 ^ 16 = k / 8 % 32 ∧ ∀ j, s.ctxFn (t.thread j).ctx = n → t.thread j = {}))

/-! ### Launches, the done tree and posted accesses (R39 to R42, R55, R139, R172, R177, R241, R312 to R314, R354) -/

/-- R312 to R314: the launch unit of a die takes the ready record of the queue that it serves next: the record's slot
is started, and freed with the started ones at the front, and the queue is busy with the launch; what it makes of the
record is LaunchRecords'. A forwarded entry joins its channel by the other die's unit, in table order. The model's own
readings in it: log 75, 76, 77, 78, 79. -/
def Says.LaunchUnit : Prop :=
  ∀ (s : State),
    (s.nextQueue s.arg.a = none → exec .launchServe s = .next s) ∧
    (∀ i j x, s.nextQueue s.arg.a = some i → s.readySlot (i / 64) (i % 64) = some j →
      (s.lqueue (i / 64) (i % 64)).slots[j]? = some x →
      let took := State.takeRecord { s with lastQueue := tset 0 s.lastQueue s.arg.a (i + 1) } (i / 64) (i % 64) x
      Answers (exec .launchServe s) (fun t => tget 0 t.lastQueue s.arg.a = i + 1 ∧ (t.fn (i / 64)).everLaunched = true ∧
        (t.lqueue (i / 64) (i % 64)).slots =
            (((s.lqueue (i / 64) (i % 64)).slots.set j { x with started := true, launch := took.1 }).dropWhile (·.started)) ∧
        (t.lqueue (i / 64) (i % 64)).busy = took.1 ∧ t.net = took.2.net ∧ t.chans = took.2.chans ∧
        t.lforwards = took.2.lforwards ∧ t.launches = took.2.launches ∧ t.mem = took.2.mem)) ∧
    (∀ f, s.lforwards[s.arg.a]? = some f →
      let earlier := (s.lforwards.take s.arg.a).any fun x => x.die == f.die && x.rec_.launch == f.rec_.launch
      let r := f.rec_
      let ch := 16 * r.core + r.chan
      let c := s.chan ch
      (earlier = true → exec .launchForward s = .next s) ∧
      (earlier = false → Answers (exec .launchForward s) (fun t => t.lforwards = s.lforwards.eraseIdx s.arg.a ∧
        (r.isMsg = false → (s.ctx r.ctx).live = true → (s.ctx r.ctx).stopped = false → s.faulted (s.ctx r.ctx).fn = false →
          countMine (ch / 16) r.ctx c.ingress = 0 → countMine (ch / 16) r.ctx c.spilled = 0 →
          countMine (ch / 16) r.ctx c.onchip < 64 →
          t.net = s.net ∧ (t.chan ch).onchip = c.onchip ++ [{ r with arrTs := s.ts }]))))

/-- R16, R39, R313: what the launch unit makes of a launch record. One that fails a check of R39, or names a table
that it may not read, posts nothing: DONEQ gets its LID and a status word with FIRSTERR 0xFFFF, and where DONEQ itself
is invalid the report is a dispatch fault. One that passes is a launch of the queue's context with the record's LID,
each core of its table once among the launch's, and one continuation record for each entry, with the entry's HIDX,
ARG, channel and core: those of the unit's own die join their channels at once, in table order, and the others set out
for the units of their dies in that order. The model's own readings in it: log 75, 76, 79, 207. -/
def Says.LaunchRecords : Prop :=
  (∀ (s : State) (n k : Nat) (x : LSlot), let c := s.lqCtx n k
    let r := x.lrec
    let placeh := r / 2 ^ 96 % 2 ^ 20
    let htabh := r / 2 ^ 64 % 2 ^ 20
    let count := r / 2 ^ 176 % 2 ^ 16
    let doneq := r / 2 ^ 128 % 2 ^ 20
    let got := s.takeRecord n k x
    let table := s.tableRead c placeh 0 (16 * count)
    let entries (b : List Byte) : List Entry :=
      (List.range count).map fun i => entryOf (natOfBytes ((b.drop (16 * i)).take 16))
    let evs : List Event := if s.depOnly n k then sigOf x.wait :: waitsOf x.wait else []
    let refused : Prop := s.doneqOk c doneq = false ∨ (∃ e ∈ evs, s.eventOk c e = false) ∨ count = 0 ∨
      s.opened c placeh 1 = false ∨ s.nodeKind (s.hent c placeh).node ≠ kMemo ∨
      s.entrySize c (s.hent c placeh) < 16 * count ∨ (s.hent c htabh).used = false ∨
      s.nodeKind (s.hent c htabh).node ≠ kMemo ∨ htabh ≠ (s.ctx c).hbase.toNat % 2 ^ 20 ∨ (s.ctx c).stopped = true ∨
      table = none ∨ ∃ b, table = some b ∧ ∃ e ∈ entries b, s.entryCore c e = none
    bitOn r 511 = false →
    (refused → ∃ (u : State) (sig : Option (BitVec 20 × Nat)), got = (none, u.refuseLaunch n k x sig) ∧ u.net = s.net ∧ u.chans = s.chans ∧
      u.lforwards = s.lforwards ∧ u.mem = s.mem ∧ u.ctxs = s.ctxs ∧ u.made = s.made ∧ u.nextLaunch = s.nextLaunch) ∧
    (¬ refused → s.lines = [] → ∀ b, table = some b →
      let l := (entries b).filterMap fun e => (s.entryCore c e).map fun core => (e, core)
      let i := s.nextLaunch
      let home := s.homeDie n k
      let what (z : Rec) := (z.isMsg, z.hidx, z.chan, z.arg, z.core, z.lcore, z.ctx, z.launch)
      let told (e : Entry × Nat) := (false, e.1.hidx, e.1.chan, w64 e.1.arg, e.2, e.1.core, c, some i)
      let y := got.2.launch i
      got.1 = some i ∧ y.lid = w64 (r % 2 ^ 64) ∧ y.fn = n ∧ y.queue = k ∧ y.ctx = c ∧ y.doneq.toNat = doneq ∧
      (y.cores.map (·.1)).Nodup ∧ (∀ p, p ∈ y.cores.map (·.1) ↔ p ∈ l.map (·.2)) ∧
      (∃ fw, got.2.lforwards = s.lforwards ++ fw ∧ fw.map (fun f => (f.die, what f.rec_)) =
        (l.filter fun e => coreDie e.2 != home).map fun e => (coreDie e.2, told e)) ∧
      ((s.ctx c).live = true → s.faulted (s.ctx c).fn = false → ∀ ch,
        let here := l.filter fun e => coreDie e.2 == home && 16 * e.2 + e.1.chan == ch
        countMine (ch / 16) c (s.chan ch).ingress = 0 → countMine (ch / 16) c (s.chan ch).spilled = 0 →
        countMine (ch / 16) c (s.chan ch).onchip + here.length ≤ 64 →
        ∃ new, (got.2.chan ch).onchip = (s.chan ch).onchip ++ new ∧ new.map what = here.map told))) ∧
  ∀ (s : State) (n k : Nat) (x : LSlot) (sig : Option (BitVec 20 × Nat)), let c := s.lqCtx n k
    let doneq := x.lrec / 2 ^ 128 % 2 ^ 20
    let t := s.refuseLaunch n k x sig
    let i := s.nextLaunch
    let word := bytesOfNat 8 (x.lrec % 2 ^ 64) ++ bytesOfNat 8 0xFFFF0000
    (s.doneqOk c doneq = true → t.net = s.net ∧ t.chans = s.chans ∧ t.lforwards = s.lforwards ∧
      (t.launch i).lid = w64 (x.lrec % 2 ^ 64) ∧ (t.launch i).cores = [] ∧
      ((t.launch i).written = true ∨ (t.launch i).pending = some word) ∧
      ∀ e pad desc, s.hlook c doneq (s.hent c doneq).gen = some e → s.ringOf e.node = some (pad, desc) →
        s.ringOwner e.node = 0 → s.lines = [] → sig = none → desc + 32 ≤ padBytes pad →
        let d := s.desc pad desc
        let slot := d.slot d.tail
        d.faulty (padBytes pad) = false → d.pheld = 0 → d.free ≠ 0 → slot + d.slotBytes ≤ desc ∨ desc + 32 ≤ slot →
        (t.launch i).written = true ∧ t.peek (padAddr pad slot) d.slotBytes =
          (word ++ List.replicate (d.slotBytes - word.length) 0).take d.slotBytes) ∧
    (s.doneqOk c doneq = false → t.launches = s.launches ∧ t.chans = s.chans ∧ t.lforwards = s.lforwards ∧
      ((t.dropped = s.dropped + 1 ∧ t.net = s.net) ∨ ∃ z, t.net = s.net ++ [z] ∧ z.isMsg = true ∧ hdrPrio z.hdr = 7))

/-- R354, R356: a patch's status goes to DONEQ: that of the container's failed check, or 0 when every code object it
names has its new code. A container that fails its checks changes no code, a patch is completed once, and it waits
for every load and patch of its partition that the loader took before it; a handle revoked since it was taken names no
container. The model's own reading in it: log 83. -/
def Says.Patches : Prop :=
  ∀ (s : State) (hd : BitVec 20), let l := s.launch s.arg.a
    l.patch = some hd →
    let first : Prop := s.patchBefore l.fn s.arg.a = false ∧ ∀ e, (s.fn l.fn).load = some e → s.arg.a < e.2
    (l.closed = true ∨ ¬ first → exec .patchComplete s = .next s) ∧
    (l.closed = false → first →
      let got := checkContainer ((s.hlook l.ctx hd.toNat l.patchGen).bind fun h =>
        s.hostBytes l.ctx hd.toNat l.patchGen h.size) none
      Answers (exec .patchComplete s) (fun t => (t.launch s.arg.a).closed = true ∧
        ((∀ x, got ≠ .ok x) → t.made = s.made) ∧
        t = match got with
          | .error (st, _) => s.writeDone s.arg.a (w64 (st * 2 ^ 16))
          | .ok x => match s.patchAll l.ctx x with
            | some u => u.writeDone s.arg.a 0
            | none => s.writeDone s.arg.a (w64 (ldMALFORMED * 2 ^ 16))))

/-- R41, R42: a done-tree word is combined at the node it reaches, and the node's own word goes to its parent when
all it awaits have come; at the deadline the root's word is final with INCOMPLETE set; DONEQ is tried again until
it takes the word, and a signal that waits is raised; a word that reaches the root after its final word changes
nothing there; a flag-only word is ORed in at the root until DONEQ is written; a word waits for what was sent the same
way before it. The model's own readings in it: log 22, 51, 80, 171, 182, 189, 221. -/
def Says.DoneTree : Prop :=
  ∀ (s : State),
    (∀ m, s.doneMsgs[s.arg.a]? = some m →
      let l := s.launch m.launch
      let ws := l.cores.map (·.2)
      let had := tget ((0 : Word), 0) l.words m.dst
      let want := (ws.countP fun x => doneParent l.root ws x == some m.dst) + 1
      let late := s.wayBusy (s.doneWay m) m.flit
      (late = true → exec .doneWord s = .next s ∧ exec .dupdoneWord s = .next s) ∧
      (m.dup = true → exec .doneWord s = .next s) ∧ (m.dup = false → exec .dupdoneWord s = .next s) ∧
      (late = false → m.dup = false → ¬(m.dst = l.root ∧ l.closed = true) → had.2 + 1 < want → Answers (exec .doneWord s) (fun t =>
        t.doneMsgs = s.doneMsgs.eraseIdx s.arg.a ∧
        tget ((0 : Word), 0) (t.launch m.launch).words m.dst = (combineDone had.1 m.word, had.2 + 1))) ∧
      (∀ p, late = false → m.dup = false → want ≤ had.2 + 1 → doneParent l.root ws m.dst = some p → Answers (exec .doneWord s) (fun t =>
        t.doneMsgs = s.doneMsgs.eraseIdx s.arg.a ++
          [{ launch := m.launch, src := m.dst, dst := p, word := combineDone had.1 m.word,
             know := addKnow (tget [] l.knows m.dst) m.know, flit := s.nextAcc }])) ∧
      (late = false → m.dup = false → m.dst = l.root → l.closed = true → Answers (exec .doneWord s) (fun t =>
        t.launch m.launch = l ∧ t.doneMsgs = s.doneMsgs.eraseIdx s.arg.a)) ∧
      (late = false → m.dup = false → l.closed = false → want ≤ had.2 + 1 → doneParent l.root ws m.dst = none →
        Answers (exec .doneWord s) (fun t => (t.launch m.launch).closed = true)) ∧
      (late = false → m.dup = true → Answers (exec .dupdoneWord s) (fun t => t.doneMsgs = s.doneMsgs.eraseIdx s.arg.a ∧
        (l.written = true → t.launch m.launch = l) ∧
        (∀ b, l.written = false → l.pending = some b → t.launch m.launch =
          { l with pending := some (b.take 8 ++ bytesOfNat 8 (natOfBytes (b.drop 8) ||| m.word.toNat)) }) ∧
        (l.written = false → l.pending = none → tget ((0 : Word), 0) (t.launch m.launch).words l.root =
          ((tget ((0 : Word), 0) l.words l.root).1 ||| m.word, (tget ((0 : Word), 0) l.words l.root).2))))) ∧
    (let l := s.launch s.arg.a
     (∀ u, l.deadline = some u → l.closed = false → u ≤ s.now → Answers (exec .doneDeadline s) (fun t =>
        t = s.writeDone s.arg.a ((tget ((0 : Word), 0) l.words l.root).1 ||| w64 (2 ^ 44)) ∧ (t.launch s.arg.a).closed = true)) ∧
     (l.written = true → exec .doneqRetry s = .next (s.signal s.arg.a)) ∧
     (l.written = false → l.pending = none → exec .doneqRetry s = .next s) ∧
     (∀ bs, l.written = false → l.pending = some bs → s.hlook l.ctx l.doneq.toNat l.doneqGen = none →
        Answers (exec .doneqRetry s) (fun t => t.mem = s.mem ∧ t.launch s.arg.a = l)) ∧
     (∀ bs e pad desc, l.written = false → l.pending = some bs → s.hlook l.ctx l.doneq.toNat l.doneqGen = some e →
        s.ringOf e.node = some (pad, desc) → s.ringOwner e.node = 0 → s.lines = [] → desc + 32 ≤ padBytes pad →
        (s.desc pad desc).faulty (padBytes pad) = false →
        (s.desc pad desc).pheld = 0 →
        ((s.desc pad desc).free = 0 → Answers (exec .doneqRetry s) (fun t => t.mem = s.mem ∧ t.launch s.arg.a = l)) ∧
        ((s.desc pad desc).free ≠ 0 → Answers (exec .doneqRetry s) (fun t =>
          (t.launch s.arg.a).written = true ∧ (t.launch s.arg.a).pending = none))))

/-- R55, R139, R172, R177, R179, R237, R241, R258: a posted access on its way is performed at its home, and not before
an earlier write of its activation through the same handle: the store's bytes stand where its lookup found them, and a
window of another tile's pad that holds the offset counts them in its sync word; an addition changes the stripe; an
append takes a slot or is a dispatch fault; a JOIN and a SEMV act on their cell and their semaphore. A store or a SEMV
whose handle has been revoked is discarded. The model's own readings in it: log 35, 46, 180, 204. -/
def Says.PostedAccesses : Prop :=
  ∀ (s : State),
    (∀ q, s.arg.b = 0 → s.posted[s.arg.a]? = some q → s.nodeKind q.node ≠ kQueue → isCopy q.node = false →
      let rest : State := { s with posted := s.posted.eraseIdx s.arg.a }
      (s.waitsFor q = true → exec .remoteAccess s = .next s) ∧
      (s.waitsFor q = false →
        (s.hlook q.ctx q.handle.toNat q.gen = none → exec .remoteAccess s = .next rest) ∧
        ((s.hlook q.ctx q.handle.toNat q.gen).isSome = true →
          let u := rest.pokePlaces q.places q.bytes
          Stored u q.places q.bytes ∧
          Answers (exec .remoteAccess s) (fun t => t.posted = rest.posted ∧
            (nodePad q.node = none ∨ q.pst = true → t.mem = u.mem) ∧
            ∀ pad, nodePad q.node = some pad → q.pst = false →
              (u.swWindow q.core pad q.off = none → t.mem = u.mem) ∧
              ∀ w, u.swWindow q.core pad q.off = some w →
                let x := u.peekN (padAddr pad w) 16
                let counted := setBits x 32 32 (min (x / 2 ^ 32 % 2 ^ 32 + q.bytes.length) (2 ^ 32 - 1))
                SameOutside u t [({ addr := padAddr pad w }, 16)] ∧
                  t.peekN (padAddr pad w) 16 = (swAdvance counted).2)))) ∧
    (∀ x, s.arg.b ≠ 0 → s.mullAdds[s.arg.a]? = some x → (s.region x.region).live = true →
      ((s.mullAdds.take s.arg.a).any fun b => b.party == x.party && b.region == x.region && b.stripe == x.stripe) = false →
      Answers (exec .remoteAccess s) (fun t => t.mullAdds = s.mullAdds.eraseIdx s.arg.a ∧
        (t.region x.region).rep x.die x.stripe =
          (addMass x.mass x.rnd (s.region x.region).e x.first x.vals ((s.region x.region).rep x.die x.stripe)).1)) ∧
    (∀ q n k, s.posted[s.arg.a]? = some q → q.node = .launch n k →
      s.waitsFor q = false → (s.hlook q.ctx q.handle.toNat q.gen).isSome = true →
      let rest : State := { s with posted := s.posted.eraseIdx s.arg.a }
      let again : State := rest.setParty q.party
        { rest.party q.party with sinceRel := addLines (rest.party q.party).sinceRel q.pub }
      let bad (kind info : Nat) : State := again.dispatchFault kind q.ctx q.core q.lword (natOfBytes (q.bytes.take 16))
        (q.handle.toNat * 2 ^ 44 + info) q.launch (s.homeDie n k)
      (q.off ≠ 0 → exec .queueAppend s = .next (bad 11 (q.off % 2 ^ 44))) ∧
      (q.off = 0 → s.lqLive n k = true → 64 ≤ (s.lqueue n k).slots.length → exec .queueAppend s = .next (bad 10 0)) ∧
      (q.off = 0 → s.lqLive n k = true → (s.lqueue n k).slots.length < 64 → Answers (exec .queueAppend s) (fun t =>
        t.posted = s.posted.eraseIdx s.arg.a ∧ ∃ y, (t.lqueue n k).slots = (s.lqueue n k).slots ++ [y] ∧ y.started = false ∧
          y.bytes = (q.bytes ++ List.replicate (s.lqSlot n k - q.bytes.length) 0).take (s.lqSlot n k)))) ∧
    (∀ j, s.joins[s.arg.a]? = some j → (s.waitsFor j.write = true → exec .joinPerform s = .next s) ∧
      (s.waitsFor j.write = false → exec .joinPerform s =
        .next (State.joinAt { s with joins := s.joins.eraseIdx s.arg.a } j))) ∧
    (∀ q pad desc, s.posted[s.arg.a]? = some q → s.ringOf q.node = some (pad, desc) →
      s.waitsFor q = false → (s.hlook q.ctx q.handle.toNat q.gen).isSome = true →
      let d := s.desc pad desc
      let slot := d.slot d.tail
      q.off = 0 → s.ringOwner q.node = 0 → s.lines = [] → desc + 32 ≤ padBytes pad → d.faulty (padBytes pad) = false →
      d.pheld = 0 →
      (d.free = 0 → exec .queueAppend s = .next
        (State.appendBad { s with posted := s.posted.eraseIdx s.arg.a } q 10 0)) ∧
      (d.free ≠ 0 → slot + d.slotBytes ≤ desc ∨ desc + 32 ≤ slot →
        Answers (exec .queueAppend s) (fun t => t.posted = s.posted.eraseIdx s.arg.a ∧
          t.peek (padAddr pad slot) d.slotBytes =
            (q.bytes ++ List.replicate (d.slotBytes - q.bytes.length) 0).take d.slotBytes ∧
          t.desc pad desc = { d with tail := (d.tail + 1) % 2 ^ 32 } ∧
          SameOutside s t [({ addr := padAddr pad slot }, d.slotBytes), ({ addr := padAddr pad (desc + oTail) }, 4)]))) ∧
    (∀ r, s.semvs[s.arg.a]? = some r →
      let rest : State := { s with semvs := s.semvs.eraseIdx s.arg.a }
      let waits : Bool := (s.semvs.take s.arg.a).any fun x => x.party == r.party && x.ctx == r.ctx && x.handle == r.handle
      let gone : Prop := s.faulted (s.ctxFn r.ctx) = true ∨ s.hlook r.ctx r.handle.toNat r.gen = none
      (waits = true → exec .remoteSemv s = .next s) ∧
      (waits = false → gone → exec .remoteSemv s = .next rest) ∧
      (waits = false → ¬ gone → Answers (exec .remoteSemv s) (fun t => t.semvs = rest.semvs ∧
        t.sem r.pad r.sem =
          (if r.amount = 0 then s.sem r.pad r.sem else min (s.sem r.pad r.sem + r.amount) (2 ^ 32 - 1)))))

/-! ### Groups of the statements above -/

/-- Records arrive, are checked, fire, and are killed (R26 to R29, R31, R32, R34, R35, R38, R106, R274, R276). -/
def Obligations.RecordSteps : Prop := Says.Arrivals ∧ Says.HeadChecks ∧ Says.Firing ∧ Says.Kills

/-- Launches are served, patched and done (R16, R39, R41, R42, R312 to R314, R354, R356). -/
def Obligations.LaunchSteps : Prop := Says.LaunchUnit ∧ Says.LaunchRecords ∧ Says.Patches ∧ Says.DoneTree

/-- Posted accesses are performed at their homes (R55, R139, R172, R177, R179, R237, R241, R258). -/
def Obligations.RemotePerformance : Prop := Says.PostedAccesses

/-! ### Steps of the matrix engine, the copy engine and the name units (R188 to R228, R231 to R240, R246 to R260) -/

/-- R186 to R209: a started gang completes after the commands that it must follow: each element of its rows in the
bank becomes its sum with the products of the arrivals' slices and the latched weights, and no other row of the
bank changes. Of a fused group so each of the banks that it writes does, over the products of the quarto and of the one
two above it where the group holds that; no other bank changes, and each half's sticky bits gather what its elements
set. A stale barrier is withdrawn with its report, and a fresh one stands. The model's own reading in it: log 69. -/
def Says.GangSteps : Prop :=
  ∀ (s : State) (o : PortOp) (q : Nat) (arrs : List Arrival) (ctl : Word),
    (∀ qs, s.port[s.arg.a]? = some o → o.cmd = .gang qs arrs ctl → s.portFree s.arg.a o = true →
      exec .gangComplete s = .next { s.gangRun qs arrs ctl with port := s.port.eraseIdx s.arg.a }) ∧
    (s.port[s.arg.a]? = some o → o.cmd = .gang [q] arrs ctl →
      (s.portFree s.arg.a o = false → exec .gangComplete s = .next s) ∧
      (s.portFree s.arg.a o = true → Answers (exec .gangComplete s) (fun t => t.port = s.port.eraseIdx s.arg.a ∧
        let row := ctl.toNat / 2 ^ 16 % 2 ^ 8
        let members := (List.range 8).filterMap fun j => arrs.find? fun a => quartoOf a.core == q && coreTile a.core % 8 == j
        let hf := s.half q (row / 128)
        (∀ i j, i < ctl.toNat % 2 ^ 8 → j < 128 →
          let old : Acc := if ctl.toNat / 2 ^ 24 % 2 ^ 2 = 1 then {} else s.accAt q (row + i) j
          t.accAt q (row + i) j = old.plus (accumulate hf.mode.toNat hf.anchor { val := old.val.toInt }
            (members.flatMap fun a => s.slice a i) ((s.quarto q).weights.row j))) ∧
        (∀ r j, r < row ∨ row + ctl.toNat % 2 ^ 8 ≤ r → j < 128 → t.accAt q r j = s.accAt q r j) ∧
        (t.half q (row / 128)).mode = hf.mode ∧ (t.half q (row / 128)).anchor = hf.anchor))) ∧
    (∀ qs, s.port[s.arg.a]? = some o → o.cmd = .gang qs arrs ctl → s.portFree s.arg.a o = true →
      let row := ctl.toNat / 2 ^ 16 % 2 ^ 8
      let m := ctl.toNat % 2 ^ 8
      (bankQuartos qs).Nodup → row % 128 + m ≤ 128 →
      let ks (b : Nat) : List Nat := if qs.contains (b + 2) then [b, b + 2] else [b]
      let members (b : Nat) : List Arrival := (ks b).flatMap fun k =>
        (List.range 8).filterMap fun j => arrs.find? fun a => quartoOf a.core == k && coreTile a.core % 8 == j
      let weights (b j : Nat) : List Fp := (ks b).flatMap fun k => (s.quarto k).weights.row j
      let hf (b : Nat) : Half := s.half b (row / 128)
      let old (b i j : Nat) : Acc := if ctl.toNat / 2 ^ 24 % 2 ^ 2 = 1 then {} else s.accAt b (row + i) j
      let sum (b i j : Nat) : Sum := accumulate (hf b).mode.toNat (hf b).anchor { val := (old b i j).val.toInt }
        ((members b).flatMap fun a => s.slice a i) (weights b j)
      let some_ (b : Nat) (p : Sum → Bool) : Bool :=
        (List.range m).any fun i => (List.range 128).any fun j => p (sum b i j)
      Answers (exec .gangComplete s) (fun t => t.port = s.port.eraseIdx s.arg.a ∧ t.mem = s.mem ∧
        (∀ b ∈ bankQuartos qs,
          (∀ i j, i < m → j < 128 → t.accAt b (row + i) j = (old b i j).plus (sum b i j)) ∧
          (∀ r j, r < row ∨ row + m ≤ r → r < 256 → j < 128 → t.accAt b r j = s.accAt b r j) ∧
          t.half b (row / 128) = { hf b with
            sat := (hf b).sat || some_ b (·.sat), anyInex := (hf b).anyInex || some_ b (·.inex),
            anyOvf := (hf b).anyOvf || some_ b (·.ovf), anySpec := (hf b).anySpec || some_ b (·.spec != 0) }) ∧
        ∀ b r j, b ∉ bankQuartos qs → r < 256 → j < 128 → t.accAt b r j = s.accAt b r j)) ∧
    (let arrs := tget [] (s.quarto s.arg.a).barrier s.arg.b
     ((arrs.all fun a => decide (s.ranCycles s.arg.b < a.at_ + 2 ^ 20)) = true → exec .gangStale s = .next s) ∧
     ((arrs.any fun a => decide (a.at_ + 2 ^ 20 ≤ s.ranCycles s.arg.b)) = true → Answers (exec .gangStale s) (fun t =>
        tget [] (t.quarto s.arg.a).barrier s.arg.b = [] ∧ t.acc = s.acc ∧
        (t.dropped = s.dropped + 1 ∨ ∃ x, t.net = s.net ++ [x] ∧ hdrPrio x.hdr = 7))))

/-- R204, R205, R212 to R215: a beat of SLOAD moves its bytes from the pad to the sheet, a beat of SSAVE the other
way, a beat of MDRAIN writes its elements of the row, in its own tile's pad or in another's, where the window that
holds the offset counts them in its sync word; the last beat of a command posts its completion, and a refused beat
ends the command with its status and the rows done. The model's own readings in it: log 62, 64, 66. -/
def Says.MoveBeats : Prop :=
  ∀ (s : State) (o : PortOp) (sheet first rows off : Nat) (scale : Bool) (p : Ptr),
    s.port[s.arg.a]? = some o → s.portFree s.arg.a o = true →
    (let mb := moveBeat first rows scale off o.beat
     let ends (st : Nat) : Prop := Answers (exec .sheetMoveBeat s) (fun t => t.port = s.port.eraseIdx s.arg.a ∧
       t.mem = s.mem ∧ t.sheetMem = s.sheetMem ∧ ∃ r, t.net = s.net ++ [r] ∧ r.hidx = o.hidx ∧ r.core = o.core ∧
         r.payload = moveEnd st (o.beat / if scale then 5 else 4) o.tag)
     let last (t : State) : Prop := t.port = s.port.eraseIdx s.arg.a ∧ ∃ r, t.net = s.net ++ [r] ∧ r.hidx = o.hidx ∧
       r.core = o.core ∧ r.payload = moveEnd 0 rows o.tag
     (o.cmd = .sload sheet first rows scale p off → (∀ st, s.beatAt o p mb.1 mb.2.2 0 = .error st → ends st) ∧
       ∀ node l, s.beatAt o p mb.1 mb.2.2 0 = .ok (node, l) → Answers (exec .sheetMoveBeat s) (fun t => t.mem = s.mem ∧
         t.sheetRead o.quarto sheet mb.2.1 mb.2.2 = s.peekPlaces l ∧ (o.beats ≤ o.beat + 1 → last t) ∧
         (o.beat + 1 < o.beats → t.port = s.port.set s.arg.a { o with beat := o.beat + 1 }))) ∧
     (o.cmd = .ssave sheet first rows scale p off → (∀ st, s.beatAt o p mb.1 mb.2.2 1 = .error st → ends st) ∧
       ∀ node l, s.beatAt o p mb.1 mb.2.2 1 = .ok (node, l) → Answers (exec .sheetMoveBeat s) (fun t => t.sheetMem = s.sheetMem ∧
         t.mem = (s.pokePlaces l (s.sheetRead o.quarto sheet mb.2.1 mb.2.2)).mem ∧ (o.beats ≤ o.beat + 1 → last t) ∧
         (o.beat + 1 < o.beats → t.port = s.port.set s.arg.a { o with beat := o.beat + 1 })))) ∧
    (∀ (et : BitVec 4) (rnd : Nat) (rq : Option Rq) (dst i x n : Nat), o.cmd = .drain first rows et rnd rq p off dst →
      let w := drainSize et.toNat
      (drainBeats off (128 * w) rows)[o.beat]? = some (i, x, n) →
      (∀ st, s.beatAt o p x n 1 = .error st → Answers (exec .drainBeat s) (fun t => t.port = s.port.eraseIdx s.arg.a ∧
        t.mem = s.mem ∧ ∃ r, t.net = s.net ++ [r] ∧ r.core = dst ∧ r.payload = drainEnd st i o.tag o.flags)) ∧
      (∀ node l, s.beatAt o p x n 1 = .ok (node, l) →
        let els := ((s.drainRow o.quarto (first + i) et.toNat rnd rq).drop ((x - (off + 128 * w * i)) / w)).take (n / w)
        let u := s.pokePlaces l (els.flatMap fun e => bytesOfNat w e.1)
        let flags := els.foldl (fun f e => f ||| e.2) o.flags
        let sent (payload : List Byte) (t : State) : Prop := t.port = s.port.eraseIdx s.arg.a ∧ ∃ r, t.net = s.net ++ [r] ∧
          r.core = dst ∧ r.hidx = o.hidx ∧ r.payload = payload
        let counts : Prop := s.race o.party 3 (s.markLines o.core node x) = none
        (¬ counts → Answers (exec .drainBeat s) (fun t => t.mem = s.mem ∧ sent (drainEnd 0x20 i o.tag o.flags) t)) ∧
        (counts → Answers (exec .drainBeat s) (fun t => t.acc = s.acc ∧ (nodePad node = none → t.mem = u.mem) ∧
          (∀ pad, nodePad node = some pad → (u.swWindow o.core pad x = none → t.mem = u.mem) ∧
            ∀ k, u.swWindow o.core pad x = some k →
              let y := u.peekN (padAddr pad k) 16
              SameOutside u t [({ addr := padAddr pad k }, 16)] ∧ t.peekN (padAddr pad k) 16 =
                (swAdvance (setBits y 32 32 (min (y / 2 ^ 32 % 2 ^ 32 + n) (2 ^ 32 - 1)))).2) ∧
          ((drainBeats off (128 * w) rows).length ≤ o.beat + 1 → sent (drainEnd 0 rows o.tag flags) t) ∧
          (o.beat + 1 < (drainBeats off (128 * w) rows).length →
            t.port = s.port.set s.arg.a { o with beat := o.beat + 1, flags := flags } ∧ t.net = s.net)))))

/-- R218, R222 to R226: a butterfly command completes after the commands it must follow, and this is what it leaves in
the points of its destination run. MDREV: each transform's points, drawn from the source in the order of the reversed
digits, with the exponents of the source's sheets. MBFLY: the exact sums of its stage, rounded to nearest even at the
shift of SCALE, or for AUTO at the smallest that fits, and clamped; the group's exponent with that shift; SAT where a
part or an exponent was clamped; and the first sheet's exact sums in the half, zero elsewhere in it. MCMUL: the
products, committed likewise. The points of no transform, the other sheets and the other accumulator elements stay.
The model's own reading in it: log 64. -/
def Says.ButterflySteps : Prop :=
  ∀ (s : State) (o : PortOp), s.port[s.arg.a]? = some o → o.cmd.isBfly = true →
    let q := o.quarto
    let pt (u : State) (f n i : Nat) : Pt := (u.points q f n).getD i (0, 0)
    let planOk (p : Plan) : Prop := 0 < p.n ∧ p.radices.foldl (· * ·) 1 = p.n ∧
      ((p.n ≤ 8192 ∧ p.n * p.b ≤ 8192) ∨ (8192 < p.n ∧ p.n = 8192 * p.t))
    let others (dst n : Nat) (t : State) : Prop := ∀ k f i m, (k ≠ q ∨ f < dst ∨ dst + n ≤ f) → f < 128 → i + m ≤ sheetBytes →
      t.sheetRead k f i m = s.sheetRead k f i m
    let commits (v : Int) (k : Nat) : Int := max (-32767) (min 32767 (roundNE v k))
    -- the shift of SCALE, or for AUTO the smallest of 0 to 3 at which all of these fit, else 4
    let shift (scale base : Nat) (l : Pt → Prop) (k : Nat) : Prop :=
      let fits (i : Nat) : Prop := ∀ v, l v → fits16 (roundNE v.1 (base + i)) = true ∧ fits16 (roundNE v.2 (base + i)) = true
      (scale ≠ 7 → k = scale) ∧ (scale = 7 → k ≤ 4 ∧ (k < 4 → fits k) ∧ ∀ i, i < k → ¬ fits i)
    (s.portFree s.arg.a o = false → exec .butterflyComplete s = .next s) ∧
    (s.portFree s.arg.a o = true → exec .butterflyComplete s = .next { s.portRun o with port := s.port.eraseIdx s.arg.a } ∧
    (∀ dst src p, o.cmd = .mdrev dst src p → planOk p → dst + p.t ≤ 128 → Answers (exec .butterflyComplete s) (fun t =>
      t.acc = s.acc ∧ others dst p.t t ∧
      (∀ i, i < p.t → t.expOf q (dst + i) = s.expOf q (src + i)) ∧
      (∀ b ∈ p.bases, ∀ i, i < p.n → pt t dst p.t (b + i) = pt s src p.t (b + digitRev i 0 p.radices)) ∧
      ∀ i, i < 8192 * p.t → (∀ b ∈ p.bases, i < b ∨ b + p.n ≤ i) → pt t dst p.t i = pt s dst p.t i)) ∧
    (∀ dst src p l half scale, o.cmd = .mbfly dst src p l half scale → planOk p → dst + p.t ≤ 128 → half < 2 →
      1 ≤ l → l ≤ p.radices.length →
      let r := p.radices.getD (l - 1) 2
      let s0 := (p.radices.take (l - 1)).foldl (· * ·) 1
      let x (i : Nat) : Pt := pt s src p.t i
      let w (k : Nat) : Pt := twiddle fxPi p.n (k % p.n) p.inv
      let sum (b g c m : Nat) : Pt :=
        let at_ (j : Nat) : Nat := b + g * (s0 * r) + j * s0 + m
        let tw (j : Nat) : Pt := w (j * (m + c * s0) * (p.n / (s0 * r)))
        (((List.range r).map fun j => (x (at_ j)).1 * (tw j).1 - (x (at_ j)).2 * (tw j).2).sum,
          ((List.range r).map fun j => (x (at_ j)).1 * (tw j).2 + (x (at_ j)).2 * (tw j).1).sum)
      let made (i : Nat) (v : Pt) : Prop := ∃ b ∈ p.bases, ∃ g c m, g < p.n / (s0 * r) ∧ c < r ∧ m < s0 ∧
        i = b + g * (s0 * r) + c * s0 + m ∧ v = sum b g c m
      let group (i : Nat) : Nat := if p.n ≤ 8192 then i / 8192 else 0
      Answers (exec .butterflyComplete s) (fun t => others dst p.t t ∧ ∃ k : Nat → Nat,
        (∀ f, f < p.t → shift scale 30 (fun v => ∃ i, made i v ∧ group i = group (8192 * f)) (k (group (8192 * f)))) ∧
        (∀ i v, made i v → pt t dst p.t i = (commits v.1 (30 + k (group i)), commits v.2 (30 + k (group i)))) ∧
        (∀ i, i < 8192 * p.t → (∀ v, ¬ made i v) → pt t dst p.t i = pt s dst p.t i) ∧
        (let e (f : Nat) : Int := s.expOf q (src + group (8192 * f)) + k (group (8192 * f))
         (∀ f, f < p.t → t.expOf q (dst + f) = min 32767 (e f)) ∧
         ((t.half q half).sat = true ↔ (s.half q half).sat = true ∨ (∃ f, f < p.t ∧ 32767 < e f) ∨
           ∃ i v, made i v ∧ (fits16 (roundNE v.1 (30 + k (group i))) = false ∨
             fits16 (roundNE v.2 (30 + k (group i))) = false)) ∧
         (t.half q half).mode = (s.half q half).mode) ∧
        (∀ i v, i < 8192 → made i v → (t.accAt q (128 * half + i / 128) (i % 128)).val.toNat =
          toBits 64 v.1 + toBits 64 v.2 * 2 ^ 64) ∧
        (∀ i, i < 16384 → (8192 ≤ i ∨ ∀ v, ¬ made i v) → t.accAt q (128 * half + i / 128) (i % 128) = {}) ∧
        ∀ b row j, row < 256 → j < 128 → (b ≠ q ∨ row / 128 ≠ half) → t.accAt b row j = s.accAt b row j)) ∧
    ∀ dst a b n half scale conj, o.cmd = .mcmul dst a b n half scale conj → dst + n ≤ 128 →
      let x (i : Nat) : Pt := pt s a n i
      let y (i : Nat) : Pt := let v := pt s b n i; (v.1, if conj then -v.2 else v.2)
      let prod (i : Nat) : Pt := ((x i).1 * (y i).1 - (x i).2 * (y i).2, (x i).1 * (y i).2 + (x i).2 * (y i).1)
      Answers (exec .butterflyComplete s) (fun t => t.acc = s.acc ∧ others dst n t ∧ ∃ k : Nat,
        shift scale 15 (fun v => ∃ i, i < 8192 * n ∧ v = prod i) k ∧
        (∀ i, i < 8192 * n → pt t dst n i = (commits (prod i).1 (15 + k), commits (prod i).2 (15 + k))) ∧
        let e (f : Nat) : Int := s.expOf q (a + f) + s.expOf q (b + f) + 15 + k
        (∀ f, f < n → t.expOf q (dst + f) = max (-32768) (min 32767 (e f))) ∧
        ((t.half q half).sat = true ↔ (s.half q half).sat = true ∨ (∃ f, f < n ∧ 32767 < (e f).natAbs) ∨
          ∃ i, i < 8192 * n ∧ (fits16 (roundNE (prod i).1 (15 + k)) = false ∨ fits16 (roundNE (prod i).2 (15 + k)) = false)) ∧
        (t.half q half).mode = (s.half q half).mode))

/-- R231 to R233, R237, R238: the aligned 8-byte store of a thread to its own tile's copy aperture. A START within
the template table and the queue puts the template's command at the end of its channel, or posts a completion with
status 0x05 where eight are queued; one outside the table, without quota or on a secure channel traps. TTAB and WIN
take their writable bits; above user level CTL resumes or ends the faulted head, on the tile or saved with its context.
The model's own readings in it: log 43, 87. -/
def Says.CopyStores : Prop :=
  ∀ (s u : State) (i : Instr) (h : Head) (et : EType) (sc : Scope3) (m : MemOp) (x : GI) (e : HEntry) (off : Nat),
    s.nextInstr s.arg.a = some (i, u) → i = .st h et 0 sc (.mem m) x → u.t.guard h = true → etSize et = 8 →
    u.checkPtr u.t.ctx (u.ptr m.b) m.b.toNat (dispOf m 8) 8 2 = .ok (e, off) → u.ownCopy e.node = true → (u.ptr m.b).pay = false → off % 8 = 0 →
    let v := u.t.gi x
    let p := u.myPad
    (off < 0x40 → exec .copyStart s = .next (u.copyStart (u.ptr m.b) p (off / 8) v.toNat off)) ∧
    (off < 0x40 → let c := u.copyRegs u.t.ctx p
      let key := chanKey p (off / 8)
      let at_ := c.ttab.toNat / 2 ^ 16 % 2 ^ 15 * 64 + 64 * v.toNat
      let tmpl := BitVec.ofNat 512 (u.peekN (padAddr p at_) 64)
      let quota := bitOn (u.fn (u.ctxFn u.t.ctx)).recd.copych.toNat (off / 8)
      let inTable : Prop := v.toNat < c.ttab.toNat % 2 ^ 16 ∧ at_ + 64 ≤ u.padSize u.t.ctx p
      let secure : Prop := u.world 1 key = true ∧ u.ctxWorld u.t.ctx = false
      (¬ inTable → exec .copyStart s = .next (u.trap 0x10 (addrOf (u.ptr m.b) off) 8)) ∧
      (inTable → quota = false → exec .copyStart s = .next (u.trap 0x11 (addrOf (u.ptr m.b) off) 2)) ∧
      (inTable → quota = true → secure → exec .copyStart s = .next (u.trap 0x1A (addrOf (u.ptr m.b) off) key)) ∧
      (inTable → quota = true → ¬ secure → u.race u.t.party 0 (linesOf (padNode p) at_ 64) = none →
      ((u.copyQ key).length < 8 → let w := if bitOn tmpl.toNat 505 || bitOn tmpl.toNat 501 then u.flushMine else u
        Answers (exec .copyStart s) (fun t => t.t = u.t.step ∧ t.mem = w.mem ∧ ∃ cmd,
        t.copyQ key = u.copyQ key ++ [cmd] ∧ cmd.tmpl = tmpl ∧ cmd.ctx = u.t.ctx ∧
          cmd.core = u.cur / 8 ∧ cmd.lword = u.t.lcore ∧ cmd.checked = false ∧ cmd.next = 0)) ∧
      (8 ≤ (u.copyQ key).length → Answers (exec .copyStart s) (fun t => t.t = u.t.step ∧ t.copies = u.copies ∧
        ∃ r, t.net = u.net ++ [r] ∧ r.ctx = u.t.ctx ∧ r.core = u.cur / 8 ∧ natOfBytes r.payload / 2 ^ 56 % 2 ^ 8 = 5)))) ∧
    (off = 0x40 → Answers (exec .copyTtabWrite s) (fun t => t.t = u.t.step ∧
      (t.copyRegs u.t.ctx p).ttab = w64 (v.toNat % 2 ^ 31) ∧ (t.copyRegs u.t.ctx p).win = (u.copyRegs u.t.ctx p).win)) ∧
    (0xC0 ≤ off → Answers (exec .copyWindowWrite s) (fun t => t.t = u.t.step ∧
      tget 0 (t.copyRegs u.t.ctx p).win ((off - 0xC0) / 8) = w64 (v.toNat % 2 ^ 49) ∧
      (t.copyRegs u.t.ctx p).ttab = (u.copyRegs u.t.ctx p).ttab)) ∧
    (0x80 ≤ off → off < 0xC0 →
      let key := chanKey p ((off - 0x80) / 8)
      let fseq := v.toNat / 2 ^ 32
      let action := v.toNat % 4
      (u.priv = 0 → (action = 1 → exec .copyFaultResume s = .next (u.trap 0x11 (addrOf (u.ptr m.b) off) 2)) ∧
        (action = 2 → exec .copyFaultAbort s = .next (u.trap 0x11 (addrOf (u.ptr m.b) off) 2))) ∧
      (1 ≤ u.priv → u.copyWaiting key fseq = none → (action = 1 → exec .copyFaultResume s = .next u.next) ∧
        (action = 2 → exec .copyFaultAbort s = .next u.next)) ∧
      (∀ q cause c r, 1 ≤ u.priv → u.copyWaiting key fseq = some (q, cause, c, r) →
        (action = 1 → Answers (exec .copyFaultResume s) (fun t => t.t = u.t.step ∧
          t.copyQAt key q = { c with fault := none } :: r)) ∧
        (action = 2 → Answers (exec .copyFaultAbort s) (fun t => t.t = u.t.step ∧ t.copyQAt key q = r ∧
          ∃ x, t.net = u.net ++ [x] ∧ x.ctx = c.ctx ∧ natOfBytes x.payload / 2 ^ 56 % 2 ^ 8 = cause % 2 ^ 8))))

/-- R231, R235 to R238: a store that reaches another tile's aperture is reported and stores nothing; a command's
checks are made at the head, and a failed one ends it with its status; in its channel's turn, a beat that passes moves
its bytes, and the last ends the command; one whose place does not translate leaves the command waiting on a fault,
and a race or a revoked handle ends it; with SWEN the beat's bytes are counted in its sync word. The model's own
readings in it: log 84, 85, 86. -/
def Says.CopyBeats : Prop :=
  ∀ (s : State),
    (∀ q, s.posted[s.arg.a]? = some q → isCopy q.node = true → s.waitsFor q = false →
      (s.hlook q.ctx q.handle.toNat q.gen).isSome = true →
      Answers (exec .copyRefused s) (fun t => t.posted = s.posted.eraseIdx s.arg.a ∧ t.copies = s.copies ∧
        (t.dropped = s.dropped + 1 ∨ ∃ x, t.net = s.net ++ [x] ∧ hdrPrio x.hdr = 7))) ∧
    (∀ c r, s.copyQ s.arg.a = c :: r → s.onTiles c.ctx (padDie (s.arg.a / 8)) = true →
      (c.checked = false → s.copyCheck (s.arg.a / 8) c = none → exec .copyHeadCheck s =
        .next (s.setCopyQ s.arg.a ({ c with checked := true } :: r))) ∧
      (∀ st, c.checked = false → s.copyCheck (s.arg.a / 8) c = some st → Answers (exec .copyHeadCheck s) (fun t =>
        t.copyQ s.arg.a = r ∧ t.mem = s.mem ∧ ∃ x, t.net = s.net ++ [x] ∧ x.ctx = c.ctx ∧ x.core = c.core ∧
          natOfBytes x.payload / 2 ^ 56 % 2 ^ 8 = st % 2 ^ 8 ∧ natOfBytes x.payload / 2 ^ 96 = c.xferid)) ∧
      (c.checked = true → c.fault = none →
        let src := c.beat.map fun k => (c.srcOff k).toNat
        let dst := c.beat.map fun k => (c.dstOff k).toNat
        let ends (st : Nat) (t : State) : Prop := t.copyQ s.arg.a = r ∧ ∃ x, t.net = s.net ++ [x] ∧ x.ctx = c.ctx ∧
          x.core = c.core ∧ natOfBytes x.payload / 2 ^ 56 % 2 ^ 8 = st
        (s.copyTurn (s.arg.a / 8) ≠ some s.arg.a → exec .copyBeat s = .next s) ∧
        (s.copyTurn (s.arg.a / 8) = some s.arg.a →
        (s.copyNode c.ctx c.src = none ∨ s.copyNode c.ctx c.dst = none →
          Answers (exec .copyBeat s) (fun t => t.mem = s.mem ∧ ends 0x12 t)) ∧
        (∀ a b pa pb, s.copyNode c.ctx c.src = some a → s.copyNode c.ctx c.dst = some b →
        (∀ x, s.elemPlaces c.ctx a false c.esize src = .error x → x.cause ≠ 0x1A → Answers (exec .copyBeat s) (fun t =>
          t.mem = s.mem ∧ t.copyQ s.arg.a = { c with fault := some ((s.core c.core).fseq, x.cause) } :: r)) ∧
        (s.elemPlaces c.ctx a false c.esize src = .ok pa → s.elemPlaces c.ctx b true c.esize dst = .ok pb →
          ((s.nodeRelaxed a = false ∧ s.race c.party 0 (beatLines a c.esize src) ≠ none) ∨
            (s.nodeRelaxed b = false ∧ s.race c.party 1 (beatLines b c.esize dst) ≠ none) ∨
            (c.swen = true ∧ s.race c.party 3 (c.swLines (s.arg.a / 8)) ≠ none) →
            Answers (exec .copyBeat s) (fun t => t.mem = s.mem ∧ ends 0x20 t)) ∧
          (s.nodeRelaxed a = true ∨ s.race c.party 0 (beatLines a c.esize src) = none →
            s.nodeRelaxed b = true ∨ s.race c.party 1 (beatLines b c.esize dst) = none →
            c.swen = false ∨ s.race c.party 3 (c.swLines (s.arg.a / 8)) = none →
          Answers (exec .copyBeat s) (fun t =>
            let u := s.moveElems pa pb
            let at_ := padAddr (s.arg.a / 8) c.swoff
            let x := u.peekN at_ 16
            (c.swen = false → t.mem = u.mem) ∧
            (c.swen = true → SameOutside u t [({ addr := at_ }, 16)] ∧ t.peekN at_ 16 =
              (swAdvance (setBits x 32 32 (min (x / 2 ^ 32 % 2 ^ 32 + src.length * c.esize) (2 ^ 32 - 1)))).2) ∧
            (c.total ≤ c.next + src.length → ends 0 t) ∧
            (c.next + src.length < c.total → t.copyQ s.arg.a =
              { c with next := c.next + src.length, bytes := c.bytes + src.length * c.esize } :: r))))))))

/-- R246 to R260: what the name unit of a transaction's own die or of the die it moves to gives it: REVOKED for a
handle that is not live; NSTAT the entry's word; NOPEN the pointer, or NO_RIGHTS; NCLOSE frees the entry. A result
writes its cell or its bytes only where the status is OK; it goes to the issuing core with the request's tag, and
the transaction is gone. The model's own reading in it: log 95. -/
def Says.NameUnits : Prop :=
  ∀ (s : State), let i := s.arg.a
    let t := s.txn i
    (s.txns.any fun e => e.1 == i) = true → s.txnWaits i = false →
    (t.idle = false → s.txnDie i ≠ t.die → t.op ≠ 0 →
      let settled (r : TxRes) : Prop := Answers (exec .nameMove s) (fun u => (u.txn i).die = s.txnDie i ∧ (u.txn i).res = some r ∧ u.net = s.net)
      ∀ e, s.hlook t.ctx t.ha.1 t.ha.2 = some e → s.otherWorld t.ctx e.node = false →
        (t.op = 2 → t.ha.1 ≠ 0 → Answers (exec .nameMove s) (fun u => (u.hent t.ctx t.ha.1).used = false ∧
          ∃ r, (u.txn i).res = some r ∧ r.status = 0)) ∧
        (t.op = 7 → settled { handle := t.ha.1, gen := t.ha.2, entry := s.entryWord e }) ∧
        (t.op = 1 → let r := t.arg % 256
          (hasAll e.grant.toNat r = false ∨ (e.state = 2 ∧ hasAll e.rights.toNat r = false) → settled { status := 3 }) ∧
          (hasAll e.grant.toNat r = true → (e.state = 2 → hasAll e.rights.toNat r = true) →
            settled { handle := t.ha.1, gen := t.ha.2, value := w64 e.size, entry := openPtr r t.ha.1 t.ha.2 e.size }))) ∧
    (t.idle = false → s.txnDie i = t.die → t.op ≠ 0 → t.host = none → s.posted = [] → s.joins = [] →
      s.hlook t.ctx t.ha.1 t.ha.2 = none → Answers (exec .nameResult s) (fun u =>
        (u.txns.any fun e => e.1 == i) = false ∧ ∃ m, u.net = s.net ++ [m] ∧ m.core = t.core ∧ m.hidx = t.hidx ∧ m.ctx = t.ctx ∧
          natOfBytes m.payload % 256 = 4 ∧ natOfBytes m.payload / 2 ^ 16 % 2 ^ 16 = t.rtag % 2 ^ 16)) ∧
    (∀ r, t.res = some r → t.host = none → let v := (s.actLate r.late).deliverTxn t r
      Answers (exec .nameResult s) (fun u =>
      (u.txns.any fun e => e.1 == i) = false ∧ u.mem = v.2.mem ∧ ∃ m, u.net = s.net ++ [m] ∧ m.core = t.core ∧ m.hidx = t.hidx ∧
        m.ctx = t.ctx ∧ m.payload = v.1.payload t.op t.rtag ∧
        (r.status ≠ 0 → v = (r, s.actLate r.late)) ∧ (t.cell = none → t.op ≠ 3 → v = (r, s.actLate r.late)))) ∧
    (∀ r n, t.res = some r → t.host = some n → Answers (exec .nameResult s) (fun u => (u.txns.any fun e => e.1 == i) = false ∧
      u.net = s.net ∧ (u.fn n).rsptail = (s.fn n).rsptail + BitVec.ofNat 32 ((r.response t.op t.rtag).length / 64)))

/-- R245, R247, R248, R250, R251, R260, R272: a name unit acts on a transaction where it stands, or at the die to which
it moves. NWALK begins at its handle's node and looks up one component after another: in a directory where nothing is
bound that needs X, finds the name or NOT_BOUND, and takes no node of another world; a component of another die waits
for the move, a peer node ends the walk with PEER_DOWN, and the first failure ends it with its status and index. When
every component is resolved it takes an entry in state walked, with the node's grant as its rights, and returns its
node pointer, or FULL. -/
def Says.NameWalks : Prop :=
  (∀ (s : State), let i := s.arg.a
    let t := s.txn i
    (s.txns.any fun e => e.1 == i) = true → s.txnWaits i = false → t.idle = false →
      (s.txnDie i ≠ t.die → exec .nameMove s = .next ((s.setTxn i { t with die := s.txnDie i }).txnAct i)) ∧
      (s.txnDie i = t.die → exec .nameResult s = .next ((s.txnAct i).postTxn i))) ∧
  (∀ (s : State) (i : Nat), let t := s.txn i
    let u := s.txnAct i
    let fails (st ix : Nat) : Prop := ∃ r, (u.txn i).res = some r ∧ r.status = st ∧ r.failidx = ix
    let walked (h : Nat) (n : Node) (g ix : Nat) : Prop :=
      (u.hent t.ctx h).node = n ∧ (u.hent t.ctx h).state = 1 ∧ (u.hent t.ctx h).rights = BitVec.ofNat 8 g ∧
      ∃ r, (u.txn i).res = some r ∧ r.status = 0 ∧ r.handle = h ∧ r.gen = (u.hent t.ctx h).gen ∧ r.failidx = ix ∧
        r.value = w64 (s.nodeKind n * 256 + g) ∧ r.entry = nodePtr h r.gen
    let ends (n : Node) (g ix : Nat) (via : Option (Node × List Byte)) : Prop :=
      (∀ h w, s.takeHandle t.ctx (s.newEntry t.ctx 1 n g g via) = some (h, w) → walked h n g ix) ∧
      (s.takeHandle t.ctx (s.newEntry t.ctx 1 n g g via) = none → fails 10 ix)
    t.op = 0 →
    (t.wgo = false →
      (s.hlook t.ctx t.ha.1 t.ha.2 = none → fails 4 0) ∧
      ∀ e, s.hlook t.ctx t.ha.1 t.ha.2 = some e →
        (s.otherWorld t.ctx e.node = true → fails 8 0) ∧
        (s.otherWorld t.ctx e.node = false →
          let p := s.enter t.ctx 65 { node := e.node, grant := e.grant.toNat, cross := 0, via := e.via }
          u = (s.setTxn i { t with
            wgo := true, wnode := p.node, wgrant := p.grant, wcross := p.cross, wvia := p.via }).txnAct i)) ∧
    (t.wgo = true → t.res = none →
      ((splitSlash t.data)[t.wix]? = none → ends t.wnode t.wgrant t.wix t.wvia) ∧
      ∀ name, (splitSlash t.data)[t.wix]? = some name →
        (s.nodeKind t.wnode = kPeer → fails 7 (t.wix - 1)) ∧
        (s.nodeKind t.wnode ≠ kPeer →
          let found := s.lookComp t.ctx { node := t.wnode, grant := t.wgrant, cross := t.wcross } name
          (s.walkDie t ≠ t.die → u = s) ∧
          (s.walkDie t = t.die →
            (∀ st, found = .error st → fails st t.wix) ∧
            ∀ p, found = .ok p → (splitSlash t.data)[t.wix + 1]? = none → ends p.node p.grant (t.wix + 1) p.via)))) ∧
  ∀ (s : State) (c : Nat) (p : Spot) (name : List Byte), (∀ b ∈ s.bindsOf c, b.point ≠ p.node) → p.cross ≤ 64 →
    (s.nodeKind p.node ≠ kDir → s.lookComp c p name = .error 2) ∧
    (s.nodeKind p.node = kDir →
      (hasAll p.grant rX = false → s.lookComp c p name = .error 3) ∧
      (hasAll p.grant rX = true →
        (s.child c p.node name = none → s.lookComp c p name = .error 1) ∧
        ∀ x, s.child c p.node name = some x →
          (s.otherWorld c x = true → s.lookComp c p name = .error 8) ∧
          (s.otherWorld c x = false → (∀ b ∈ s.bindsOf c, b.point ≠ x) → s.lookComp c p name =
            .ok { node := x, grant := s.entryGrant c x, cross := p.cross, via := some (p.node, name) })))

/-- R241, R248, R253 to R255, R257, R258, R268: what a name unit does with the other transactions on a live handle of
its own world, after the issuer's earlier writes through it where they write, close or remove. NREAD gives the bytes at
its places and NWRITE stores its data there; a race gives RACE, a place of another world WORLD, a place without a
translation holds the access, a queue at an offset other than 0 and an object of another kind give NO_RIGHTS. NBIND
adds a binding, or gives NOT_DIR or, the ninth, FULL; NUNBIND takes the context's own bindings away and counts them, or
gives NOT_BOUND. NREVOKE needs M and ends every other handle on the node, counting them. NCREATE needs W, adds the name
and its node beneath the directory, with an open handle, or gives the status of its failed check. NREMOVE needs W in
the directory through which the node was walked, and takes the name away. -/
def Says.NameEffects : Prop :=
  ∀ (s : State) (i : Nat) (e : HEntry), let t := s.txn i
    let u := s.txnAct i
    let v := if t.op = 2 ∨ t.op = 4 ∨ t.op = 8 ∨ t.op = 10 then
        s.flush fun q => q.party == t.issuer && q.ctx == t.ctx && q.handle.toNat == t.ha.1
      else s
    v.hlook t.ctx t.ha.1 t.ha.2 = some e → v.otherWorld t.ctx e.node = false →
    (t.op = 3 ∨ t.op = 4 → t.host = none →
      let k := v.nodeKind e.node
      let w : Bool := t.op == 4
      let calm : Prop := v.nodeRelaxed e.node = true ∨
        v.race t.party (if w then 1 else 0) (linesOf e.node t.off t.arg) = none
      (k = kMemo ∨ k = kCode →
        (∀ x, v.places t.ctx e.node w false (pieces t.off t.arg) = .error x →
          (x.cause = 0x1A → u.StatusIs i 8) ∧ (x.cause ≠ 0x1A → ∃ q, (u.txn i).held = some q)) ∧
        ∀ l, v.places t.ctx e.node w false (pieces t.off t.arg) = .ok l →
          (¬ calm → u.StatusIs i 32 ∧ u.mem = v.mem) ∧
          (calm → u.ValueIs i t.arg ∧
            (w = true → u.mem = (v.pokePlaces l t.data).mem) ∧
            (w = false → u.mem = v.mem ∧ ∃ r, (u.txn i).res = some r ∧ r.data = v.peekPlaces l))) ∧
      (k = kQueue → t.off ≠ 0 → u.StatusIs i 3) ∧
      (k ≠ kMemo → k ≠ kCode → k ≠ kQueue → k ≠ kCtl → u.StatusIs i 3) ∧
      (k = kCtl → w = true → (u.txn i).ctl = some e.node)) ∧
    (t.op = 5 → ∀ b src, t.hb = some b → s.hlook t.ctx b.1 b.2 = some src →
      let shadow : Bool := t.arg / 256 == 2
      let notDir : Prop := s.nodeKind e.node ≠ kDir ∨ (shadow = false ∧ s.nodeKind src.node ≠ kDir)
      let full : Prop := 8 ≤ (s.bindsOf t.ctx).countP fun x => x.point = e.node
      (notDir → u.StatusIs i 2 ∧ u.bindsOf t.ctx = s.bindsOf t.ctx) ∧
      (¬ notDir → full → u.StatusIs i 10 ∧ u.bindsOf t.ctx = s.bindsOf t.ctx) ∧
      (¬ notDir → ¬ full → u.ValueIs i 0 ∧ u.bindsOf t.ctx = s.bindsOf t.ctx ++
        [{ point := e.node, src := src.node, shadow := shadow, rank := t.arg % 256, bySup := none, grant := src.grant }])) ∧
    (t.op = 6 → ∀ n : Option Node,
      (match t.hb with
        | none => n = none
        | some b => ∃ x, s.hlook t.ctx b.1 b.2 = some x ∧ n = some x.node) →
      let hit (b : Bind) : Bool := b.point == e.node && b.bySup.isNone && (n.isNone || n == some b.src)
      let k := (s.bindsOf t.ctx).countP hit
      (k = 0 → u.StatusIs i 1 ∧ u.bindsOf t.ctx = s.bindsOf t.ctx) ∧
      (k ≠ 0 → u.ValueIs i k ∧ u.bindsOf t.ctx = (s.bindsOf t.ctx).filter fun b => !hit b)) ∧
    (t.op = 8 →
      (e.state ≠ 2 ∨ hasAll e.rights.toNat rM = false → u.StatusIs i 3) ∧
      (e.state = 2 → hasAll e.rights.toNat rM = true →
        u.ValueIs i (v.tables.map fun c => (v.htab c).countP fun x =>
          x.2.used && x.2.node == e.node && (c, x.1) != (t.ctx, t.ha.1)).sum ∧
        u.hent t.ctx t.ha.1 = e ∧
        ∀ c k, c ∈ v.tables → k ≠ 0 → (c, k) ≠ (t.ctx, t.ha.1) → (v.hent c k).used = true → (v.hent c k).node = e.node →
          (u.hent c k).used = false ∧ ((v.hent c k).gen < 4095 → (v.hent c k).gen < (u.hent c k).gen))) ∧
    (t.op = 9 → let spec := t.spec.toNat
      (e.state ≠ 2 ∨ hasAll e.rights.toNat rW = false → u.StatusIs i 3) ∧
      (e.state = 2 → hasAll e.rights.toNat rW = true →
        (s.nodeKind e.node ≠ kDir → u.StatusIs i 2) ∧
        (s.nodeKind e.node = kDir → s.present t.ctx e.node e.grant.toNat t.data = true → u.StatusIs i 9) ∧
        (s.nodeKind e.node = kDir → s.present t.ctx e.node e.grant.toNat t.data = false →
          (∀ st, s.createDir t.ctx e.node e.grant.toNat = .error st → u.StatusIs i st) ∧
          ∀ dir g, s.createDir t.ctx e.node e.grant.toNat = .ok (dir, g) →
            (spec % 8 ≠ 0 → s.dirTier dir = none → u.StatusIs i 3) ∧
            ∀ m, s.newNode t.ctx spec dir = .ok m →
              m.kind = (if spec % 8 = 0 then kDir else kMemo) ∧ m.grant = BitVec.ofNat 8 (spec / 2 ^ 8 % 2 ^ 8) ∧
              (spec % 8 ≠ 0 → m.size = spec / 2 ^ 16 % 2 ^ 32 * 65536 ∧ s.dirTier dir = some m.tier ∧
                m.relaxed = bitOn spec 6) ∧
              (s.takeHandle t.ctx {} = none ∨ s.make m (some (dir, t.data, none)) = none → u.StatusIs i 10) ∧
              ∀ x k w, s.takeHandle t.ctx {} = some x → s.make m (some (dir, t.data, none)) = some (k, w) →
                u.names = s.names ++ [{ dir := dir, name := t.data, node := .made k, only := none }] ∧
                (u.madeN k).kind = m.kind ∧ (u.madeN k).size = m.size ∧ (u.madeN k).grant = m.grant ∧
                (u.madeN k).home = m.home ∧
                let rights := spec / 2 ^ 8 % 2 ^ 8 &&& g
                (u.hent t.ctx x.1).node = .made k ∧ (u.hent t.ctx x.1).state = 2 ∧
                (u.hent t.ctx x.1).rights = BitVec.ofNat 8 rights ∧
                ∃ r, (u.txn i).res = some r ∧ r.status = 0 ∧ r.handle = x.1 ∧ r.gen = (u.hent t.ctx x.1).gen ∧
                  r.entry = openPtr rights x.1 r.gen m.size))) ∧
    (t.op = 10 →
      (e.via = none ∨ (∀ k, e.node ≠ .made k) → u.StatusIs i 3 ∧ u.names = v.names) ∧
      ∀ dir name k, e.via = some (dir, name) → e.node = .made k →
        let hit (x : NameEnt) : Bool := x.dir == dir && x.name == name && x.node == e.node
        let kept : Prop := u.names = v.names
        let may : Prop := hasAll (v.nodeGrant t.ctx dir) rW = true
        let holds : Prop := v.nodeKind e.node = kDir ∧ (v.names.any fun x => x.dir == e.node) = true
        (¬ may → u.StatusIs i 3 ∧ kept) ∧
        (may → holds → u.StatusIs i 11 ∧ kept) ∧
        (may → ¬ holds → v.names.any hit = false → u.StatusIs i 1 ∧ kept) ∧
        (may → ¬ holds → v.names.any hit = true → u.ValueIs i 0 ∧ u.names = v.names.filter fun x => !hit x))

/-! ### Groups of the statements above -/

/-- The matrix engine's own steps (R186 to R209, R212 to R215, R222, R224, R226). -/
def Obligations.MatrixSteps : Prop := Says.GangSteps ∧ Says.MoveBeats ∧ Says.ButterflySteps

/-- The copy engine's own steps (R231 to R233, R235 to R238). -/
def Obligations.CopySteps : Prop := Says.CopyStores ∧ Says.CopyBeats

/-- A name unit performs a transaction and returns its result (R241, R245 to R260, R268, R272). -/
def Obligations.NameUnitSteps : Prop := Says.NameUnits ∧ Says.NameWalks ∧ Says.NameEffects

/-! ### Page commands, partitions, contexts and slot objects (R261 to R271, R312 to R326, R345) -/

/-- R264, R265: every page command refuses a record with reserved bits set or COUNT 0, and an issuer below its
level, of another function or a secure monitor, without changing a page; OP 10 to 15 are refused; a refusal and a
completion give their status word. The model's own reading in it: log 101. -/
def Says.PageRefusals : Prop :=
  ∀ (s : State), let i := s.arg.a
    let ends (o : Host.Outcome State Fault Refusal) (st : Nat) : Prop := Answers o (fun t =>
      (t.txn i).spec = w64 st ∧ (t.txn i).paged = some (s.cmdKeys (s.txn i)) ∧ t.made = s.made ∧ t.fns = s.fns ∧ t.mem = s.mem)
    (∀ e ∈ ([(0, .pageMap, 1), (1, .pageUnmap, 1), (2, .pageCompress, 1), (3, .pageExpand, 1), (4, .pageDemote, 1),
        (5, .pageMap2, 2), (6, .pageUnmap2, 2), (7, .pageMove, 2), (8, .pageQuery, 1), (9, .pageAbort, 1)] : List (Nat × Instr × Nat)),
      ∀ n c x, s.pageCmd i e.1 = some (n, c, x) →
        (pcBad x = true → ends (exec e.2.1 s) 1) ∧
        (pcBad x = false → s.issuerAt c n e.2.2 = false → ends (exec e.2.1 s) 2) ∧
        (pcBad x = false → s.ctxFn c.ctx ≠ n ∨ s.ctxPriv c.ctx < e.2.2 ∨ s.ctxPriv c.ctx = 3 → ends (exec e.2.1 s) 2)) ∧
    (∀ n c, s.vfWrite i 0x100 32 = some (n, c) → c.paged = none → 10 ≤ natOfBytes c.data % 16 → ends (exec .pageBadop s) 1) ∧
    (∀ keys, (s.txn i).paged = some keys → (s.txn i).res = none → (∀ j, (s.txn j).held = none) →
      Answers (exec .pageCommandDone s) (fun t => t.ValueIs i (s.txn i).spec.toNat ∧ t.made = s.made ∧
        ∀ o ∈ t.oldMaps, o.txn ≠ i))

/-- R262, R264, R269: a first-stage command on one page: MAP makes an absent page resident at its frame, UNMAP
makes it absent, COMPRESS puts a resident one into its zone with its bytes, or answers FULL where it does not fit,
EXPAND and DEMOTE make it resident at a frame in HBM and in LPDDR, and QUERY reports its state and changes nothing.
The model's own readings in it: log 103, 104, 107. -/
def Says.PageStage1 : Prop :=
  ∀ (s : State) (op n x k : Nat) (c : Txn), let i := s.arg.a
    let m := s.madeN k
    let ps := pageSize m.size
    let p := pcPAGE x
    let f := pcFRAME x
    s.pageCmd i op = some (n, c, x) → pcBad x = false → s.issuerAt c n 1 = true → (s.hent c.ctx (pcHIDX x)).used = true →
    (s.hent c.ctx (pcHIDX x)).node = .made k → m.paged = true → m.kind ≠ kMull → pcCOUNT x = 1 → p < footprint m.size / ps →
    let becomes (ins : Instr) (new : Page) : Prop := Answers (exec ins s) (fun t => tget .own (t.madeN k).pages p = new ∧
      (∀ q, q ≠ p → tget .own (t.madeN k).pages q = tget .own m.pages q) ∧
      (t.txn i).spec = pageStatus 0 1 (psizeCode ps) 0 ∧ (t.txn i).paged = some [pageKey k p])
    (∀ tier, op = 0 → s.frameOk m.fn f ps = .ok tier → tget .own m.pages p = .absent → becomes .pageMap (.frame f)) ∧
    (op = 1 → becomes .pageUnmap .absent) ∧
    (∀ a, op = 2 → ps = 65536 → s.inHbm k p = true → (s.pageFrame k p).bind (s.frameAddr m.fn) = some a →
      (s.fn m.fn).recd.zone ≠ 0 → s.MemOk →
      if s.zoneUsed m.fn m.home + Config.compressedBytes (takeRange s.mem a 65536) ≤ (s.fn m.fn).recd.zone * 2 ^ 30 then
        becomes .pageCompress .zone ∧ Answers (exec .pageCompress s) (fun t =>
          ∀ j, j < 65536 → readByte t.mem (zoneAddr k p + j) = readByte s.mem (a + j))
      else Answers (exec .pageCompress s) (fun t => t.made = s.made ∧ t.mem = s.mem ∧
        (t.txn i).spec = pageStatus psFULL 0 (psizeCode ps) 0)) ∧
    (op = 3 → s.frameOk m.fn f ps = .ok 0 → tget .own m.pages p = .zone → becomes .pageExpand (.frame f)) ∧
    (op = 4 → s.frameOk m.fn f ps = .ok 1 → tget .own m.pages p = .zone ∨ s.inHbm k p = true → becomes .pageDemote (.frame f)) ∧
    (op = 8 → Answers (exec .pageQuery s) (fun t => t.made = s.made ∧ t.mem = s.mem ∧
      (t.txn i).spec = pageStatus 0 1 (psizeCode ps) (s.pageState k p)))

/-- R264, R268, R270, R297: a second-stage command on one granule: MAP2, UNMAP2 and MOVE write its entry, but not that
of a granule that holds part of a replica; a MOVE past the moves that its window allows is refused with SETTLED. ABORT
ends the held accesses it names with BUSY, and completes no page. The model's
own readings in it: log 101, 102, 105. -/
def Says.PageStage2 : Prop :=
  ∀ (s : State) (op n x : Nat) (c : Txn), let i := s.arg.a
    let gg := pcPAGE x
    let g := pcFRAME x
    s.pageCmd i op = some (n, c, x) → pcBad x = false →
    (s.issuerAt c n 2 = true → pcCOUNT x = 1 →
      let writes (ins : Instr) (w : Nat) : Prop := Answers (exec ins s) (fun t => tget 0 (t.fn n).s2 gg = w ∧
        (∀ q, q ≠ gg → tget 0 (t.fn n).s2 q = tget 0 (s.fn n).s2 q) ∧ (t.txn i).spec = pageStatus 0 1 0 0)
      (s.holdsReplica n gg = true →
        let refused (ins : Instr) : Prop := Answers (exec ins s) (fun t => t.fns = s.fns ∧ t.mem = s.mem ∧
          (t.txn i).spec = pageStatus 3 0 0 0)
        (op = 5 → refused .pageMap2) ∧ (op = 6 → refused .pageUnmap2) ∧ (op = 7 → refused .pageMove)) ∧
      (s.holdsReplica n gg = false →
      (op = 5 → s.granuleOk n g = true → writes .pageMap2 (g + 2)) ∧
      (op = 6 → (s.stage2 n gg).isSome = true → writes .pageUnmap2 1) ∧
      (∀ old, op = 7 → s.granuleOk n g = true → s.stage2 n gg = some old → old % 32 ≠ g % 32 →
        ((s.recentMoves n gg).length < (s.fn n).recd.maxmoves → writes .pageMove (g + 2)) ∧
        ((s.fn n).recd.maxmoves ≤ (s.recentMoves n gg).length → Answers (exec .pageMove s) (fun t =>
          (t.fn n).s2 = (s.fn n).s2 ∧ (t.txn i).spec = pageStatus 5 0 0 0))))) ∧
    (∀ j y, op = 9 → s.issuerAt c n 1 = true → (j, y) ∈ s.txns → y.held = some (g % 2 ^ 32) → s.ctxFn y.ctx = n →
      y.host.isSome = bitOn g 44 → (if y.host.isSome then 0 else y.lword) = g / 2 ^ 32 % 2 ^ 12 →
      Answers (exec .pageAbort s) (fun t => t.StatusIs j 5 ∧ (t.txn i).spec = pageStatus 0 0 0 0))

/-- R312, R316, R321, R322, R345: the records that shape a partition: a writer that may not is refused, a record out
of range gets its status and changes nothing, and one that passes takes effect, the L2 split as its result is posted
and the others at once. A function record leaves its quartos and their semaphores reset. The model's own reading in
it: log 116. -/
def Says.PartitionRecords : Prop :=
  ∀ (s : State), let i := s.arg.a
    (∀ n c, s.vfWrite i 0 64 = some (n, c) → let x := natOfBytes c.data
      (c.host = none → Answers (exec .functionRecord s) (fun t => t.StatusIs i 3 ∧ t.fns = s.fns)) ∧
      (c.host.isSome = true → s.recordStatus n x ≠ 0 → Answers (exec .functionRecord s) (fun t =>
        t.ValueIs i (s.recordStatus n x) ∧ t.fns = s.fns)) ∧
      (c.host.isSome = true → s.recordStatus n x = 0 → Answers (exec .functionRecord s) (fun t => t.ValueIs i 0 ∧
        (t.fn n).recd = recordOf x ∧ (∀ q, q < 128 → bitOn (x / 2 ^ 384 % 2 ^ 128) q = true → t.quarto q = {} ∧
          ∀ p ∈ (1024 + q) :: quartoPads q, ∀ id, id < 32 → t.sem p id = 0) ∧
        ∀ k, k ≠ n → t.fn k = s.fn k))) ∧
    (∀ n c, s.vfWrite i 0x40 8 = some (n, c) → let v := natOfBytes c.data % 2 ^ 5
      (s.ctxFn c.ctx ≠ n ∨ s.ctxPriv c.ctx ≠ 1 → Answers (exec .l2Split s) (fun t => t.StatusIs i 3 ∧ t.fns = s.fns)) ∧
      (s.ctxFn c.ctx = n → s.ctxPriv c.ctx = 1 →
        ((s.fn n).l2limit.toNat % 2 ^ 5 < v → Answers (exec .l2Split s) (fun t => t.ValueIs i 2 ∧ t.fns = s.fns)) ∧
        (let room (d : Nat) : Nat := v * 2 ^ 20 * (s.quartosOf n).countP fun q => q / 4 == d
         v ≤ (s.fn n).l2limit.toNat % 2 ^ 5 →
          ((∃ d ∈ s.diesOf n, room d < s.l2Used n d) → Answers (exec .l2Split s) (fun t => t.ValueIs i 3 ∧ t.fns = s.fns)) ∧
          ((∀ d ∈ s.diesOf n, s.l2Used n d ≤ room d) → Answers (exec .l2Split s) (fun t => t.ValueIs i 0 ∧ t.fns = s.fns ∧
            ∃ x, (t.txn i).res = some x ∧ x.late = .split n v))))) ∧
    (∀ x n v, (s.txns.any fun e => e.1 == i) = true → s.txnWaits i = false → (s.txn i).res = some x → x.late = .split n v →
      (s.txn i).host = none → Answers (exec .nameResult s) (fun t => (t.fn n).l2store = v ∧ (t.fn n).recd = (s.fn n).recd)) ∧
    (∀ n k c, s.queueWrite i = some (n, k, c) → let v := natOfBytes c.data
      (s.ctxFn c.ctx ≠ n ∨ s.ctxPriv c.ctx ≠ 1 → Answers (exec .launchQueueConfig s) (fun t => t.StatusIs i 3 ∧ t.fns = s.fns)) ∧
      (s.ctxFn c.ctx = n → s.ctxPriv c.ctx = 1 → s.queueStatus n k v ≠ 0 →
        Answers (exec .launchQueueConfig s) (fun t => t.ValueIs i (s.queueStatus n k v) ∧ t.fns = s.fns)) ∧
      (s.ctxFn c.ctx = n → s.ctxPriv c.ctx = 1 → s.queueStatus n k v = 0 → Answers (exec .launchQueueConfig s) (fun t =>
        t.ValueIs i 0 ∧ (t.lqueue n k).cfg = BitVec.ofNat 256 v ∧ (t.lqueue n k).slots = (s.lqueue n k).slots))) ∧
    (∀ n c, 0x1000 ≤ (s.txn i).off → (s.txn i).off < 0x5000 → (s.txn i).off % 16 = 0 → s.vfWrite i (s.txn i).off 16 = some (n, c) →
      c.host.isSome = true → Answers (exec .cxlWindowMap s) (fun t => t.StatusIs i 0 ∧
        tget 0 (t.fn n).cxlmap (((s.txn i).off - 0x1000) / 16) =
          BitVec.ofNat 128 (natOfBytes c.data % 2 ^ 32 + natOfBytes c.data / 2 ^ 64 % 2 ^ 32 * 2 ^ 64)))

/-- R185, R324, R325: CREATE makes a context with the record's level, governor and halves and its three tables open
as handles 1, 2 and 3; DESTROY ends one; HALVES gives it its halves; each record that fails a check gets its status
and makes no change. The model's own readings in it: log 111, 112, 114. -/
def Says.ContextRecords : Prop :=
  ∀ (s : State) (n k x : Nat) (c : Txn), let i := s.arg.a
    (s.ctxWrite i 1 = some (n, k, c, x) →
      (s.createStatus c n k x ≠ 0 → Answers (exec .contextCreate s) (fun t =>
        t.ValueIs i (s.createStatus c n k x) ∧ t.ctxs = s.ctxs)) ∧
      (s.createStatus c n k x = 0 → s.makeTables n (xHTENT x) = none → Answers (exec .contextCreate s) (fun t =>
        t.ValueIs i 10 ∧ t.ctxs = s.ctxs)) ∧
      (s.createStatus c n k x = 0 → (s.makeTables n (xHTENT x)).isSome = true → Answers (exec .contextCreate s) (fun t =>
        let y := t.ctx (xCTXID x)
        t.ValueIs i 0 ∧ y.live = true ∧ y.fn = n ∧ y.slot = k ∧ y.priv = x / 2 ^ 16 % 2 ^ 2 ∧ y.govern = x / 2 ^ 80 % 2 ^ 16 ∧
        y.halves.toNat = x / 2 ^ 256 % 2 ^ 256 ∧ y.hbase = 1 ∧ y.coretab = 2 ∧ y.routetab = 3 ∧
        y.htsize = w64 (x / 2 ^ 96 % 2 ^ 16) ∧ y.tvec = 0xFFFF00000000 ∧ y.dvec = 0xFFFF00000000 ∧ y.stopped = false))) ∧
    (s.ctxWrite i 2 = some (n, k, c, x) →
      (xBad x = true → Answers (exec .contextDestroy s) (fun t => t.ValueIs i 1 ∧ t.ctxs = s.ctxs)) ∧
      (xBad x = false → s.ctxWriter c n = false → Answers (exec .contextDestroy s) (fun t => t.ValueIs i 2 ∧ t.ctxs = s.ctxs)) ∧
      (xBad x = false → s.ctxWriter c n = true → s.slotCtx n k = none → Answers (exec .contextDestroy s) (fun t =>
        t.ValueIs i 3 ∧ t.ctxs = s.ctxs)) ∧
      (∀ d, xBad x = false → s.ctxWriter c n = true → s.slotCtx n k = some d →
        Answers (exec .contextDestroy s) (fun t => t.ctx d = {} ∧ (c.ctx ≠ d → t.ValueIs i 0)))) ∧
    (s.ctxWrite i 3 = some (n, k, c, x) →
      (xBad x = true → Answers (exec .contextHalves s) (fun t => t.ValueIs i 1 ∧ t.ctxs = s.ctxs)) ∧
      (xBad x = false → s.ctxWriter c n = true → s.slotCtx n k = none → Answers (exec .contextHalves s) (fun t =>
        t.ValueIs i 3 ∧ t.ctxs = s.ctxs)) ∧
      (∀ d, xBad x = false → s.slotCtx n k = some d →
      (s.ctxWriter c n = true → s.halvesOk n d x = true → Answers (exec .contextHalves s) (fun t =>
        t.ValueIs i 0 ∧ (t.ctx d).halves.toNat = x / 2 ^ 256 % 2 ^ 256 ∧ (s.port = [] → ∀ y, y ≠ d → t.ctx y = s.ctx y))) ∧
      (s.ctxWriter c n = false ∨ s.halvesOk n d x = false → Answers (exec .contextHalves s) (fun t =>
        t.ValueIs i 2 ∧ t.ctxs = s.ctxs))))

/-- R326: a node record whose form, writer and path are right: MAKEQ and MAKEPEER add a node that the slot's
context alone sees, BIND adds a binding narrowed by GRANT, UNBIND removes the slot's bindings at the point. The
model's own reading in it: log 117. -/
def Says.NodeRecords : Prop :=
  ∀ (s : State) (op n k cx : Nat) (c : Txn) (path : List Byte) (p : Node × Nat), let i := s.arg.a
    let x := natOfBytes c.data
    s.slotWrite i = some (n, k, c) → c.off = 0 → c.arg = 256 → nrOP x = op → s.slotCtx n k = some cx →
    s.reachesSlot c.ctx n cx = true → unpad (c.data.drop 64) = some path →
    (path = [] ∨ pathOk 16 path = true) → s.pointAt cx path = .ok p → s.nodeKind p.1 = kDir →
    (∀ name pad d u, nrName c = some name →
      let added (u : State) (ins : Instr) (is : Made → Prop) : Prop := u.nodeKind (u.behind cx 65 p).1 = kDir →
        u.present cx p.1 p.2 name = false → Answers (exec ins s) (fun t => t.ValueIs i 0 ∧
          ∃ j, NameEnt.mk (u.behind cx 65 p).1 name (.made j) (some cx) ∈ t.names ∧ is (t.madeN j))
      (op = 1 → nrQDESC x % 32 = 0 → s.mapPad cx (nrQDIE x) (nrQTILE x) = some pad →
        s.seeing cx pad (fun u => (u.desc pad (nrQDESC x), u)) = (d, u) → nrQDESC x + 32 ≤ u.padSize cx pad →
        d.faulty (u.padSize cx pad) = false →
        added u .makeq fun m => m.kind = kQueue ∧ m.qpad = pad ∧ m.qdesc = nrQDESC x ∧ m.size = d.slotBytes) ∧
      (op = 2 → added s .makepeer fun m => m.kind = kPeer ∧ m.peer = nrPEERM x)) ∧
    (op = 3 → ((nrMODE x = 1 ∧ nrRANK x ≠ 128) ∨ (nrMODE x = 2 ∧ nrRANK x = 0)) →
      (s.hlook c.ctx (nrSHND x) (nrSGEN x) = none → Answers (exec .slotBind s) (fun t => t.ValueIs i 0x403 ∧
        t.bindsOf cx = s.bindsOf cx)) ∧
      (∀ src, s.hlook c.ctx (nrSHND x) (nrSGEN x) = some src → (nrMODE x = 2 ∨ s.nodeKind src.node = kDir) →
        ((s.bindsOf cx).countP fun b => b.point = p.1) < 8 → Answers (exec .slotBind s) (fun t => t.ValueIs i 0 ∧
          t.bindsOf cx = s.bindsOf cx ++
            [Sys2Proof.Machine.Bind.mk p.1 src.node (nrMODE x == 2) (nrRANK x) (some (BitVec.ofNat 8 (nrGRANT x))) src.grant]))) ∧
    (op = 4 → Answers (exec .slotUnbind s) (fun t => t.ValueIs i 0 ∧
      t.bindsOf cx = (s.bindsOf cx).filter fun b => !(b.point = p.1 && b.bySup.isSome)))

/-- R28, R326, R330, R337: other writes of control objects: a supervisor writes a channel's word, a trace unit's
writer its RDPTR, and a STATE write that no transition permits sets BADTRANS; a slot object's record with another
OP gets VALUE 1. R323: only a secure monitor's write of worldctl takes effect: it sets the block's world with DONE, or
answers REFUSED where there is no such block or it is held. The model's own readings in it: log
119, 120, 131. -/
def Says.ControlWrites : Prop :=
  ∀ (s : State), let i := s.arg.a
    let c := s.txn i
    (∀ d t k ch, c.ctl = some (.chan d t k ch) → c.op = 4 → c.held = none → s.ctxPriv c.ctx = 1 → c.off = 0 →
      c.data.length = 16 → c.arg = 16 → ch < 16 → let key := 16 * coreOf d t k + ch
      Answers (exec .controlWrite s) (fun u => u.StatusIs i 0 ∧ (u.chan key).backH.toNat = natOfBytes c.data / 2 ^ 44 % 2 ^ 20 ∧
        (u.chan key).backDepth.toNat = natOfBytes c.data / 2 ^ 64 % 2 ^ 32 ∧
        (natOfBytes c.data % 4 < 2 → (u.chan key).mode.toNat = natOfBytes c.data % 4) ∧
        ((s.chan key).ingress = [] → (u.chan key).onchip = (s.chan key).onchip))) ∧
    (∀ d, c.ctl = some (.trace d) → c.op = 4 → c.held = none → c.off = 0x18 → c.arg = 8 →
      (s.traceWriter c = true → Answers (exec .controlWrite s) (fun u => u.StatusIs i 0 ∧
        (u.traceU d).rdptr = natOfBytes c.data)) ∧
      (s.traceWriter c = false → Answers (exec .controlWrite s) (fun u => u.StatusIs i 3 ∧ u.traces = s.traces))) ∧
    (∀ n, c.ctl = some (.vfmigrate n) → c.op = 4 → c.held = none → c.host.isSome = true → c.off = 0 → c.arg = 8 →
      migrOwn (s.fn n).migr.st (natOfBytes c.data % 2 ^ 3) = false → Answers (exec .controlWrite s) (fun u =>
        (u.fn n).migr.err = 1 ∧ (u.fn n).migr.st = (s.fn n).migr.st)) ∧
    (∀ n k cx, c.ctl = some (.ctxslot n k) → c.op = 4 → c.held = none → s.slotCtx n k = some cx →
      s.reachesSlot c.ctx n cx = true → c.off = 0 → c.arg = 256 →
      nrOP (natOfBytes c.data) = 0 ∨ 4 < nrOP (natOfBytes c.data) →
      Answers (exec .controlWrite s) (fun u => u.ValueIs i 1)) ∧
    (∀ v u, s.nextCrWrite s.arg.a = some (0x1C1, v, u) → 0x1C1 < crLimit u.priv → u.ctxWorld u.t.ctx = true →
      let kind := v.toNat % 2 ^ 3
      let idx := v.toNat / 2 ^ 16
      Answers (exec .worldctlWrite s) (fun w => w = u.crStore 0x1C1 v ∧ w.t = u.t.step ∧
        (worldIndex kind idx = true → u.blockHeld kind idx = false →
          w.world kind idx = decide (v.toNat / 2 ^ 3 % 2 = 1) ∧ w.worldctl.toNat / 2 ^ 7 % 2 ^ 2 = 1) ∧
        (worldIndex kind idx = false ∨ u.blockHeld kind idx = true →
          w.worlds = u.worlds ∧ w.worldctl.toNat / 2 ^ 7 % 2 ^ 2 = 2))) ∧
    (∀ r v u, s.nextCrWrite s.arg.a = some (r, v, u) → r ≠ 0x1C1 ∨ u.ctxWorld u.t.ctx = false → exec .worldctlWrite s = .next s)

/-- R351, R352, R356: a host's load is taken when no other is under way, and completes after the patches that the
loader took before it; a load whose context is not the function's is
MALFORMED; one that passes every step stands whole, with result 0, and one that fails a step leaves nothing but its
status. The model's own readings in it: log 132, 133, 134. -/
def Says.Loads : Prop :=
  ∀ (s : State), let i := s.arg.a
    (∀ n c, s.vfWrite i 0xB00 48 = some (n, c) →
      (c.host = none → Answers (exec .containerLoad s) (fun t => t.StatusIs i 3 ∧ t.fns = s.fns)) ∧
      (c.host.isSome = true → (s.fn n).load = none → s.bootStage = 5 → Answers (exec .containerLoad s) (fun t =>
        (t.fn n).load = some (i, s.nextLaunch) ∧ t.txns = s.txns)) ∧
      (c.host.isSome = true → (s.fn n).load.isSome = true ∨ s.bootStage ≠ 5 → exec .containerLoad s = .next s)) ∧
    (∀ j mark, (s.fn s.arg.a).load = some (j, mark) → s.patchBefore s.arg.a mark = true → exec .loadComplete s = .next s) ∧
    (∀ j mark, (s.fn s.arg.a).load = some (j, mark) → s.patchBefore s.arg.a mark = false → let c := s.txn j
      let x := natOfBytes c.data
      let s0 := s.updFn s.arg.a fun f => { f with load := none }
      ((s.ctx (cCTXID x)).live = false ∨ (s.ctx (cCTXID x)).fn ≠ s.arg.a → Answers (exec .loadComplete s) (fun t =>
        t.ValueIs j 1 ∧ (t.fn s.arg.a).load = none ∧ t.mem = s.mem ∧ t.made = s.made ∧ t.ctxs = s.ctxs)) ∧
      Answers (exec .loadComplete s) (fun t =>
        match (s0.newParty c.know).2.load_ s.arg.a (s0.newParty c.know).1 x with
        | .ok u => t.ValueIs j 0 ∧ t.mem = u.mem ∧ t.made = u.made ∧ t.ctxs = u.ctxs
        | .error (st, ns, k) => t.ValueIs j (st + ns * 256 + k % 65536 * 65536) ∧
          t.mem = s.mem ∧ t.made = s.made ∧ t.ctxs = s.ctxs))

/-! ### Groups of the statements above -/

/-- Page commands (R262, R264, R265, R268 to R270, R297). -/
def Obligations.PageCommands : Prop := Says.PageRefusals ∧ Says.PageStage1 ∧ Says.PageStage2

/-- Records that shape partitions and contexts (R185, R312, R316, R321, R322, R324, R325, R345). -/
def Obligations.PartitionAndContextRecords : Prop := Says.PartitionRecords ∧ Says.ContextRecords

/-- Slot objects, other control objects, and loads (R28, R323, R326, R330, R337, R351, R352, R356). -/
def Obligations.ControlObjectWrites : Prop := Says.NodeRecords ∧ Says.ControlWrites ∧ Says.Loads

/-! ### Slices, migration (R327 to R333) -/

/-- R327: a slice ends once SLICE µs have passed, or, with SLICE 0, once its context idles while another has work, or
when the running context's supervisor writes slicectl.YIELD 1; and otherwise it does not. The model's own reading in
it: log 124. -/
def Says.SliceEnds : Prop :=
  ∀ (s : State), let n := s.arg.a
    let f := s.fn n
    let ends (o : Host.Outcome State Fault Refusal) (why : Nat) : Prop := Answers o (fun t =>
      (t.fn n).phase = .ending why [] [] [] ∧ (t.fn n).tick = f.tick + 1 ∧ (t.fn n).tickStart = s.now ∧
      (t.fn n).cur = f.cur ∧ t.threads = s.threads ∧ ∀ m, m ≠ n → t.fn m = s.fn m)
    (s.rotates n = true → f.recd.slice ≠ 0 → f.sliceStart + 3000 * f.recd.slice ≤ s.now → ends (exec .sliceEnd s) 0) ∧
    (f.recd.slice = 0 ∨ s.now < f.sliceStart + 3000 * f.recd.slice → exec .sliceEnd s = .next s) ∧
    (s.rotates n = true → f.recd.slice = 0 → s.hasWork n f.cur = false →
      (∀ e ∈ s.threads, e.2.ctx = f.cur → e.2.stat = .free) → (∃ c ∈ s.rotation n, c ≠ f.cur ∧ s.hasWork n c = true) →
      ends (exec .sliceIdle s) 2) ∧
    (f.recd.slice ≠ 0 ∨ s.hasWork n f.cur = true ∨ (∃ e ∈ s.threads, e.2.ctx = f.cur ∧ e.2.stat ≠ .free) →
      exec .sliceIdle s = .next s) ∧
    (∀ v u, s.nextCrWrite s.arg.a = some (0x47, v, u) → 1 ≤ u.priv → bitOn v.toNat 8 = true →
      let m := u.ctxFn u.t.ctx
      let run := (u.fn m).cur
      let governs : Prop := if (u.ctx run).priv = 0 then u.t.ctx = (u.ctx run).govern else u.t.ctx = run
      Answers (exec .sliceYield s) (fun t => t.t = u.t.step ∧
        ((u.fn m).phase = .run → governs → (t.fn m).phase = .ending 1 [] [] []) ∧
        ((u.fn m).phase ≠ .run ∨ ¬ governs → t.fn m = u.fn m)))

/-- R328: one routine's turn on a core, from state `u` to `v`. It waits while the context is stopped there, no thread
is free, or R31's conditions do not hold. Its record is discarded where it fails R34's checks. Otherwise it starts on
the free thread at PRIO 7 with g1 0; a save routine that starts notes the restore routines paired with it, and a
restore routine counts as fired. The model's own readings in it: log 210 (an entry that declares slots may take RACE
first), 213 (an idle core). -/
def Says.RoutineTurn (save : Bool) (c core ix : Nat) (u v : State) : Prop :=
  let r := u.routineRec core c ix
  let held := (u.traceU (coreDie core)).holdsStop c
  let left (w : State) : List Nat := if save then (w.core core).save else (w.core core).restore
  let old := tget [] (u.ctx c).restores core
  let pairs := (((u.core core).fired.filter fun p => p.1 == ix && p.2 != 0xFFFF).map (·.2)).eraseDups
  (held = true ∨ (u.recFault core r = none ∧ (u.freeThread core 8 = none ∨ u.ready core r = false)) → v = u) ∧
  (held = false → (u.recFault core r).isSome = true → left v = (left u).filter (· != ix) ∧ v.threads = u.threads ∧
    tget [] (v.ctx c).restores core = old) ∧
  (∀ k e, held = false → u.freeThread core 8 = some k → u.ready core r = true → u.handler c ix = some e →
    left v = (left u).filter (· != ix) ∧ (∀ j, j ≠ k → v.thread j = u.thread j) ∧
    (save = true → tget [] (v.ctx c).restores core = old ++ pairs.filter fun r => !old.contains r) ∧
    (save = false → eSAVEIX e ≠ 0xFFFF → coreRole core ≠ 3 → (eSAVEIX e, eRESTIX e) ∈ (v.core core).fired) ∧
    ((∀ d ∈ qDecls e, d.cnt = 0) → let x := v.thread k
      x.stat = .running ∧ x.routine = true ∧ x.ctx = c ∧ x.hidx = ix ∧ x.pc = eENTRY e ∧ x.rdG 1 = 0 ∧ x.eff = 7))

/-- R328: the routines `todo`, each with its core, have their turns one after another from state `s` to `t`. -/
def Says.RoutineTurns (save : Bool) (c : Nat) (todo : List (Nat × Nat)) (s t : State) : Prop :=
  ∃ u : Nat → State, u 0 = s ∧ u todo.length = t ∧
    ∀ j e, todo[j]? = some e → Says.RoutineTurn save c e.1 e.2 (u j) (u (j + 1))

/-- R328: on a die whose activations of the outgoing context have ended, what they issued completes, and then each
save routine of a handler fired there has its turn to start, and nothing else starts; the routines that had to wait
have theirs again. After a switch the restore routines have theirs. Each runs on the core where its handler fired,
with g1 0. The model's own reading in it: log 122. -/
def Says.Routines : Prop :=
  ∀ (s : State), let n := s.arg.a
    let die := s.arg.b
    let c := (s.fn n).cur
    let onlyRoutines (t : State) (of : Nat → List Nat) : Prop := ∀ k, (s.thread k).stat = .free → (t.thread k).stat ≠ .free →
      (t.thread k).routine = true ∧ (t.thread k).ctx = c ∧ (t.thread k).hidx ∈ of (k / 8) ∧ (t.thread k).rdG 1 = 0 ∧
      (t.thread k).eff = 7
    ((s.fn n).phase = .run → exec .saveRoutines s = .next s) ∧
    (∀ why saving saved ready, (s.fn n).phase = .ending why saving saved ready → s.faulted n = false →
      die ∈ s.diesOf n → die ∉ saved →
      (die ∉ saving → s.busyOn c (· == die) ≠ [] → exec .saveRoutines s = .next s) ∧
      (die ∉ saving → s.busyOn c (· == die) = [] → Answers (exec .saveRoutines s) (fun t =>
        (t.fn n).phase = .ending why (die :: saving) saved ready ∧
        (let firedOn (core : Nat) : List Nat := ((s.core core).fired.map (·.1)).eraseDups
         let due := (s.coresOn n die).foldl (fun u k => u.updCore k fun x => { x with save := firedOn k }) (s.settleCtx c)
         Says.RoutineTurns true c ((s.coresOn n die).flatMap fun k => (firedOn k).map fun ix => (k, ix))
          (due.updFn n fun f => { f with phase := .ending why (die :: saving) saved ready }) t) ∧
        onlyRoutines t fun core => (s.core core).fired.map (·.1))) ∧
      (die ∈ saving → Answers (exec .saveRoutines s) (fun t => (t.fn n).phase = (s.fn n).phase ∧
        Says.RoutineTurns true c ((s.coresOn n die).flatMap fun k => (s.core k).save.map fun ix => (k, ix)) s t ∧
        onlyRoutines t fun core => (s.core core).save))) ∧
    ((s.fn n).phase = .run → Answers (exec .restoreRoutines s) (fun t => (t.fn n).phase = .run ∧ (t.fn n).cur = c ∧
      Says.RoutineTurns false c (((s.diesOf n).flatMap (s.coresOn n)).flatMap fun k => (s.core k).restore.map fun ix => (k, ix)) s t ∧
      onlyRoutines t fun core => (s.core core).restore)) ∧
    ((s.fn n).phase ≠ .run → exec .restoreRoutines s = .next s)

/-- R328, R329: a die is done when no activation and no save routine of the context is left on it: its tiles' state
is saved with the context. A partition on one die then switches; on more, a die reports READY, and the last report
in time commits. The first miss of the deadline postpones the tick, and the second kills what runs on the late
dies. The model's own readings in it: log 121, 123. -/
def Says.Ticks : Prop :=
  ∀ (s : State), let n := s.arg.a
    let die := s.arg.b
    let c := (s.fn n).cur
    let switched (t : State) : Prop := (t.fn n).phase = .run ∧ (t.fn n).misscnt = 0 ∧ (t.fn n).sliceStart = s.now ∧
      ((t.fn n).cur = c ∨ (s.ctx (t.fn n).cur).live = true)
    (∀ why saving saved ready, (s.fn n).phase = .ending why saving saved ready → s.faulted n = false →
      let late := (s.fn n).tickStart + s.deadlineOf n
      (die ∉ saving ∨ die ∈ saved ∨ s.busyOn c (· == die) ≠ [] ∨ (∃ core ∈ s.coresOn n die, (s.core core).save ≠ []) →
        exec .contextSave s = .next s) ∧
      (die ∈ saving → die ∉ saved → s.busyOn c (· == die) = [] → (∀ core ∈ s.coresOn n die, (s.core core).save = []) →
        (1 < (s.diesOf n).length → Answers (exec .contextSave s) (fun t =>
          (t.fn n).phase = .ending why saving (die :: saved) ready ∧ (t.fn n).cur = c ∧
          ∀ p ∈ s.padsOf n, p / 32 = die → tget {} (t.ctx c).saved p = (s.settleCtx c).padImage p (s.padMax n))) ∧
        (why ≠ 3 → (s.diesOf n).length ≤ 1 → Answers (exec .contextSave s) switched)) ∧
      (why = 3 ∨ die ∉ saved ∨ die ∈ ready ∨ late < s.now → exec .tickReady s = .next s) ∧
      (why ≠ 3 → die ∈ saved → die ∉ ready → s.now ≤ late →
        ((∃ d ∈ s.diesOf n, d ≠ die ∧ d ∉ ready) → Answers (exec .tickReady s) (fun t =>
          (t.fn n).phase = .ending why saving saved (die :: ready) ∧ t.threads = s.threads)) ∧
        ((∀ d ∈ s.diesOf n, d = die ∨ d ∈ ready) → Answers (exec .tickReady s) switched)) ∧
      (why = 3 ∨ (s.diesOf n).length ≤ 1 ∨ s.now < late → exec .tickDeadline s = .next s) ∧
      (why ≠ 3 → 1 < (s.diesOf n).length → late ≤ s.now →
        ((s.fn n).misscnt = 0 → Answers (exec .tickDeadline s) (fun t => (t.fn n).phase = .run ∧ (t.fn n).misscnt = 1 ∧
          (t.fn n).sliceStart = s.now ∧ (t.fn n).cur = c ∧ (t.ctx c).saved = [] ∧ t.threads = s.threads ∧ t.mem = s.mem)) ∧
        ((s.fn n).misscnt ≠ 0 → Answers (exec .tickDeadline s) (fun t => switched t ∧
          ∀ k, (s.thread k).ctx = c → coreRole (k / 8) ≠ 3 → coreDie (k / 8) ∉ ready → (t.thread k).stat = .free))))

/-- R330, R331: STATE moves as the table of transitions says, and a write that it does not permit leaves STATE and
sets ERR to BADTRANS. The model's own readings in it: log 130, 131. -/
def Says.MigrateStates : Prop :=
  ∀ (s : State), let i := s.arg.a
    (∀ n v, s.migrWrite i = some (n, v) → let m := (s.fn n).migr
      let moves (o : Host.Outcome State Fault Refusal) (st : Nat) : Prop := Answers o (fun t => t.StatusIs i 0 ∧
        (t.fn n).migr.st = st ∧ (t.fn n).migr.clean = [] ∧ ∀ k, k ≠ n → t.fn k = s.fn k)
      let bad (o : Host.Outcome State Fault Refusal) : Prop := Answers o (fun t => t.StatusIs i 0 ∧
        (t.fn n).migr.st = m.st ∧ (t.fn n).migr.err = 1)
      (v = 1 → m.st = 0 → s.faulted n = false → moves (exec .migratePrecopy s) 1) ∧
      (v = 1 → m.st ≠ 0 → bad (exec .migratePrecopy s)) ∧
      (v = 0 → m.st = 1 → moves (exec .migrateCancel s) 0) ∧
      (v = 2 → m.st = 1 → Answers (exec .migrateStop s) (fun t => t.StatusIs i 0 ∧ (t.fn n).migr.st = 2 ∧
        (t.fn n).migr.stopAt = s.now + 300000 ∧ (t.fn n).migr.clean = m.clean ∧
        ((s.ctx (s.fn n).cur).live = true → (s.fn n).phase = .run → (t.fn n).phase = .ending 3 [] [] []))) ∧
      (v = 2 → m.st ≠ 1 → bad (exec .migrateStop s)) ∧
      (v = 0 → m.st = 3 → Answers (exec .migrateAbort s) (fun t => t.StatusIs i 0 ∧ (t.fn n).migr.st = 0 ∧
        (t.fn n).phase = .run ∧ (t.fn n).cur = (s.fn n).cur ∧ (t.fn n).sliceStart = s.now)) ∧
      (v = 4 → m.st = 0 → (s.fn n).everLaunched = false → moves (exec .migrateResuming s) 4) ∧
      (v = 4 → m.st ≠ 0 ∨ (s.fn n).everLaunched = true → bad (exec .migrateResuming s)) ∧
      (v = 0 → m.st = 4 → (m.recs.getLast?).map (·.1) ≠ some 8 ∨ m.eaten ≠ m.seen.length →
        Answers (exec .migrateCommit s) (fun t => t.StatusIs i 0 ∧ (t.fn n).migr.st = 7 ∧ (t.fn n).migr.err = 2 ∧ t.mem = s.mem)) ∧
      (v = 0 → m.st = 4 → (m.recs.getLast?).map (·.1) = some 8 → m.eaten = m.seen.length →
        Answers (exec .migrateCommit s) (fun t => t.StatusIs i 0 ∧ (t.fn n).migr.st = 0 ∧ (t.fn n).phase = .run))) ∧
    (s.migrWrite i = none → ∀ ins ∈ ([.migratePrecopy, .migrateCancel, .migrateStop, .migrateAbort, .migrateResuming,
      .migrateCommit] : List Instr), exec ins s = .next s) ∧
    ((s.fn i).migr.st = 2 → s.stopDone i = true → Answers (exec .migrateStopped s) (fun t =>
      (t.fn i).migr.st = 3 ∧ (t.fn i).phase = .run ∧ (t.fn i).cur = (s.fn i).cur)) ∧
    ((s.fn i).migr.st ≠ 2 ∨ s.stopDone i = false → exec .migrateStopped s = .next s) ∧
    ((s.fn i).migr.st = 2 → (s.fn i).migr.stopAt ≤ s.now → Answers (exec .migrateStopTimeout s) (fun t =>
      (t.fn i).migr.st = 3 ∧ (∀ k, s.ctxFn (s.thread k).ctx = i → (t.thread k).stat = .free) ∧
      ∀ g, ∀ w ∈ (t.group g).windows, s.ctxFn w.ctx ≠ i)) ∧
    ((s.fn i).migr.st ≠ 2 ∨ s.now < (s.fn i).migr.stopAt → exec .migrateStopTimeout s = .next s)

/-- R332: a write of k to 8 advances WPOS; the host reads the window's bytes, in PRECOPY a PAGE record of each dirty
unit, whose bit clears; in RESUMING it writes them. That other accesses of the window end with NO_RIGHTS is the
model's choice (log 203); its own readings in the rest: log 127, 128. -/
def Says.MigrateWindow : Prop :=
  ∀ (s : State) (n : Nat) (c : Txn), let i := s.arg.a
    let m := (s.fn n).migr
    (s.windowTxn i 4 = some (n, c) → c.off = 8 → c.arg = 8 → c.host.isSome = true →
      Answers (exec .migrateWindowAdvance s) (fun t => t.StatusIs i 0 ∧
        (t.fn n).migr.wpos = (m.wpos + natOfBytes c.data) % 2 ^ 64)) ∧
    (s.windowTxn i 3 = some (n, c) → 0x100000 ≤ c.off →
      (c.host = none → Answers (exec .migrateWindowRead s) (fun t => t.StatusIs i 3 ∧ t.fns = s.fns)) ∧
      (c.host.isSome = true → Answers (exec .migrateWindowRead s) (fun t => ∃ r, (t.txn i).res = some r ∧ r.status = 0 ∧
        r.data.length = c.arg ∧
        (c.off - 0x100000 + c.arg ≤ m.image.length → t.fns = s.fns ∧ r.data = (m.image.drop (c.off - 0x100000)).take c.arg) ∧
        (∀ u, m.st = 1 → m.image = [] → c.off = 0x100000 → c.arg = 16 → s.nextDirty n m.stage = some u →
          natOfBytes r.data = 3 + (16 + pageBody) % 2 ^ 32 * 2 ^ 32 + u % 2 ^ 64 * 2 ^ 64 ∧ u ∈ (t.fn n).migr.clean)))) ∧
    (s.windowTxn i 4 = some (n, c) → 0x100000 ≤ c.off →
      (c.host = none ∨ m.st ≠ 4 → Answers (exec .migrateWindowWrite s) (fun t => t.StatusIs i 3 ∧ t.fns = s.fns)) ∧
      (c.host.isSome = true → m.st = 4 → Answers (exec .migrateWindowWrite s) (fun t => t.StatusIs i 0 ∧
        ((t.fn n).migr.image.drop (c.off - 0x100000)).take c.data.length = c.data ∧
        (t.fn n).migr.image.take (c.off - 0x100000) =
          m.image.take (c.off - 0x100000) ++ List.replicate (c.off - 0x100000 - m.image.length) 0)))

/-! ### Groups of the statements above -/

/-- Slices and the tick (R31, R34, R327 to R329). -/
def Obligations.SliceSteps : Prop := Says.SliceEnds ∧ Says.Routines ∧ Says.Ticks

/-- Migration (R330 to R332). -/
def Obligations.MigrationSteps : Prop := Says.MigrateStates ∧ Says.MigrateWindow

/-! ### Groups, links, mull exchanges (R276 to R288, R295, R298, R299) -/

/-- R277, R278, R295: a group's write by a context that is no supervisor is refused with NO_RIGHTS, one under a live
window with GROUP_BUSY, and one that breaks R278 or is no whole record with GROUP_INVALID, none changing the group; a
good one replaces it whole. See log 137; that levels 2 and 3 are refused is the model's choice (log 192). -/
def Says.GroupConfigs : Prop :=
  ∀ (s : State) (g : Nat), let i := s.arg.a
    let c := s.txn i
    c.ctl = some (.group g) → c.op = 4 →
    let new : Machine.Group := Machine.Group.mk (c.data.set 0 (c.data.headD 0 &&& 0xFE)) 0 0 []
    let fails (st : Nat) : Prop := Answers (exec .groupConfig s) (fun t => t.StatusIs i st ∧ t.groups = s.groups)
    (c.ctx < 65536 → s.ctxPriv c.ctx ≠ 1 → fails 3) ∧
    (65536 ≤ c.ctx ∨ s.ctxPriv c.ctx = 1 → c.off ≠ 0 ∨ c.arg ≠ 592 → fails 13) ∧
    (65536 ≤ c.ctx ∨ s.ctxPriv c.ctx = 1 → c.off = 0 → c.arg = 592 →
      ((s.group g).windows ≠ [] → fails 12) ∧
      ((s.group g).windows = [] → s.groupOk c.ctx new = false → fails 13) ∧
      ((s.group g).windows = [] → s.groupOk c.ctx new = true → Answers (exec .groupConfig s) (fun t =>
        t.StatusIs i 0 ∧ t.group g = new ∧ ∀ k, k ≠ g → t.group k = s.group k)))

/-- R284 to R287: a chunk that arrives is recorded once for each child; one of no live window, on a port that is no
child, after the emission or its slot's timeout, or from no member is dropped with a notice of its reason to each core
whose push it holds; a second chunk of one child counts in DUPS. A chunk behind another of its link waits. Choices of
the model: CAUSE 3 for a bad end-to-end check (log 190), how chunks order on a link (log 211). See log 138. -/
def Says.ChunkArrivals : Prop :=
  ∀ (s : State) (p : Push), s.pushes[s.arg.a]? = some p →
    let g := s.group p.grp
    let e := g.entry p.sw
    let rest := s.pushes.eraseIdx s.arg.a
    let dropped (reason : Nat) : Prop := Answers (exec .chunkArrival s) (fun t => t.pushes = rest ∧ t.slots = s.slots ∧
      t.groups = s.groups ∧ ∀ x ∈ p.body.senders, ∃ r ∈ t.net, r.isMsg = true ∧ r.hidx = g.nhidx ∧ r.ctx = x.ctx ∧
        r.core = x.core ∧ hdrPrio r.hdr = 7 ∧
        r.payload = bytesOfNat 16 (p.seq + p.chunk % 256 * 2 ^ 32 + reason * 2 ^ 56 + p.grp % 4096 * 2 ^ 64))
    let member : Prop := p.leaf = false ∨ ∀ x ∈ p.body.senders, x.lword ∈ g.members
    let here (x : Slot) : Prop := x.at p.sw p.grp p.seq p.chunk = true
    let child : Prop := (s.windowOf p.grp p.seq).isSome = true ∧ p.chunk < g.nchunk ∧ eValid e = true ∧ bitOn (eChild e) p.port = true
    (s.pushWaits s.arg.a p = true → exec .chunkArrival s = .next s) ∧
    (s.pushWaits s.arg.a p = false → s.arg.b ≠ 0 → Answers (exec .chunkArrival s) (fun t => ∀ x ∈ p.body.senders, let n := s.ctxFn x.ctx
      (t.fn n).errstat.toNat % 2 = 1 ∧ (t.fn n).errstat.toNat / 2 ^ 8 % 2 ^ 8 = 3)) ∧
    (s.pushWaits s.arg.a p = false → s.arg.b = 0 →
    (¬ member → dropped 2) ∧
    (member → s.windowOf p.grp p.seq = none → dropped 1) ∧
    (member → (s.windowOf p.grp p.seq).isSome = true → p.chunk < g.nchunk → eValid e = false ∨ bitOn (eChild e) p.port = false →
      dropped 3) ∧
    (∀ x, member → child → s.slots.find? (·.at p.sw p.grp p.seq p.chunk) = some x →
      x.st ≠ 0 ∨ (x.until_ ≠ 0 ∧ x.until_ < s.now ∧ s.missing x ≠ 0) → dropped 0) ∧
    (∀ x, member → child → s.slots.find? (·.at p.sw p.grp p.seq p.chunk) = some x → x.st = 0 →
      x.until_ = 0 ∨ s.now ≤ x.until_ ∨ s.missing x = 0 → p.port ∈ x.arr.map (·.1) →
      Answers (exec .chunkArrival s) (fun t => t.pushes = rest ∧ t.slots = s.slots ∧
        (t.group p.grp).dups = min 255 (g.dups + 1))) ∧
    (member → child → p.body.senders ≠ [] →
      (∀ x ∈ s.slots, here x → x.st = 0 ∧ p.port ∉ x.arr.map (·.1) ∧ (x.until_ = 0 ∨ s.now ≤ x.until_)) →
      Answers (exec .chunkArrival s) (fun t => t.pushes = rest ∧
        (∃ x ∈ t.slots, here x ∧ x.st = 0 ∧ tget {} x.arr p.port = p.body) ∧ (∀ x ∈ s.slots, ¬ here x → x ∈ t.slots))))

/-- R282, R284, R60: the chunk that a slot makes of its children's, in ascending port order: element by element the
operator over all of them, with NV, OF and NX of every combination and every child. A BF16 sum is taken in FP32 and
rounded once. -/
def Says.Combines (op et : Nat) (b : Chunk) : List Chunk → Prop
  | [] => True
  | d :: rest =>
    let w := swBytes et
    let wide : Bool := op == 0 && et == 3
    let at_ (c : Chunk) (i : Nat) : Nat := bits c.data.toNat (8 * w * i) (8 * w) * (if wide then 65536 else 1)
    let int (x : Nat) : Int := asInt x (8 * w)
    let f : Fmt := if et = 2 then fp32 else bf16
    let one (x y : Nat) : Nat × Fl :=
      if op = 0 then (if et ≤ 1 then (toBits (8 * w) (int x + int y), {}) else fAdd fp32 0 x y)
      else if op = 1 then (if et ≤ 1 then (toBits (8 * w) (max (int x) (int y)), {}) else fMinMax f true x y)
      else if op = 2 then (if et ≤ 1 then (toBits (8 * w) (min (int x) (int y)), {}) else fMinMax f false x y)
      else (if op = 3 then x &&& y else if op = 4 then x ||| y else x ^^^ y, {})
    let all (i : Nat) : Nat × Fl := rest.foldl (fun p c => ((one p.1 (at_ c i)).1, p.2.or (one p.1 (at_ c i)).2)) (at_ d i, {})
    let last (p : Nat × Fl) : Nat × Fl := if wide then ((cvt 10 9 0 false p.1).1, p.2.or (cvt 10 9 0 false p.1).2) else p
    let merged : List Nat × Fl := rest.foldl (fun p c => ((smrg p.1 (chunkEls 2 c.data)).1,
      p.2.or (smrg p.1 (chunkEls 2 c.data)).2)) (chunkEls 2 d.data, {})
    let flags (g : Fl → Bool) : Bool := if op = 6 then g merged.2 else (List.range (256 / w)).any fun i => g (last (all i)).2
    (op ≤ 5 → ∀ i, i < 256 / w → bits b.data.toNat (8 * w * i) (8 * w) = (last (all i)).1 % 2 ^ (8 * w)) ∧
    (op = 6 → et = 2 → ∀ i, i < 64 → bits b.data.toNat (32 * i) 32 = merged.1.getD i 0 % 2 ^ 32) ∧
    (op ≤ 5 ∨ (op = 6 ∧ et = 2) → b.nv = ((d :: rest).any (·.nv) || flags (·.nv)) ∧
      b.ov = ((d :: rest).any (·.ov) || flags (·.ov)) ∧ b.nx = ((d :: rest).any (·.nx) || flags (·.nx)))

/-- R283: two triples merge to canonical NaN where a maximum is NaN or +∞, to the empty triple where both are empty,
and else to the larger maximum with sums of the two sides' words, each scaled by Exp2 of its maximum's distance, an
empty side adding nothing. Exp2 of −k is exact. -/
def Says.Merges : Prop :=
  (∀ (x y : List Nat), x.length = 64 → y.length = 64 →
    let m1 := x.headD 0
    let m2 := y.headD 0
    let z := smrg x y
    let bad (c : Nat) : Prop := (∃ b, decodeFp fp32 c = .nan b) ∨ decodeFp fp32 c = .inf false
    let m := (fMinMax fp32 true m1 m2).1
    let term (c v : Nat) : Nat := if c = negInf32 then 0 else (fMul fp32 0 (exp2Rne (fSub fp32 0 c m).1).1 v).1
    (bad m1 ∨ bad m2 → z.1 = List.replicate 64 nan32 ∧ z.2.nv = true) ∧
    (¬ bad m1 → ¬ bad m2 → m = negInf32 → z.1 = negInf32 :: List.replicate 63 0) ∧
    (¬ bad m1 → ¬ bad m2 → m ≠ negInf32 → z.1.length = 64 ∧ z.1.headD 0 = m ∧ ∀ k, k < 63 →
      z.1.getD (k + 1) 0 = (fAdd fp32 0 (term m1 (x.getD (k + 1) 0)) (term m2 (y.getD (k + 1) 0))).1)) ∧
  (∀ c n m e k, decodeFp fp32 c = .num n m e → Fp.atExp n m e (-149) = -((k * 2 ^ 149 : Nat) : Int) → k ≤ 126 →
    exp2Rne c = ((127 - k) * 2 ^ 23, {}))

/-- R284, R286, R287: a slot with every child emits that chunk, upward or as a result for each member core; at its
timeout a slot that misses children emits PARTIAL with their mask and leaves a marker for 1 ms. -/
def Says.SlotEmissions : Prop :=
  ∀ (s : State) (x : Slot), let i := s.arg.a
    s.slots[i]? = some x →
    let g := s.group x.grp
    let e := g.entry x.sw
    let emits (ins : Instr) (missing st : Nat) : Prop := let b := x.emit (eOp e) (eType e) missing
      Says.Combines (eOp e) (eType e) b (x.arr.map (·.2)) ∧
      (eParent e ≠ 31 → Answers (exec ins s) (fun t => t.slots = s.slots.set i { x with st := st, arr := [], until_ := s.now + 3000000 } ∧
        t.pushes = s.pushes ++ [Push.mk (meshTo x.sw (eParent e)) (meshBack (eParent e)) x.grp x.seq x.chunk b false] ∧
        t.results = s.results)) ∧
      (∀ w, eParent e = 31 → s.windowOf x.grp x.seq = some w → Answers (exec ins s) (fun t => t.pushes = s.pushes ∧
        ∃ l, t.results = s.results ++ l ∧ l.map (·.member) = (s.memberCores w.ctx g).map (·.2) ∧
          ∀ r ∈ l, r.rbuf = g.rbuf ∧ r.rhidx = g.rhidx ∧ r.ctx = w.ctx ∧ r.grp = x.grp ∧ r.seq = x.seq ∧ r.chunk = x.chunk ∧ r.body = b))
    (x.st = 0 → s.missing x = 0 → emits .slotEmit 0 1) ∧
    (x.st ≠ 0 ∨ s.missing x ≠ 0 → exec .slotEmit s = .next s) ∧
    (x.st = 0 → s.missing x ≠ 0 → x.until_ ≠ 0 → x.until_ ≤ s.now → emits .slotTimeout (s.missing x) 2 ∧
      (x.emit (eOp e) (eType e) (s.missing x)).part.isSome = true) ∧
    (x.st ≠ 0 ∨ s.missing x = 0 ∨ x.until_ = 0 ∨ s.now < x.until_ → exec .slotTimeout s = .next s) ∧
    (x.st = 2 → x.until_ ≤ s.now → Answers (exec .slotMarkerExpiry s) (fun t =>
      t.slots = s.slots.set i { x with st := 3 } ∨
      ∃ w, s.windowOf x.grp x.seq = some w ∧ ∀ y ∈ t.slots, y.grp = x.grp → w.has y.seq = false)) ∧
    (x.st ≠ 2 ∨ s.now < x.until_ → exec .slotMarkerExpiry s = .next s)

/-- R287, R288: a result reaches a member: its 256 bytes stand at RBUF + 256 × CHUNK of the member's pad, and a
message to RHIDX follows, both as the group had them when the root delivered; where the write would race or the pad is
too small nothing is written, and WREF says so. It waits behind an earlier result of its switch die for the same die
(R274, R276). The model's readings: log 110, 136. -/
def Says.ResultDeliveries : Prop :=
  ∀ (s : State) (r : Result), s.results[s.arg.a]? = some r →
    let off := r.rbuf + 256 * r.chunk
    let waits := (s.results.take s.arg.a).any fun x => (s.resultWay x).isSome && s.resultWay x == s.resultWay r
    (waits = true → exec .resultDelivery s = .next s) ∧
    (waits = false → s.mapCore r.ctx r.member = none → Answers (exec .resultDelivery s) (fun t =>
      t.results = s.results.eraseIdx s.arg.a ∧ t.mem = s.mem ∧ t.net = s.net)) ∧
    (waits = false → ∀ core, s.mapCore r.ctx r.member = some core → s.liveCtx (s.ctx r.ctx).fn = r.ctx → s.MemOk →
      let pad := padOf core
      let told (t : State) (wref : Nat) : Prop := t.results = s.results.eraseIdx s.arg.a ∧
        ∃ m, t.net = s.net ++ [m] ∧ m.isMsg = true ∧ m.hidx = r.rhidx ∧ m.ctx = r.ctx ∧ m.core = core ∧ hdrPrio m.hdr = 7 ∧
          m.payload = r.payload wref
      let races := (s.race r.party aWrite (linesOf (padNode pad) off 256)).isSome
      (s.padSize r.ctx pad < off + 256 → Answers (exec .resultDelivery s) (fun t => told t 1 ∧ t.mem = s.mem)) ∧
      (off + 256 ≤ s.padSize r.ctx pad → races = true → Answers (exec .resultDelivery s) (fun t => told t 2 ∧ t.mem = s.mem)) ∧
      (off + 256 ≤ s.padSize r.ctx pad → races = false → Answers (exec .resultDelivery s) (fun t => told t 0 ∧
        (∀ j, j < 256 → readByte t.mem (padAddr pad off + j) = BitVec.ofNat 8 (r.body.data.toNat / 2 ^ (8 * j))) ∧
        ∀ a, a < padAddr pad off ∨ padAddr pad off + 256 ≤ a → readByte t.mem a = readByte s.mem a)))

/-- R276: a link's receiver takes flits in order only, each once; the sender holds what is not acknowledged, and
its eighth failed resend fails the link, a device error of each partition whose traffic crosses it. A number that
names no link does nothing. The model's own reading in it: log 141. -/
def Says.Links : Prop :=
  ∀ (s : State), let k := s.arg.a
    let n := s.arg.b
    let l := s.link k
    (isLink k = false → exec .linkFlit s = .next s ∧ exec .linkResend s = .next s) ∧
    (isLink k = true → l.failed = false →
    (n ≤ l.nextSeq → n = l.expect → s.arg.c = 0 → Answers (exec .linkFlit s) (fun t => (t.link k).expect = l.expect + 1 ∧
      ∀ x ∈ (t.link k).held, n < x)) ∧
    (n ≤ l.nextSeq → n ≠ l.expect ∨ s.arg.c ≠ 0 → Answers (exec .linkFlit s) (fun t => (t.link k).expect = l.expect ∧
      (n = l.nextSeq → n ∈ (t.link k).held ∧ (t.link k).nextSeq = n + 1) ∧ ∀ x ∈ l.held, x ∈ (t.link k).held)) ∧
    (l.held ≠ [] → s.arg.c = 0 → Answers (exec .linkResend s) (fun t => (t.link k).expect = l.nextSeq ∧
      (t.link k).held = [] ∧ (t.link k).resends = 0)) ∧
    (l.held ≠ [] → s.arg.c ≠ 0 → l.resends < 7 → Answers (exec .linkResend s) (fun t =>
      (t.link k).resends = l.resends + 1 ∧ (t.link k).failed = false ∧ t.fns = s.fns)) ∧
    (l.held ≠ [] → s.arg.c ≠ 0 → 7 ≤ l.resends → Answers (exec .linkResend s) (fun t => (t.link k).failed = true ∧
      ∀ e ∈ s.fns, s.crosses e.1 k = true →
        (t.fn e.1).errstat.toNat % 2 = 1 ∧ (t.fn e.1).errstat.toNat / 2 ^ 8 % 2 ^ 8 = 2)))

/-- R298, R299: in its slot a link engine halves a stripe into its OUT register, and what it keeps and what it sends
sum to what stood there; a held exchange that is lost is sent again with its SEQ, the receiver adds the half once,
however often the exchange arrives, and the acknowledgement clears VALID alone. The receiver's spread word becomes the
largest of |s / w − hs / hw| × 2^e, each rounded once to FP32. A new CADENCE counts from the engine's next slot on,
which is the model's choice (log 212); its own reading in the rest: log 145. -/
def Says.MullExchanges : Prop :=
  ∀ (s : State), let i := s.arg.a
    let r := s.region i
    let die := s.arg.b / 4
    let l := s.arg.b % 4
    let o := r.out die l
    let x := r.rep die o.cursor
    (s.arg.c = 0 → r.linked die l = false ∨ r.cadence = 0 ∨ s.now < o.slotAt + 192 * o.period →
      exec .mullExchangeSend s = .next s) ∧
    (s.arg.c ≠ 0 → (o.valid = true → (i, die, l) ∉ s.mullX → Answers (exec .mullExchangeSend s) (fun t =>
        t.mull = s.mull ∧ t.mullX = s.mullX ++ [(i, die, l)])) ∧
      (o.valid = false ∨ (i, die, l) ∈ s.mullX → exec .mullExchangeSend s = .next s)) ∧
    (s.arg.c = 0 → r.linked die l = true → r.cadence ≠ 0 → o.slotAt + 192 * o.period ≤ s.now → s.faulted r.fn = false →
      (s.fn r.fn).migr.st < 2 →
      (o.valid = true → Answers (exec .mullExchangeSend s) (fun t => (t.region i).reps = r.reps ∧
        ((t.region i).out die l).valid = true ∧ ((t.region i).out die l).hs = o.hs ∧ t.mullX = s.mullX)) ∧
      (o.valid = false → x.damaged = true ∨ x.w < 2 → Answers (exec .mullExchangeSend s) (fun t =>
        (t.region i).reps = r.reps ∧ ((t.region i).out die l).cursor = (o.cursor + 1) % max 1 r.stripes ∧ t.mullX = s.mullX)) ∧
      (o.valid = false → x.damaged = false → 2 ≤ x.w → tabWf 0 x.s = true → Answers (exec .mullExchangeSend s) (fun t =>
        let y := (t.region i).rep die o.cursor
        let p := (t.region i).out die l
        p.valid = true ∧ p.period = r.cadence ∧ p.slotAt = s.now ∧ p.stripe = o.cursor ∧
        p.seq = (o.sendseq + 1) % 2 ^ 32 ∧ p.sendseq = p.seq ∧
        p.cursor = (o.cursor + 1) % max 1 r.stripes ∧ p.hw = x.w / 2 ∧ y.w + p.hw = x.w ∧
        (∀ j, tget 0 p.hs j = tget 0 x.s j / 2 ∧ tget 0 y.s j + tget 0 p.hs j = tget 0 x.s j) ∧
        t.mullX = s.mullX ++ [(i, die, l)]))) ∧
    (s.arg.c ≠ 0 → Answers (exec .mullExchangeApply s) (fun t => t.mull = s.mull ∧ t.mullX = s.mullX.erase (i, die, l))) ∧
    (s.arg.c ≠ 0 → Answers (exec .mullAck s) (fun t => t.mull = s.mull ∧ t.mullAcks = s.mullAcks.erase (i, die, l))) ∧
    (s.arg.c = 0 → (i, die, l) ∈ s.mullX → o.valid = true → let nb := torusTo die l
      let b := r.out nb (torusBack l)
      let was := r.rep nb o.stripe
      Answers (exec .mullExchangeApply s) (fun t => let y := (t.region i).rep nb o.stripe
        t.mullX = s.mullX.erase (i, die, l) ∧ t.mullAcks = s.mullAcks ++ [(i, die, l)] ∧
        ((t.region i).out nb (torusBack l)).applied = o.seq ∧
        (b.applied = o.seq → y = was) ∧
        (b.applied ≠ o.seq → y.w = was.w + o.hw ∧
          y.spread = BitVec.ofNat 32 (((List.range 512).map fun j =>
            (ratFp 0 false (tget 0 was.s j * o.hw - tget 0 o.hs j * was.w).natAbs (was.w * o.hw) r.e).1).foldl max 0) ∧
          (tabWf 0 o.hs = true → y.damaged = false →
          ∀ j, tget 0 y.s j = tget 0 was.s j + tget 0 o.hs j)))) ∧
    (s.arg.c = 0 → (i, die, l) ∈ s.mullAcks → Answers (exec .mullAck s) (fun t =>
      (t.region i).out die l = { o with valid := false } ∧ (t.region i).reps = r.reps ∧
      (i, die, l) ∉ t.mullAcks ∧ (i, die, l) ∉ t.mullX)) ∧
    ((i, die, l) ∉ s.mullX → exec .mullExchangeApply s = .next s) ∧
    ((i, die, l) ∉ s.mullAcks → exec .mullAck s = .next s)

/-! ### Groups of the statements above -/

/-- Groups, slots and results (R60, R276 to R278, R282 to R288, R295). -/
def Obligations.GroupSteps : Prop :=
  Says.GroupConfigs ∧ Says.ChunkArrivals ∧ Says.Merges ∧ Says.SlotEmissions ∧ Says.ResultDeliveries

/-- Links under retry, and the exchanges of mull regions (R276, R298, R299). -/
def Obligations.LinkSteps : Prop := Says.Links ∧ Says.MullExchanges

/-! ### Debug, the test access port, the host, boot (R319, R336 to R350, R355, R356) -/

/-- R339: a core samples a busy thread of a traced context when its period ends, the next one in turn, and only
then. The model's own reading in it: log 148. -/
def Says.Samples : Prop :=
  ∀ (s : State), let core := s.arg.a
    let d := coreDie core
    let u := s.traceU d
    let p := u.ctl.toNat / 2 ^ 43 % 2 ^ 5
    let busy (j : Nat) : Prop := (s.thread (8 * core + j)).stat ≠ .free ∧ u.traces (s.thread (8 * core + j)).ctx = true
    (p = 0 ∨ s.now % 2 ^ p ≠ 0 ∨ tget 0 u.sampled core = s.now + 1 ∨ (∀ j, j < 8 → ¬ busy j) →
      exec .traceSample s = .next s) ∧
    (∀ j, p ≠ 0 → s.now % 2 ^ p = 0 → tget 0 u.sampled core ≠ s.now + 1 → j < 8 → busy ((tget 0 u.rr core + j) % 8) →
      (∀ i, i < j → ¬ busy ((tget 0 u.rr core + i) % 8)) → Answers (exec .traceSample s) (fun t =>
        tget 0 (t.traceU d).rr core = ((tget 0 u.rr core + j) % 8 + 1) % 8 ∧ t.threads = s.threads ∧
        (∀ l, bitOn u.ctl.toNat 6 = true → u.buf.toNat % 2 ^ 32 ≠ 0 → u.wrptr - u.rdptr < u.buf.toNat % 2 ^ 32 → u.gap = 0 →
          s.places u.bufCtx (s.hent u.bufCtx (u.buf.toNat / 2 ^ 44 % 2 ^ 20)).node true false
            (pieces (u.wrptr % (u.buf.toNat % 2 ^ 32) * 32) 32) = .ok l →
          (t.traceU d).wrptr = u.wrptr + 1)))

/-- R340: a write of STOP with REQ by a writer with feature STOP asks for the context to stop on the die; the stop
is complete when only parked threads of it are left; a write with RESUME ends it; any other writer gets NO_RIGHTS. A
stop of one context ends no other's. The model's own reading in it: log 149. -/
def Says.Stops : Prop :=
  ∀ (s : State), let i := s.arg.a
    (∀ d c v, s.traceWord i 0x28 = some (d, c, v) → let u := s.traceU d
      let fails (ins : Instr) : Prop := Answers (exec ins s) (fun t => t.StatusIs i 3 ∧ t.traces = s.traces)
      let x := v / 2 ^ 48 % 2 ^ 16
      (bitOn v 1 = true → bitOn v 2 = false →
        (s.mayStop c = false → fails .traceStopRequest) ∧
        (s.mayStop c = true → Answers (exec .traceStopRequest s) (fun t => t.StatusIs i 0 ∧
          (t.traceU d).stopCtx = x ∧ ((t.traceU d).stopReq = true ∨ (t.traceU d).stopped = true) ∧
          ∀ y, u.holdsStop y = true → (t.traceU d).holdsStop y = true))) ∧
      (bitOn v 2 = true →
        (s.mayStop c = false → fails .traceResume) ∧
        (s.mayStop c = true → Answers (exec .traceResume s) (fun t => t.StatusIs i 0 ∧
          (u.holdsStop x = true → (t.traceU d).stopCtx = x) ∧
          (t.traceU d).stopReq = false ∧ (t.traceU d).stopped = false ∧
          ∀ y, u.holdsStop y = true → y ≠ (t.traceU d).stopCtx → (t.traceU d).holdsStop y = true)))) ∧
    (let u := s.traceU i
      let active (c : Nat) : Prop := ∃ e ∈ s.threads, coreDie (e.1 / 8) = i ∧ e.2.ctx = c ∧ e.2.stat ≠ .free ∧
        ∀ a b, e.2.stat ≠ .parked a b
      let none_ : Prop := u.stopReq = false ∨ u.stopped = true ∨ active u.stopCtx
      (none_ → (∀ e ∈ u.others, e.2 = true ∨ active e.1) → exec .stopComplete s = .next s) ∧
      (¬ none_ → i < 32 → Answers (exec .stopComplete s) (fun t =>
        (t.traceU i).stopped = true ∧ (t.traceU i).stopReq = false ∧ t.threads = s.threads)) ∧
      (∀ c p q, none_ → u.others = p ++ (c, false) :: q → (∀ e ∈ p, e.2 = true ∨ active e.1) → ¬ active c → i < 32 →
        Answers (exec .stopComplete s) (fun t => t.threads = s.threads ∧ (t.traceU i).holdsStop c = true ∧
          ((t.traceU i).stopCtx = c ∧ (t.traceU i).stopped = true ∨ (t.traceU i).others.contains (c, true) = true))))

/-- R341: a write of REPLAY by a writer with feature STOP, of slots of a readable object while the context is
stopped, injects each slot as an arriving message; otherwise it is refused and nothing arrives. The model's own
reading in it: log 150. -/
def Says.Replays : Prop :=
  ∀ (s : State) (d v : Nat) (c : Txn), let i := s.arg.a
    s.traceWord i 0x48 = some (d, c, v) →
    let u := s.traceU d
    let h := s.hent c.ctx (v / 2 ^ 44 % 2 ^ 20)
    let first := v / 2 ^ 16 % 2 ^ 28
    let n := v % 2 ^ 16
    (s.mayStop c = false ∨ u.stopped = false ∨ h.state ≠ 2 ∨ hasAll h.rights.toNat rR = false ∨ h.size < 256 * (first + n) →
      Answers (exec .traceReplay s) (fun t => t.StatusIs i 3 ∧ t.chans = s.chans ∧ t.net = s.net)) ∧
    (∀ l, s.mayStop c = true → u.stopped = true → h.state = 2 → hasAll h.rights.toNat rR = true → n = 1 →
      h.size ≥ 256 * (first + 1) → s.places c.ctx h.node false false (pieces (256 * first) 256) = .ok l →
      let x := s.peekPlaces l
      let hdr : BitVec 128 := BitVec.ofNat 128 (natOfBytes (x.take 16))
      ∀ core e, x.length = 256 → hdrLen hdr ≤ 60 → hdr.toNat / 2 ^ 125 = 0 → s.mapCore u.stopCtx (hdrDst hdr) = some core →
        coreDie core = d → s.handler u.stopCtx (hdrHidx hdr) = some e → (s.ctx u.stopCtx).live = true →
        (s.ctx u.stopCtx).stopped = false → s.faulted (s.ctx u.stopCtx).fn = false →
        let ch := 16 * core + e / 2 ^ 284 % 16
        countMine core u.stopCtx (s.chan ch).onchip < 64 → countMine core u.stopCtx (s.chan ch).spilled = 0 →
        countMine core u.stopCtx (s.chan ch).ingress = 0 →
        Answers (exec .traceReplay s) (fun t => t.StatusIs i 0 ∧ ∃ r, (t.chan ch).onchip = (s.chan ch).onchip ++ [r] ∧
          r.isMsg = true ∧ r.hdr = hdr ∧ r.ctx = u.stopCtx ∧ r.payload = (x.drop 16).take (4 * hdrLen hdr)))

/-- R343: VERIFY takes one token at a time from a writer that may; only a token that is signed by the fused key,
names this module, the NONCE, a boot counter not past, in DEPLOYED, opens its features; each verification spends
the NONCE. R336: a delay object's control word with bit 0 clears the writer's table at that core. The model's own
readings in it: log 151, 152, 153. -/
def Says.Tokens : Prop :=
  ∀ (s : State), let i := s.arg.a
    (∀ d c v, s.traceWord i 0xFF0 = some (d, c, v) → let u := s.traceU d
      (s.traceWriter c = true → u.verifying = none → v = 1 → Answers (exec .tokenVerify s) (fun t =>
        (t.traceU d).verifying = some i ∧ t.txns = s.txns)) ∧
      (s.traceWriter c = false → u.verifying ≠ some i → Answers (exec .tokenVerify s) (fun t => t.StatusIs i 3 ∧ t.traces = s.traces)) ∧
      (∀ j, u.verifying = some j → j ≠ i → Answers (exec .tokenVerify s) (fun t => t.StatusIs i 3 ∧ t.traces = s.traces)) ∧
      (u.verifying = none → v ≠ 1 → Answers (exec .tokenVerify s) (fun t => t.StatusIs i 3 ∧ t.traces = s.traces))) ∧
    (∀ j, (s.traceU i).verifying = some j → Answers (exec .verifyDone s) (fun t =>
      (t.traceU i).verifying = none ∧ (t.traceU i).nonce = Config.freshNonce s.fresh ∧
      ((s.txn j).ctl.isSome = true → t.ValueIs j (s.tokenStatus (s.traceU i))) ∧
      t.unlocked = (if s.tokenStatus (s.traceU i) = 0
        then s.unlocked ||| BitVec.ofNat 3 (readByte (s.traceU i).token 0).toNat else s.unlocked) ∧
      (t.unlocked ≠ s.unlocked → let head := natOfBytes (readBytes (s.traceU i).token 0 48)
        s.life = .deployed ∧ head / 2 ^ 64 % 2 ^ 64 = (s.traceU i).nonce.toNat ∧ s.bootCount.toNat ≤ head / 2 ^ 32 % 2 ^ 32 ∧
        head / 2 ^ 128 % 2 ^ 256 = Config.identityDigest.toNat ∧
        Config.xmssOk (bytesOfNat 32 Config.fusedKey.toNat) (readBytes (s.traceU i).token 48 2820)
          (readBytes (s.traceU i).token 0 48) = true))) ∧
    ((s.traceU i).verifying = none → exec .verifyDone s = .next s) ∧
    (∀ d x k, (s.txn i).ctl = some (.delay d x k) → (s.txn i).op = 4 → (s.txn i).off = 2112 → (s.txn i).arg = 8 →
      let who := (s.txn i).ctx
      (s.ctxPriv who = 0 → Answers (exec .delayClear s) (fun t => t.StatusIs i 3 ∧ t.delays = s.delays)) ∧
      (s.ctxPriv who ≠ 0 → natOfBytes (s.txn i).data % 2 = 0 → Answers (exec .delayClear s) (fun t => t.StatusIs i 0 ∧
        t.delays = s.delays)) ∧
      (s.ctxPriv who ≠ 0 → natOfBytes (s.txn i).data % 2 = 1 → Answers (exec .delayClear s) (fun t => t.StatusIs i 0 ∧
        (∀ e ∈ t.delays, ¬ (e.1 / 131072 = coreOf d x k ∧ e.1 % 131072 = who)) ∧
        ∀ e ∈ s.delays, e.1 / 131072 ≠ coreOf d x k → e ∈ t.delays)))

/-- R342: FREEZE_N freezes the module; the port's instructions load its registers; FREEZEREAD reads only a frozen
module with feature TAP, and it reads what the state holds. R319: the scheduler's forecast of a cluster is a quarter
of the records held and 16 for each ready launch, at most 255; the gates follow it in the window that begins 4 µs
ahead, and a partition's clusters are gated alike. The model's own readings in it: log 154, 155, 156. -/
def Says.Ports : Prop :=
  ∀ (s : State),
    Answers (exec .freeze s) (fun t => t.frozen = true ∧ t.threads = s.threads ∧ t.mem = s.mem ∧ t.tap = s.tap) ∧
    Answers (exec .tapBypass s) (fun t => t.tap = { ir := .bypass, data := 0 } ∧ t.mem = s.mem) ∧
    Answers (exec .tapIdcode s) (fun t => t.tap.ir = .idcode ∧ t.tap.data.toNat % 2 = 1 ∧ t.mem = s.mem) ∧
    Answers (exec .tapSamplePreload s) (fun t => t.tap = { ir := .sample, data := Config.pins s.fresh } ∧ t.mem = s.mem) ∧
    Answers (exec .tapExtest s) (fun t => t.tap = { ir := .extest, data := BitVec.ofNat 64 s.arg.a } ∧ t.mem = s.mem) ∧
    (s.frozen = true → s.feature 2 = true → Answers (exec .freezeread s) (fun t => t.tap.ir = .freezeread ∧
      t.tap.data = s.frozenWord s.arg.a (Config.freezeMap s.arg.a) ∧ t.threads = s.threads ∧ t.mem = s.mem)) ∧
    (s.frozen = false ∨ s.feature 2 = false → exec .freezeread s = .next s) ∧
    Answers (exec .forecastUpdate s) (fun t =>
      (∀ q, q < 4 → (tget 0 t.afr s.arg.a).toNat / 2 ^ (16 * q) % 2 ^ 16 = s.forecast (q + 4 * s.arg.a)) ∧
      (∀ d, d ≠ s.arg.a → tget 0 t.afr d = tget 0 s.afr d) ∧
      t.gatesNow = s.gatesNow ∧
      (∃ g, t.gateNext.getLast? = some (s.now + 12000, g) ∧
        ∀ d q, d < 32 → q < 4 → (tget 0 g d).toNat / 2 ^ (8 * q) % 2 ^ 8 = t.gateOf (q + 4 * d) % 2 ^ 8) ∧
      ∀ a b n, s.ownerOf a = some n → s.ownerOf b = some n → t.gateOf a = t.gateOf b) ∧
    ∀ q, s.forecast q = min 255 (s.heldIn q / 4 + 16 * s.readyOn q)

/-- R346, R347: REQTAIL takes the slots that fit and a tail too far is an OVERRUN; the port takes a complete
request when a response fits, answers a bad header with BADREQ and any request of a FAULTED function with BUSY, and
makes the others transactions of the function's host context. The model's own reading in it: log 157. -/
def Says.HostRings : Prop :=
  ∀ (s : State), let n := s.arg.a
    let f := s.fn n
    let tail := s.arg.b % 2 ^ 32
    (64 < diff32 tail f.reqhead.toNat → Answers (exec .reqtailWrite s) (fun t => bitOn (t.fn n).errstat.toNat 1 = true ∧
      (t.fn n).reqtail = f.reqtail ∧ (t.fn n).req = f.req)) ∧
    (∀ m, diff32 tail f.reqhead.toNat ≤ 64 → s.arg.data.length = 64 * m → m ≤ 64 → Answers (exec .reqtailWrite s) (fun t =>
      (t.fn n).reqtail.toNat = tail ∧ (t.fn n).errstat = f.errstat ∧
      ∀ k, k < m → tget [] (t.fn n).req ((f.reqtail.toNat + k) % 64) = (s.arg.data.drop (64 * k)).take 64)) ∧
    Answers (exec .rspheadWrite s) (fun t => (t.fn n).rsphead.toNat = tail ∧ (t.fn n).rsptail = f.rsptail ∧
      (t.fn n).rsp = f.rsp ∧ ∀ k, k ≠ n → t.fn k = s.fn k) ∧
    (let x := natOfBytes ((f.reqBytes 1).take 32)
      let slots := if qNSLOT x = 0 ∨ 17 < qNSLOT x then 1 else qNSLOT x
      let waiting := diff32 f.reqtail.toNat f.reqhead.toNat
      let payload := ((f.reqBytes slots).drop 32).take (reqPayload x)
      let answered (st : Nat) : Prop := Answers (exec .hostRequestTake s) (fun t => t.txns = s.txns ∧
        (t.fn n).reqhead.toNat = (f.reqhead.toNat + slots) % 2 ^ 32 ∧ (t.fn n).rsptail.toNat = (f.rsptail.toNat + 1) % 2 ^ 32 ∧
        tget [] (t.fn n).rsp (f.rsptail.toNat % 64) = ({ status := st } : TxRes).response (qOP x) (qTAG x))
      (waiting < slots ∨ s.freeResp n < respSlots (qOP x) (qARG x) ∨ s.bootStage.toNat < 4 ∨
        5 < s.bootStage.toNat → exec .hostRequestTake s = .next s) ∧
      (slots ≤ waiting → respSlots (qOP x) (qARG x) ≤ s.freeResp n → 4 ≤ s.bootStage.toNat → s.bootStage.toNat ≤ 5 →
        (badHeader x = true → answered 16) ∧
        (badHeader x = false → bitOn f.errstat.toNat 0 = true → answered 5) ∧
        (badHeader x = false → bitOn f.errstat.toNat 0 = false → badRequest x payload = true → answered 16) ∧
        (badHeader x = false → bitOn f.errstat.toNat 0 = false → badRequest x payload = false →
          Answers (exec .hostRequestTake s) (fun t => t.nextTxn = s.nextTxn + 1 ∧ (t.fn n).rsptail = f.rsptail ∧
            (t.fn n).reqhead.toNat = (f.reqhead.toNat + slots) % 2 ^ 32 ∧
            let y := t.txn s.nextTxn
            y.op = qOP x ∧ y.ctx = 65536 + n ∧ y.host = some n ∧ y.rtag = qTAG x ∧ y.arg = qARG x ∧ y.data = payload ∧
            y.ha = (x / 2 ^ 64 % 2 ^ 20, x / 2 ^ 84 % 2 ^ 12) ∧ y.res = none))))

/-- R345: the host reads and writes lines of the mapped objects; a line that none holds, or that it may not use,
reads as poison or is dropped, and sets MEMREF. R349: management messages are answered. The model's own readings in
it: log 158, 159. -/
def Says.HostMemory : Prop :=
  ∀ (s : State), let n := s.arg.a
    let a := s.arg.b / 64 * 64
    let u := (s.portParty n).2.portEdges n (s.portParty n).1 none
    (u.cxlLine n a false = none → Answers (exec .cxlMemRead s) (fun t => (t.fn n).cxlRead = none ∧
      bitOn (t.fn n).errstat.toNat 2 = true ∧ t.mem = s.mem)) ∧
    (∀ node off l, u.cxlLine n a false = some (node, off, l) → Answers (exec .cxlMemRead s) (fun t =>
      (t.fn n).cxlRead = some (s.peekPlaces l) ∧ t.mem = s.mem ∧ (t.fn n).errstat = (s.fn n).errstat)) ∧
    (u.cxlLine n a true = none → Answers (exec .cxlMemWrite s) (fun t => bitOn (t.fn n).errstat.toNat 2 = true ∧ t.mem = s.mem)) ∧
    (∀ node off p, u.cxlLine n a true = some (node, off, [(p, 64)]) → s.MemOk → s.arg.data.length = 64 →
      Answers (exec .cxlMemWrite s) (fun t => Holds t [(p, 64)] s.arg.data ∧ SameOutside s t [(p, 64)])) ∧
    Answers (exec .mctpMessage s) (fun t => t.mem = s.mem ∧ t.fns = s.fns ∧
      (n = 0 → t.mctp = Config.mctpControl s.arg.data) ∧
      (1 < n → natOfBytes (t.mctp.take 8) = (s.bootStage.toNat + s.bootCount.toNat * 2 ^ 32) % 2 ^ 64 ∧
        natOfBytes ((t.mctp.drop 8).take 8) = s.bootDies.toNat % 2 ^ 64))

/-- R350: a module reset leaves what reset leaves, but the fuses and the boot counter; the stages of boot follow
one another, and a failed stage shows in BOOTSTAT. R343: a life-cycle state never goes back. The model's own
readings in it: log 160, 163. -/
def Says.Boot : Prop :=
  ∀ (s : State), let st := s.bootStage.toNat
    let failed : BitVec 32 := BitVec.ofNat 32 s.arg.b
    let goes (stage : Nat) : Prop := Answers (exec .bootStage s) (fun t => t.bootStage.toNat = stage ∧ t.mem = s.mem ∧
      t.threads = s.threads)
    Answers (exec .moduleReset s) (fun t => t.threads = [] ∧ t.mem = [] ∧ t.ctxs = State.reset.ctxs ∧ t.fns = State.reset.fns ∧
      t.now = State.reset.now ∧ t.frozen = false ∧ t.unlocked = State.reset.unlocked ∧ t.bootStage = 0 ∧ t.life = s.life ∧
      t.bootCount = s.bootCount ∧ t.identityErased = s.identityErased) ∧
    (st = 0 → Answers (exec .bootStage s) (fun t => t.bootCount = s.bootCount + 1)) ∧
    (st = 0 → slotVerifies 0 = true ∨ slotVerifies 1 = true → goes 1) ∧
    (st = 0 → slotVerifies 0 = false → slotVerifies 1 = false → goes 0x81) ∧
    (st = 1 → (failed = 0 → goes 2) ∧ (failed ≠ 0 → goes 0x82) ∧
      Answers (exec .bootStage s) (fun t => t.bootDies = ~~~failed)) ∧
    (st = 2 ∨ st = 0x82 → (failed = 0 → goes 3) ∧ (failed ≠ 0 → goes 0x83) ∧
      Answers (exec .bootStage s) (fun t => t.bootDies = s.bootDies &&& ~~~failed)) ∧
    (st = 3 ∨ st = 0x83 → goes 4) ∧ (st = 4 → goes 5) ∧ (st = 5 ∨ st = 0x81 → exec .bootStage s = .next s) ∧
    Answers (exec .lifeCycleChange s) (fun t => (s.arg.a < 4 → lifeCode s.life < s.arg.a → lifeCode t.life = s.arg.a) ∧
      lifeCode s.life ≤ lifeCode t.life ∧ (s.life ≠ .returned → t.life = .returned → t.identityErased = true) ∧
      (t.life = s.life → t.identityErased = s.identityErased))

/-- R355: a device error of cause 1, 3 or 4 puts each partition it names in FAULTED; a corrected error counts at
its die. R356: a function-level reset leaves the function's record alone of it: no context, its memory zero, its
quartos as at reset, its port empty. The model's own readings in it: log 161, 162. -/
def Says.DeviceErrors : Prop :=
  ∀ (s : State),
    (∀ n ∈ s.arg.data, s.arg.a = 1 ∨ s.arg.a = 3 ∨ s.arg.a = 4 → (∃ e ∈ s.fns, e.1 = n.toNat) →
      Answers (exec .deviceError s) (fun t => let f := t.fn n.toNat
        f.errstat.toNat % 2 = 1 ∧ f.errstat.toNat / 2 ^ 8 % 2 ^ 8 = s.arg.a ∧
        f.errstat.toNat / 2 ^ 16 % 2 ^ 16 = s.arg.b % 2 ^ 16 ∧ (∀ r ∈ t.net, s.ctxFn r.ctx ≠ n.toNat) ∧
        ∀ k, s.ctxFn (t.thread k).ctx = n.toNat → t.thread k = {})) ∧
    (s.arg.a ≠ 1 → s.arg.a ≠ 3 → s.arg.a ≠ 4 → exec .deviceError s = .next s) ∧
    Answers (exec .correctableError s) (fun t => tget 0 t.corrected s.arg.a = tget 0 s.corrected s.arg.a + 1 ∧
      ∀ d, d ≠ s.arg.a → tget 0 t.corrected d = tget 0 s.corrected d) ∧
    ((∀ c, (s.ctx c).live = true → (s.ctx c).fn = s.arg.a → (s.ctx c).priv ≤ 2) → s.MemOk →
      Answers (exec .functionLevelReset s) (fun t => let n := s.arg.a
        (t.fn n).recd = (s.fn n).recd ∧ (t.fn n).errstat = 0 ∧ (t.fn n).reqhead = 0 ∧ (t.fn n).reqtail = 0 ∧
        (t.fn n).rsphead = 0 ∧ (t.fn n).rsptail = 0 ∧ (t.fn n).migr = {} ∧ (t.fn n).lqs = [] ∧ (t.fn n).cxlmap = [] ∧
        (∀ c, (t.ctx c).live = true → (t.ctx c).fn ≠ n) ∧
        (∀ q, q < 128 → s.holds n q = true → t.quarto q = {}) ∧
        (∀ a, s.addrIn n a = true → readByte t.mem a = 0)))

/-! ### Groups of the statements above -/

/-- The debug and trace unit (R336, R339 to R341, R343). -/
def Obligations.TraceSteps : Prop := Says.Samples ∧ Says.Stops ∧ Says.Replays ∧ Says.Tokens

/-- The test access port, the power forecast, the host's port (R319, R342, R345 to R347, R349). -/
def Obligations.PortSteps : Prop := Says.Ports ∧ Says.HostRings ∧ Says.HostMemory

/-- Resets, boot, errors, the life cycle (R343, R350, R355, R356). -/
def Obligations.ResetSteps : Prop := Says.Boot ∧ Says.DeviceErrors
end

