-- ==== Sys2Proof/Laws/Tables.lean ====
section
/-! SUPPORT. Laws of sparse tables: what a read gives after a write, and that the canonical form is kept. -/

namespace Sys2Proof.Machine

variable {α : Type} [DecidableEq α] {d : α}

/-- Reading a table after a write. -/
theorem tget_tset (t : Tab α) (k j : Nat) (v : α) : tget d (tset d t k v) j = if j = k then v else tget d t j := by
  induction t with
  | nil => by_cases hv : v = d <;> by_cases hj : j = k <;> simp_all [tset, tget, eq_comm]
  | cons e r ih =>
    obtain ⟨k', v'⟩ := e
    by_cases hj : j = k
    · subst hj
      simp only [if_true] at ih ⊢
      unfold tset
      split
      · rw [tget, if_neg (by omega), ih]
      · split
        · split
          · exact ih
          · simp [tget]
        · split
          · rw [tget, if_neg (by omega), ih]
          · simp [tget]
    · simp only [hj, if_false] at ih ⊢
      have hk : k ≠ j := fun h => hj h.symm
      unfold tset
      split
      · rw [tget, tget, ih]
      · split
        · split
          · rw [ih, tget, if_neg (by omega)]
          · rw [tget, if_neg hk, tget, if_neg (by omega)]
        · split
          · rw [tget, tget, ih]
          · rw [tget, if_neg hk]

@[simp] theorem tget_tset_self (t : Tab α) (k : Nat) (v : α) : tget d (tset d t k v) k = v := by
  simp [tget_tset]

@[simp] theorem tget_tset_of_ne (t : Tab α) {k j : Nat} (v : α) (h : j ≠ k) : tget d (tset d t k v) j = tget d t j := by
  simp [tget_tset, h]

omit [DecidableEq α] in
@[simp] theorem tget_nil (k : Nat) : tget d ([] : Tab α) k = d := rfl

omit [DecidableEq α] in
/-- A dropped key reads as unlisted; every other key reads as before. -/
theorem tget_tdrop (p : Nat → Bool) (t : Tab α) (j : Nat) : tget d (tdrop p t) j = if p j then d else tget d t j := by
  induction t with
  | nil => simp [tdrop, tget]
  | cons e r ih =>
    obtain ⟨k', v'⟩ := e
    rw [tdrop] at ih ⊢
    by_cases hp : p k' = true
    · rw [List.filter_cons_of_neg (by simp [hp]), ih, tget]
      by_cases hk : k' = j
      · subst hk; simp [hp]
      · simp [hk]
    · rw [List.filter_cons_of_pos (by simp [hp]), tget, tget, ih]
      by_cases hk : k' = j
      · subst hk; simp [hp]
      · simp [hk]

/-- The canonical form, as a property of the list. -/
theorem tabWf_iff (t : Tab α) : tabWf d t = true ↔ t.Pairwise (fun a b => a.1 < b.1) ∧ ∀ e ∈ t, e.2 ≠ d := by
  induction t with
  | nil => simp [tabWf]
  | cons e r ih =>
    obtain ⟨k, v⟩ := e
    cases r with
    | nil => simp [tabWf]
    | cons e' r =>
      obtain ⟨k', v'⟩ := e'
      rw [tabWf, Bool.and_eq_true, Bool.and_eq_true, ih]
      simp only [bne_iff_ne, decide_eq_true_eq, List.pairwise_cons, List.mem_cons, forall_eq_or_imp]
      constructor
      · rintro ⟨⟨h1, h2⟩, ⟨h3, h4⟩, h5, h6⟩
        exact ⟨⟨⟨h2, fun a ha => lt_trans h2 (h3 a ha)⟩, h3, h4⟩, h1, h5, h6⟩
      · rintro ⟨⟨⟨h2, _⟩, h3, h4⟩, h1, h5, h6⟩
        exact ⟨⟨h1, h2⟩, ⟨h3, h4⟩, h5, h6⟩

/-- What stands in a table after a write. -/
theorem mem_tset (t : Tab α) (k : Nat) (v : α) : ∀ e ∈ tset d t k v, e ∈ t ∨ e = (k, v) ∧ v ≠ d := by
  induction t with
  | nil => intro e he; by_cases hv : v = d <;> simp_all [tset]
  | cons x r ih =>
    obtain ⟨k', v'⟩ := x
    intro e he
    unfold tset at he
    split at he
    · rcases List.mem_cons.1 he with rfl | h
      · simp
      · rcases ih e h with h | h
        · exact .inl (List.mem_cons_of_mem _ h)
        · exact .inr h
    · split at he
      · split at he
        · rcases ih e he with h | h
          · exact .inl (List.mem_cons_of_mem _ h)
          · exact .inr h
        · rcases List.mem_cons.1 he with rfl | h
          · exact .inr ⟨rfl, by assumption⟩
          · exact .inl (List.mem_cons_of_mem _ h)
      · split at he
        · rcases List.mem_cons.1 he with rfl | h
          · simp
          · rcases ih e h with h | h
            · exact .inl (List.mem_cons_of_mem _ h)
            · exact .inr h
        · rcases List.mem_cons.1 he with rfl | h
          · exact .inr ⟨rfl, by assumption⟩
          · exact .inl h

/-- A write keeps the canonical form. -/
theorem tabWf_tset {t : Tab α} (h : tabWf d t = true) (k : Nat) (v : α) : tabWf d (tset d t k v) = true := by
  rw [tabWf_iff] at h ⊢
  obtain ⟨hp, hv⟩ := h
  refine ⟨?_, fun e he => ?_⟩
  · induction t with
    | nil => by_cases h : v = d <;> simp [tset, h]
    | cons x r ih =>
      obtain ⟨k', v'⟩ := x
      rw [List.pairwise_cons] at hp
      have ihr := ih hp.2 fun e he => hv e (List.mem_cons_of_mem _ he)
      unfold tset
      split
      · next hk =>
        rw [List.pairwise_cons]
        refine ⟨fun e he => ?_, ihr⟩
        rcases mem_tset r k v e he with h | ⟨rfl, -⟩
        · exact hp.1 e h
        · exact hk
      · split
        · next hk =>
          split
          · exact ihr
          · rw [List.pairwise_cons]
            exact ⟨fun e he => hk ▸ hp.1 e he, hp.2⟩
        · split
          · next h1 h2 hd =>
            rw [List.pairwise_cons]
            refine ⟨fun e he => ?_, ihr⟩
            rcases mem_tset r k v e he with h | ⟨-, h⟩
            · exact hp.1 e h
            · exact absurd hd h
          · next h1 h2 hd =>
            rw [List.pairwise_cons, List.pairwise_cons]
            have hk : k < k' := by omega
            refine ⟨fun e he => ?_, hp⟩
            rcases List.mem_cons.1 he with rfl | h
            · exact hk
            · exact lt_trans hk (hp.1 e h)
  · rcases mem_tset t k v e he with h | ⟨rfl, h⟩
    · exact hv e h
    · exact h

/-- Taking entries out keeps the canonical form. -/
theorem tabWf_filter {t : Tab α} (h : tabWf d t = true) (p : Nat × α → Bool) : tabWf d (t.filter p) = true := by
  rw [tabWf_iff] at h ⊢
  exact ⟨h.1.filter p, fun e he => h.2 e (List.mem_filter.1 he).1⟩

theorem tabWf_tdrop {t : Tab α} (h : tabWf d t = true) (p : Nat → Bool) : tabWf d (tdrop p t) = true := tabWf_filter h _

theorem tabWf_tkeep {t : Tab α} (h : tabWf d t = true) (p : Nat → α → Bool) : tabWf d (tkeep p t) = true := tabWf_filter h _

/-- Changing every listed value keeps the canonical form. -/
theorem tabWf_tmap {t : Tab α} (h : tabWf d t = true) (f : Nat → α → α) : tabWf d (tmap d f t) = true := by
  rw [tabWf_iff] at h ⊢
  have key : ∀ (e x : Nat × α), (if f e.1 e.2 = d then none else some (e.1, f e.1 e.2)) = some x → x.1 = e.1 ∧ x.2 ≠ d := by
    intro e x hx
    split at hx
    · simp at hx
    · next hne => simp at hx; subst hx; exact ⟨rfl, hne⟩
  refine ⟨?_, fun e he => ?_⟩
  · rw [tmap, List.pairwise_filterMap]
    refine h.1.imp fun {a b} hab x hx y hy => ?_
    rw [(key a x hx).1, (key b y hy).1]
    exact hab
  · obtain ⟨x, _, hx⟩ := List.mem_filterMap.1 he
    exact (key x e hx).2

/-- A fold of writes keeps the canonical form. -/
theorem tabWf_foldl_tset {β : Type} (l : List β) (k : β → Nat) (v : β → α) {t : Tab α} (h : tabWf d t = true) :
    tabWf d (l.foldl (fun t x => tset d t (k x) (v x)) t) = true := by
  induction l generalizing t with
  | nil => exact h
  | cons x r ih => exact ih (tabWf_tset h _ _)

end Sys2Proof.Machine
end

