-- ==== Sys2Proof/Laws/Memory.lean ====
section
/-! SUPPORT. Laws of memory: a read after a write, and the canonical form that every memory operation keeps. -/

namespace Sys2Proof.Machine

/-! ### Bytes -/

theorem readByte_writeByte (m : List Host.Cell) (a x : Nat) (b : Byte) :
    readByte (writeByte m a b) x = if x = a then b else readByte m x := tget_tset ..

@[simp] theorem readByte_nil (a : Nat) : readByte [] a = unwritten := rfl

theorem readByte_writeBytes (m : List Host.Cell) (a x : Nat) (bs : List Byte) :
    readByte (writeBytes m a bs) x = if a ≤ x ∧ x < a + bs.length then bs.getD (x - a) 0 else readByte m x := by
  induction bs generalizing m a with
  | nil => rw [writeBytes, if_neg (by simp)]
  | cons b r ih =>
    rw [writeBytes, ih, readByte_writeByte]
    by_cases hx : x = a
    · subst hx
      rw [if_neg (by omega), if_pos rfl, if_pos (by simp)]
      simp
    · by_cases hr : a + 1 ≤ x ∧ x < a + 1 + r.length
      · rw [if_pos hr, if_pos (by simp only [List.length_cons]; omega)]
        obtain ⟨k, rfl⟩ : ∃ k, x = a + 1 + k := ⟨x - (a + 1), by omega⟩
        have h1 : a + 1 + k - (a + 1) = k := by omega
        have h2 : a + 1 + k - a = k + 1 := by omega
        rw [h1, h2, List.getD_cons_succ]
      · rw [if_neg hr, if_neg hx, if_neg (by simp only [List.length_cons]; omega)]

@[simp] theorem length_readBytes (m : List Host.Cell) (a n : Nat) : (readBytes m a n).length = n := by
  induction n generalizing a with
  | zero => rfl
  | succ n ih => simp [readBytes, ih]

theorem getD_readBytes (m : List Host.Cell) (a n i : Nat) (h : i < n) : (readBytes m a n).getD i 0 = readByte m (a + i) := by
  induction n generalizing a i with
  | zero => omega
  | succ n ih =>
    cases i with
    | zero => simp [readBytes]
    | succ i => rw [readBytes, List.getD_cons_succ, ih (a + 1) i (by omega)]; congr 1; omega

/-- Reading back what was just written. -/
theorem readBytes_writeBytes (m : List Host.Cell) (a : Nat) (bs : List Byte) : readBytes (writeBytes m a bs) a bs.length = bs := by
  apply List.ext_getElem (by simp)
  intro i h1 h2
  have hd := getD_readBytes (writeBytes m a bs) a bs.length i (by simpa using h2)
  rw [readByte_writeBytes, if_pos (by omega), Nat.add_sub_cancel_left] at hd
  rw [List.getD_eq_getElem _ _ h1, List.getD_eq_getElem _ _ h2] at hd
  exact hd

theorem readByte_clearRange (m : List Host.Cell) (a n x : Nat) :
    readByte (clearRange m a n) x = if a ≤ x ∧ x < a + n then unwritten else readByte m x := by
  rw [clearRange, readByte, tget_tdrop]; simp [readByte]

/-! ### The canonical form (Memory.wf) -/

theorem wf_nil : Memory.wf [] = true := rfl

theorem wf_writeByte {m : List Host.Cell} (h : Memory.wf m = true) (a : Nat) (b : Byte) : Memory.wf (writeByte m a b) = true :=
  tabWf_tset h a b

theorem wf_writeBytes {m : List Host.Cell} (h : Memory.wf m = true) (a : Nat) (bs : List Byte) :
    Memory.wf (writeBytes m a bs) = true := by
  induction bs generalizing m a with
  | nil => exact h
  | cons b r ih => exact ih (wf_writeByte h a b) _

theorem wf_tdrop {m : List Host.Cell} (h : Memory.wf m = true) (p : Nat → Bool) : Memory.wf (tdrop p m) = true := tabWf_tdrop h p

theorem wf_clearRange {m : List Host.Cell} (h : Memory.wf m = true) (a n : Nat) : Memory.wf (clearRange m a n) = true :=
  wf_tdrop h _

theorem wf_foldl_writeByte {β : Type} (l : List β) (k : β → Nat) (v : β → Byte) {m : List Host.Cell}
    (h : Memory.wf m = true) : Memory.wf (l.foldl (fun m x => writeByte m (k x) (v x)) m) = true := tabWf_foldl_tset l k v h

theorem wf_putRange {m : List Host.Cell} (h : Memory.wf m = true) (a n : Nat) (cs : List Host.Cell) :
    Memory.wf (putRange m a n cs) = true := wf_foldl_writeByte cs _ _ (wf_clearRange h a n)

theorem wf_putCells {m : List Host.Cell} (h : Memory.wf m = true) (lo n : Nat) (x : List Host.Cell) :
    Memory.wf (putCells lo n x m) = true := wf_foldl_writeByte _ _ _ (wf_clearRange h lo n)

/-! ### The state's memory operations keep it -/

namespace MemLaws

theorem poke {s : State} (h : Memory.wf s.mem = true) (a : Nat) (bs : List Byte) : Memory.wf (s.poke a bs).mem = true := by
  unfold State.poke
  split
  · exact h
  · exact wf_writeBytes h a bs

theorem pokeN {s : State} (h : Memory.wf s.mem = true) (a n v : Nat) : Memory.wf (s.pokeN a n v).mem = true := poke h ..

theorem pokeTagged {s : State} (h : Memory.wf s.mem = true) (a : Nat) (v : Quad) (tag : Bool) :
    Memory.wf (s.pokeTagged a v tag).mem = true := pokeN h ..

theorem wipe {s : State} (h : Memory.wf s.mem = true) (a n : Nat) : Memory.wf (s.wipe a n).mem = true := wf_clearRange h a n

theorem copyRange {s : State} (h : Memory.wf s.mem = true) (a b n : Nat) : Memory.wf (s.copyRange a b n).mem = true :=
  wf_putRange (wipe h b n) b n _

theorem setPad {s : State} (h : Memory.wf s.mem = true) (pad size : Nat) (x : Saved) : Memory.wf (s.setPad pad size x).mem = true :=
  wf_putCells h ..

theorem dirty_mem (s : State) (u : Option (Nat × Nat)) : (s.dirty u).mem = s.mem := by
  unfold State.dirty
  cases u with
  | none => rfl
  | some p => dsimp only; split <;> rfl

theorem pokePlaces {s : State} (h : Memory.wf s.mem = true) (l : List (Place × Nat)) (bs : List Byte) :
    Memory.wf (s.pokePlaces l bs).mem = true := by
  induction l generalizing s bs with
  | nil => exact h
  | cons e r ih => exact ih (by rw [dirty_mem]; exact poke h ..) _

end MemLaws

/-- A read of one byte after a poke. -/
theorem readByte_poke (s : State) (a x : Nat) (bs : List Byte) :
    readByte (s.poke a bs).mem x = if a ≤ x ∧ x < a + bs.length then bs.getD (x - a) 0 else readByte s.mem x := by
  unfold State.poke
  split
  · next h => simp at h; subst h; rw [if_neg (by simp)]
  · exact readByte_writeBytes ..

/-- Reading back what was just poked. -/
theorem peek_poke (s : State) (a : Nat) (bs : List Byte) : (s.poke a bs).peek a bs.length = bs := by
  unfold State.poke State.peek
  split
  · next h => simp at h; subst h; rfl
  · exact readBytes_writeBytes ..

end Sys2Proof.Machine
end

