-- ==== Sys2Proof/Laws/State.lean ====
section
/-! SUPPORT. Laws of the state's updates: what an update sets, and that it leaves every other field alone, one lemma
for each field and update, so that no proof unfolds a record update. -/

namespace Sys2Proof.Machine

/-! ### setThread -/

@[simp] theorem thread_setThread (s : State) (k j : Nat) (x : Thread) : (s.setThread k x).thread j = if j = k then x else s.thread j := tget_tset ..
theorem thread_setThread_self (s : State) (k : Nat) (x : Thread) : (s.setThread k x).thread k = x := tget_tset_self ..
@[simp] theorem setThread_now (s : State) (k : Nat) (x : Thread) : (s.setThread k x).now = s.now := rfl
@[simp] theorem setThread_agenda (s : State) (k : Nat) (x : Thread) : (s.setThread k x).agenda = s.agenda := rfl
@[simp] theorem setThread_cur (s : State) (k : Nat) (x : Thread) : (s.setThread k x).cur = s.cur := rfl
@[simp] theorem setThread_arg (s : State) (k : Nat) (x : Thread) : (s.setThread k x).arg = s.arg := rfl
@[simp] theorem setThread_fresh (s : State) (k : Nat) (x : Thread) : (s.setThread k x).fresh = s.fresh := rfl
@[simp] theorem setThread_cores (s : State) (k : Nat) (x : Thread) : (s.setThread k x).cores = s.cores := rfl
@[simp] theorem setThread_chans (s : State) (k : Nat) (x : Thread) : (s.setThread k x).chans = s.chans := rfl
@[simp] theorem setThread_delays (s : State) (k : Nat) (x : Thread) : (s.setThread k x).delays = s.delays := rfl
@[simp] theorem setThread_net (s : State) (k : Nat) (x : Thread) : (s.setThread k x).net = s.net := rfl
@[simp] theorem setThread_mem (s : State) (k : Nat) (x : Thread) : (s.setThread k x).mem = s.mem := rfl
@[simp] theorem setThread_tags (s : State) (k : Nat) (x : Thread) : (s.setThread k x).tags = s.tags := rfl
@[simp] theorem setThread_marks (s : State) (k : Nat) (x : Thread) : (s.setThread k x).marks = s.marks := rfl
@[simp] theorem setThread_made (s : State) (k : Nat) (x : Thread) : (s.setThread k x).made = s.made := rfl
@[simp] theorem setThread_names (s : State) (k : Nat) (x : Thread) : (s.setThread k x).names = s.names := rfl
@[simp] theorem setThread_ctxs (s : State) (k : Nat) (x : Thread) : (s.setThread k x).ctxs = s.ctxs := rfl
@[simp] theorem setThread_fns (s : State) (k : Nat) (x : Thread) : (s.setThread k x).fns = s.fns := rfl
@[simp] theorem setThread_txns (s : State) (k : Nat) (x : Thread) : (s.setThread k x).txns = s.txns := rfl
@[simp] theorem setThread_nextTxn (s : State) (k : Nat) (x : Thread) : (s.setThread k x).nextTxn = s.nextTxn := rfl
@[simp] theorem setThread_nextNode (s : State) (k : Nat) (x : Thread) : (s.setThread k x).nextNode = s.nextNode := rfl
@[simp] theorem setThread_oldMaps (s : State) (k : Nat) (x : Thread) : (s.setThread k x).oldMaps = s.oldMaps := rfl
@[simp] theorem setThread_parties (s : State) (k : Nat) (x : Thread) : (s.setThread k x).parties = s.parties := rfl
@[simp] theorem setThread_nextParty (s : State) (k : Nat) (x : Thread) : (s.setThread k x).nextParty = s.nextParty := rfl
@[simp] theorem setThread_nextAcc (s : State) (k : Nat) (x : Thread) : (s.setThread k x).nextAcc = s.nextAcc := rfl
@[simp] theorem setThread_lines (s : State) (k : Nat) (x : Thread) : (s.setThread k x).lines = s.lines := rfl
@[simp] theorem setThread_vars (s : State) (k : Nat) (x : Thread) : (s.setThread k x).vars = s.vars := rfl
@[simp] theorem setThread_semCarry (s : State) (k : Nat) (x : Thread) : (s.setThread k x).semCarry = s.semCarry := rfl
@[simp] theorem setThread_swCarry (s : State) (k : Nat) (x : Thread) : (s.setThread k x).swCarry = s.swCarry := rfl
@[simp] theorem setThread_joinCarry (s : State) (k : Nat) (x : Thread) : (s.setThread k x).joinCarry = s.joinCarry := rfl
@[simp] theorem setThread_posted (s : State) (k : Nat) (x : Thread) : (s.setThread k x).posted = s.posted := rfl
@[simp] theorem setThread_joins (s : State) (k : Nat) (x : Thread) : (s.setThread k x).joins = s.joins := rfl
@[simp] theorem setThread_semvs (s : State) (k : Nat) (x : Thread) : (s.setThread k x).semvs = s.semvs := rfl
@[simp] theorem setThread_sems (s : State) (k : Nat) (x : Thread) : (s.setThread k x).sems = s.sems := rfl
@[simp] theorem setThread_sfu (s : State) (k : Nat) (x : Thread) : (s.setThread k x).sfu = s.sfu := rfl
@[simp] theorem setThread_copies (s : State) (k : Nat) (x : Thread) : (s.setThread k x).copies = s.copies := rfl
@[simp] theorem setThread_copyLast (s : State) (k : Nat) (x : Thread) : (s.setThread k x).copyLast = s.copyLast := rfl
@[simp] theorem setThread_quartos (s : State) (k : Nat) (x : Thread) : (s.setThread k x).quartos = s.quartos := rfl
@[simp] theorem setThread_port (s : State) (k : Nat) (x : Thread) : (s.setThread k x).port = s.port := rfl
@[simp] theorem setThread_sheetMem (s : State) (k : Nat) (x : Thread) : (s.setThread k x).sheetMem = s.sheetMem := rfl
@[simp] theorem setThread_acc (s : State) (k : Nat) (x : Thread) : (s.setThread k x).acc = s.acc := rfl
@[simp] theorem setThread_launches (s : State) (k : Nat) (x : Thread) : (s.setThread k x).launches = s.launches := rfl
@[simp] theorem setThread_nextLaunch (s : State) (k : Nat) (x : Thread) : (s.setThread k x).nextLaunch = s.nextLaunch := rfl
@[simp] theorem setThread_doneMsgs (s : State) (k : Nat) (x : Thread) : (s.setThread k x).doneMsgs = s.doneMsgs := rfl
@[simp] theorem setThread_lforwards (s : State) (k : Nat) (x : Thread) : (s.setThread k x).lforwards = s.lforwards := rfl
@[simp] theorem setThread_lastQueue (s : State) (k : Nat) (x : Thread) : (s.setThread k x).lastQueue = s.lastQueue := rfl
@[simp] theorem setThread_groups (s : State) (k : Nat) (x : Thread) : (s.setThread k x).groups = s.groups := rfl
@[simp] theorem setThread_slots (s : State) (k : Nat) (x : Thread) : (s.setThread k x).slots = s.slots := rfl
@[simp] theorem setThread_pushes (s : State) (k : Nat) (x : Thread) : (s.setThread k x).pushes = s.pushes := rfl
@[simp] theorem setThread_results (s : State) (k : Nat) (x : Thread) : (s.setThread k x).results = s.results := rfl
@[simp] theorem setThread_portPtr (s : State) (k : Nat) (x : Thread) : (s.setThread k x).portPtr = s.portPtr := rfl
@[simp] theorem setThread_slotWon (s : State) (k : Nat) (x : Thread) : (s.setThread k x).slotWon = s.slotWon := rfl
@[simp] theorem setThread_links (s : State) (k : Nat) (x : Thread) : (s.setThread k x).links = s.links := rfl
@[simp] theorem setThread_mull (s : State) (k : Nat) (x : Thread) : (s.setThread k x).mull = s.mull := rfl
@[simp] theorem setThread_mullAdds (s : State) (k : Nat) (x : Thread) : (s.setThread k x).mullAdds = s.mullAdds := rfl
@[simp] theorem setThread_mullX (s : State) (k : Nat) (x : Thread) : (s.setThread k x).mullX = s.mullX := rfl
@[simp] theorem setThread_mullAcks (s : State) (k : Nat) (x : Thread) : (s.setThread k x).mullAcks = s.mullAcks := rfl
@[simp] theorem setThread_traces (s : State) (k : Nat) (x : Thread) : (s.setThread k x).traces = s.traces := rfl
@[simp] theorem setThread_life (s : State) (k : Nat) (x : Thread) : (s.setThread k x).life = s.life := rfl
@[simp] theorem setThread_unlocked (s : State) (k : Nat) (x : Thread) : (s.setThread k x).unlocked = s.unlocked := rfl
@[simp] theorem setThread_identityErased (s : State) (k : Nat) (x : Thread) : (s.setThread k x).identityErased = s.identityErased := rfl
@[simp] theorem setThread_tap (s : State) (k : Nat) (x : Thread) : (s.setThread k x).tap = s.tap := rfl
@[simp] theorem setThread_frozen (s : State) (k : Nat) (x : Thread) : (s.setThread k x).frozen = s.frozen := rfl
@[simp] theorem setThread_corrected (s : State) (k : Nat) (x : Thread) : (s.setThread k x).corrected = s.corrected := rfl
@[simp] theorem setThread_dropped (s : State) (k : Nat) (x : Thread) : (s.setThread k x).dropped = s.dropped := rfl
@[simp] theorem setThread_afr (s : State) (k : Nat) (x : Thread) : (s.setThread k x).afr = s.afr := rfl
@[simp] theorem setThread_gate (s : State) (k : Nat) (x : Thread) : (s.setThread k x).gate = s.gate := rfl
@[simp] theorem setThread_gateNext (s : State) (k : Nat) (x : Thread) : (s.setThread k x).gateNext = s.gateNext := rfl
@[simp] theorem setThread_mctp (s : State) (k : Nat) (x : Thread) : (s.setThread k x).mctp = s.mctp := rfl
@[simp] theorem setThread_smvec (s : State) (k : Nat) (x : Thread) : (s.setThread k x).smvec = s.smvec := rfl
@[simp] theorem setThread_worldctl (s : State) (k : Nat) (x : Thread) : (s.setThread k x).worldctl = s.worldctl := rfl
@[simp] theorem setThread_worlds (s : State) (k : Nat) (x : Thread) : (s.setThread k x).worlds = s.worlds := rfl
@[simp] theorem setThread_bootStage (s : State) (k : Nat) (x : Thread) : (s.setThread k x).bootStage = s.bootStage := rfl
@[simp] theorem setThread_bootCount (s : State) (k : Nat) (x : Thread) : (s.setThread k x).bootCount = s.bootCount := rfl
@[simp] theorem setThread_bootDies (s : State) (k : Nat) (x : Thread) : (s.setThread k x).bootDies = s.bootDies := rfl
@[simp] theorem core_setThread (s : State) (k j : Nat) (x : Thread) : (s.setThread k x).core j = s.core j := rfl
@[simp] theorem chan_setThread (s : State) (k j : Nat) (x : Thread) : (s.setThread k x).chan j = s.chan j := rfl
@[simp] theorem ctx_setThread (s : State) (k j : Nat) (x : Thread) : (s.setThread k x).ctx j = s.ctx j := rfl
@[simp] theorem fn_setThread (s : State) (k j : Nat) (x : Thread) : (s.setThread k x).fn j = s.fn j := rfl
@[simp] theorem madeN_setThread (s : State) (k j : Nat) (x : Thread) : (s.setThread k x).madeN j = s.madeN j := rfl
@[simp] theorem quarto_setThread (s : State) (k j : Nat) (x : Thread) : (s.setThread k x).quarto j = s.quarto j := rfl
@[simp] theorem launch_setThread (s : State) (k j : Nat) (x : Thread) : (s.setThread k x).launch j = s.launch j := rfl
@[simp] theorem party_setThread (s : State) (k j : Nat) (x : Thread) : (s.setThread k x).party j = s.party j := rfl
@[simp] theorem txn_setThread (s : State) (k j : Nat) (x : Thread) : (s.setThread k x).txn j = s.txn j := rfl
@[simp] theorem group_setThread (s : State) (k j : Nat) (x : Thread) : (s.setThread k x).group j = s.group j := rfl
@[simp] theorem region_setThread (s : State) (k j : Nat) (x : Thread) : (s.setThread k x).region j = s.region j := rfl
@[simp] theorem traceU_setThread (s : State) (k j : Nat) (x : Thread) : (s.setThread k x).traceU j = s.traceU j := rfl
@[simp] theorem copyQ_setThread (s : State) (k j : Nat) (x : Thread) : (s.setThread k x).copyQ j = s.copyQ j := rfl
@[simp] theorem updThread_eq (s : State) (k : Nat) (f : Thread → Thread) : s.updThread k f = s.setThread k (f (s.thread k)) := rfl

/-! ### setCore -/

@[simp] theorem core_setCore (s : State) (k j : Nat) (x : Core) : (s.setCore k x).core j = if j = k then x else s.core j := tget_tset ..
theorem core_setCore_self (s : State) (k : Nat) (x : Core) : (s.setCore k x).core k = x := tget_tset_self ..
@[simp] theorem setCore_now (s : State) (k : Nat) (x : Core) : (s.setCore k x).now = s.now := rfl
@[simp] theorem setCore_agenda (s : State) (k : Nat) (x : Core) : (s.setCore k x).agenda = s.agenda := rfl
@[simp] theorem setCore_cur (s : State) (k : Nat) (x : Core) : (s.setCore k x).cur = s.cur := rfl
@[simp] theorem setCore_arg (s : State) (k : Nat) (x : Core) : (s.setCore k x).arg = s.arg := rfl
@[simp] theorem setCore_fresh (s : State) (k : Nat) (x : Core) : (s.setCore k x).fresh = s.fresh := rfl
@[simp] theorem setCore_threads (s : State) (k : Nat) (x : Core) : (s.setCore k x).threads = s.threads := rfl
@[simp] theorem setCore_chans (s : State) (k : Nat) (x : Core) : (s.setCore k x).chans = s.chans := rfl
@[simp] theorem setCore_delays (s : State) (k : Nat) (x : Core) : (s.setCore k x).delays = s.delays := rfl
@[simp] theorem setCore_net (s : State) (k : Nat) (x : Core) : (s.setCore k x).net = s.net := rfl
@[simp] theorem setCore_mem (s : State) (k : Nat) (x : Core) : (s.setCore k x).mem = s.mem := rfl
@[simp] theorem setCore_tags (s : State) (k : Nat) (x : Core) : (s.setCore k x).tags = s.tags := rfl
@[simp] theorem setCore_marks (s : State) (k : Nat) (x : Core) : (s.setCore k x).marks = s.marks := rfl
@[simp] theorem setCore_made (s : State) (k : Nat) (x : Core) : (s.setCore k x).made = s.made := rfl
@[simp] theorem setCore_names (s : State) (k : Nat) (x : Core) : (s.setCore k x).names = s.names := rfl
@[simp] theorem setCore_ctxs (s : State) (k : Nat) (x : Core) : (s.setCore k x).ctxs = s.ctxs := rfl
@[simp] theorem setCore_fns (s : State) (k : Nat) (x : Core) : (s.setCore k x).fns = s.fns := rfl
@[simp] theorem setCore_txns (s : State) (k : Nat) (x : Core) : (s.setCore k x).txns = s.txns := rfl
@[simp] theorem setCore_nextTxn (s : State) (k : Nat) (x : Core) : (s.setCore k x).nextTxn = s.nextTxn := rfl
@[simp] theorem setCore_nextNode (s : State) (k : Nat) (x : Core) : (s.setCore k x).nextNode = s.nextNode := rfl
@[simp] theorem setCore_oldMaps (s : State) (k : Nat) (x : Core) : (s.setCore k x).oldMaps = s.oldMaps := rfl
@[simp] theorem setCore_parties (s : State) (k : Nat) (x : Core) : (s.setCore k x).parties = s.parties := rfl
@[simp] theorem setCore_nextParty (s : State) (k : Nat) (x : Core) : (s.setCore k x).nextParty = s.nextParty := rfl
@[simp] theorem setCore_nextAcc (s : State) (k : Nat) (x : Core) : (s.setCore k x).nextAcc = s.nextAcc := rfl
@[simp] theorem setCore_lines (s : State) (k : Nat) (x : Core) : (s.setCore k x).lines = s.lines := rfl
@[simp] theorem setCore_vars (s : State) (k : Nat) (x : Core) : (s.setCore k x).vars = s.vars := rfl
@[simp] theorem setCore_semCarry (s : State) (k : Nat) (x : Core) : (s.setCore k x).semCarry = s.semCarry := rfl
@[simp] theorem setCore_swCarry (s : State) (k : Nat) (x : Core) : (s.setCore k x).swCarry = s.swCarry := rfl
@[simp] theorem setCore_joinCarry (s : State) (k : Nat) (x : Core) : (s.setCore k x).joinCarry = s.joinCarry := rfl
@[simp] theorem setCore_posted (s : State) (k : Nat) (x : Core) : (s.setCore k x).posted = s.posted := rfl
@[simp] theorem setCore_joins (s : State) (k : Nat) (x : Core) : (s.setCore k x).joins = s.joins := rfl
@[simp] theorem setCore_semvs (s : State) (k : Nat) (x : Core) : (s.setCore k x).semvs = s.semvs := rfl
@[simp] theorem setCore_sems (s : State) (k : Nat) (x : Core) : (s.setCore k x).sems = s.sems := rfl
@[simp] theorem setCore_sfu (s : State) (k : Nat) (x : Core) : (s.setCore k x).sfu = s.sfu := rfl
@[simp] theorem setCore_copies (s : State) (k : Nat) (x : Core) : (s.setCore k x).copies = s.copies := rfl
@[simp] theorem setCore_copyLast (s : State) (k : Nat) (x : Core) : (s.setCore k x).copyLast = s.copyLast := rfl
@[simp] theorem setCore_quartos (s : State) (k : Nat) (x : Core) : (s.setCore k x).quartos = s.quartos := rfl
@[simp] theorem setCore_port (s : State) (k : Nat) (x : Core) : (s.setCore k x).port = s.port := rfl
@[simp] theorem setCore_sheetMem (s : State) (k : Nat) (x : Core) : (s.setCore k x).sheetMem = s.sheetMem := rfl
@[simp] theorem setCore_acc (s : State) (k : Nat) (x : Core) : (s.setCore k x).acc = s.acc := rfl
@[simp] theorem setCore_launches (s : State) (k : Nat) (x : Core) : (s.setCore k x).launches = s.launches := rfl
@[simp] theorem setCore_nextLaunch (s : State) (k : Nat) (x : Core) : (s.setCore k x).nextLaunch = s.nextLaunch := rfl
@[simp] theorem setCore_doneMsgs (s : State) (k : Nat) (x : Core) : (s.setCore k x).doneMsgs = s.doneMsgs := rfl
@[simp] theorem setCore_lforwards (s : State) (k : Nat) (x : Core) : (s.setCore k x).lforwards = s.lforwards := rfl
@[simp] theorem setCore_lastQueue (s : State) (k : Nat) (x : Core) : (s.setCore k x).lastQueue = s.lastQueue := rfl
@[simp] theorem setCore_groups (s : State) (k : Nat) (x : Core) : (s.setCore k x).groups = s.groups := rfl
@[simp] theorem setCore_slots (s : State) (k : Nat) (x : Core) : (s.setCore k x).slots = s.slots := rfl
@[simp] theorem setCore_pushes (s : State) (k : Nat) (x : Core) : (s.setCore k x).pushes = s.pushes := rfl
@[simp] theorem setCore_results (s : State) (k : Nat) (x : Core) : (s.setCore k x).results = s.results := rfl
@[simp] theorem setCore_portPtr (s : State) (k : Nat) (x : Core) : (s.setCore k x).portPtr = s.portPtr := rfl
@[simp] theorem setCore_slotWon (s : State) (k : Nat) (x : Core) : (s.setCore k x).slotWon = s.slotWon := rfl
@[simp] theorem setCore_links (s : State) (k : Nat) (x : Core) : (s.setCore k x).links = s.links := rfl
@[simp] theorem setCore_mull (s : State) (k : Nat) (x : Core) : (s.setCore k x).mull = s.mull := rfl
@[simp] theorem setCore_mullAdds (s : State) (k : Nat) (x : Core) : (s.setCore k x).mullAdds = s.mullAdds := rfl
@[simp] theorem setCore_mullX (s : State) (k : Nat) (x : Core) : (s.setCore k x).mullX = s.mullX := rfl
@[simp] theorem setCore_mullAcks (s : State) (k : Nat) (x : Core) : (s.setCore k x).mullAcks = s.mullAcks := rfl
@[simp] theorem setCore_traces (s : State) (k : Nat) (x : Core) : (s.setCore k x).traces = s.traces := rfl
@[simp] theorem setCore_life (s : State) (k : Nat) (x : Core) : (s.setCore k x).life = s.life := rfl
@[simp] theorem setCore_unlocked (s : State) (k : Nat) (x : Core) : (s.setCore k x).unlocked = s.unlocked := rfl
@[simp] theorem setCore_identityErased (s : State) (k : Nat) (x : Core) : (s.setCore k x).identityErased = s.identityErased := rfl
@[simp] theorem setCore_tap (s : State) (k : Nat) (x : Core) : (s.setCore k x).tap = s.tap := rfl
@[simp] theorem setCore_frozen (s : State) (k : Nat) (x : Core) : (s.setCore k x).frozen = s.frozen := rfl
@[simp] theorem setCore_corrected (s : State) (k : Nat) (x : Core) : (s.setCore k x).corrected = s.corrected := rfl
@[simp] theorem setCore_dropped (s : State) (k : Nat) (x : Core) : (s.setCore k x).dropped = s.dropped := rfl
@[simp] theorem setCore_afr (s : State) (k : Nat) (x : Core) : (s.setCore k x).afr = s.afr := rfl
@[simp] theorem setCore_gate (s : State) (k : Nat) (x : Core) : (s.setCore k x).gate = s.gate := rfl
@[simp] theorem setCore_gateNext (s : State) (k : Nat) (x : Core) : (s.setCore k x).gateNext = s.gateNext := rfl
@[simp] theorem setCore_mctp (s : State) (k : Nat) (x : Core) : (s.setCore k x).mctp = s.mctp := rfl
@[simp] theorem setCore_smvec (s : State) (k : Nat) (x : Core) : (s.setCore k x).smvec = s.smvec := rfl
@[simp] theorem setCore_worldctl (s : State) (k : Nat) (x : Core) : (s.setCore k x).worldctl = s.worldctl := rfl
@[simp] theorem setCore_worlds (s : State) (k : Nat) (x : Core) : (s.setCore k x).worlds = s.worlds := rfl
@[simp] theorem setCore_bootStage (s : State) (k : Nat) (x : Core) : (s.setCore k x).bootStage = s.bootStage := rfl
@[simp] theorem setCore_bootCount (s : State) (k : Nat) (x : Core) : (s.setCore k x).bootCount = s.bootCount := rfl
@[simp] theorem setCore_bootDies (s : State) (k : Nat) (x : Core) : (s.setCore k x).bootDies = s.bootDies := rfl
@[simp] theorem thread_setCore (s : State) (k j : Nat) (x : Core) : (s.setCore k x).thread j = s.thread j := rfl
@[simp] theorem chan_setCore (s : State) (k j : Nat) (x : Core) : (s.setCore k x).chan j = s.chan j := rfl
@[simp] theorem ctx_setCore (s : State) (k j : Nat) (x : Core) : (s.setCore k x).ctx j = s.ctx j := rfl
@[simp] theorem fn_setCore (s : State) (k j : Nat) (x : Core) : (s.setCore k x).fn j = s.fn j := rfl
@[simp] theorem madeN_setCore (s : State) (k j : Nat) (x : Core) : (s.setCore k x).madeN j = s.madeN j := rfl
@[simp] theorem quarto_setCore (s : State) (k j : Nat) (x : Core) : (s.setCore k x).quarto j = s.quarto j := rfl
@[simp] theorem launch_setCore (s : State) (k j : Nat) (x : Core) : (s.setCore k x).launch j = s.launch j := rfl
@[simp] theorem party_setCore (s : State) (k j : Nat) (x : Core) : (s.setCore k x).party j = s.party j := rfl
@[simp] theorem txn_setCore (s : State) (k j : Nat) (x : Core) : (s.setCore k x).txn j = s.txn j := rfl
@[simp] theorem group_setCore (s : State) (k j : Nat) (x : Core) : (s.setCore k x).group j = s.group j := rfl
@[simp] theorem region_setCore (s : State) (k j : Nat) (x : Core) : (s.setCore k x).region j = s.region j := rfl
@[simp] theorem traceU_setCore (s : State) (k j : Nat) (x : Core) : (s.setCore k x).traceU j = s.traceU j := rfl
@[simp] theorem copyQ_setCore (s : State) (k j : Nat) (x : Core) : (s.setCore k x).copyQ j = s.copyQ j := rfl
@[simp] theorem t_setCore (s : State) (k : Nat) (x : Core) : (s.setCore k x).t = s.t := rfl
@[simp] theorem updCore_eq (s : State) (k : Nat) (f : Core → Core) : s.updCore k f = s.setCore k (f (s.core k)) := rfl

/-! ### setChan -/

@[simp] theorem chan_setChan (s : State) (k j : Nat) (x : Chan) : (s.setChan k x).chan j = if j = k then x else s.chan j := tget_tset ..
theorem chan_setChan_self (s : State) (k : Nat) (x : Chan) : (s.setChan k x).chan k = x := tget_tset_self ..
@[simp] theorem setChan_now (s : State) (k : Nat) (x : Chan) : (s.setChan k x).now = s.now := rfl
@[simp] theorem setChan_agenda (s : State) (k : Nat) (x : Chan) : (s.setChan k x).agenda = s.agenda := rfl
@[simp] theorem setChan_cur (s : State) (k : Nat) (x : Chan) : (s.setChan k x).cur = s.cur := rfl
@[simp] theorem setChan_arg (s : State) (k : Nat) (x : Chan) : (s.setChan k x).arg = s.arg := rfl
@[simp] theorem setChan_fresh (s : State) (k : Nat) (x : Chan) : (s.setChan k x).fresh = s.fresh := rfl
@[simp] theorem setChan_threads (s : State) (k : Nat) (x : Chan) : (s.setChan k x).threads = s.threads := rfl
@[simp] theorem setChan_cores (s : State) (k : Nat) (x : Chan) : (s.setChan k x).cores = s.cores := rfl
@[simp] theorem setChan_delays (s : State) (k : Nat) (x : Chan) : (s.setChan k x).delays = s.delays := rfl
@[simp] theorem setChan_net (s : State) (k : Nat) (x : Chan) : (s.setChan k x).net = s.net := rfl
@[simp] theorem setChan_mem (s : State) (k : Nat) (x : Chan) : (s.setChan k x).mem = s.mem := rfl
@[simp] theorem setChan_tags (s : State) (k : Nat) (x : Chan) : (s.setChan k x).tags = s.tags := rfl
@[simp] theorem setChan_marks (s : State) (k : Nat) (x : Chan) : (s.setChan k x).marks = s.marks := rfl
@[simp] theorem setChan_made (s : State) (k : Nat) (x : Chan) : (s.setChan k x).made = s.made := rfl
@[simp] theorem setChan_names (s : State) (k : Nat) (x : Chan) : (s.setChan k x).names = s.names := rfl
@[simp] theorem setChan_ctxs (s : State) (k : Nat) (x : Chan) : (s.setChan k x).ctxs = s.ctxs := rfl
@[simp] theorem setChan_fns (s : State) (k : Nat) (x : Chan) : (s.setChan k x).fns = s.fns := rfl
@[simp] theorem setChan_txns (s : State) (k : Nat) (x : Chan) : (s.setChan k x).txns = s.txns := rfl
@[simp] theorem setChan_nextTxn (s : State) (k : Nat) (x : Chan) : (s.setChan k x).nextTxn = s.nextTxn := rfl
@[simp] theorem setChan_nextNode (s : State) (k : Nat) (x : Chan) : (s.setChan k x).nextNode = s.nextNode := rfl
@[simp] theorem setChan_oldMaps (s : State) (k : Nat) (x : Chan) : (s.setChan k x).oldMaps = s.oldMaps := rfl
@[simp] theorem setChan_parties (s : State) (k : Nat) (x : Chan) : (s.setChan k x).parties = s.parties := rfl
@[simp] theorem setChan_nextParty (s : State) (k : Nat) (x : Chan) : (s.setChan k x).nextParty = s.nextParty := rfl
@[simp] theorem setChan_nextAcc (s : State) (k : Nat) (x : Chan) : (s.setChan k x).nextAcc = s.nextAcc := rfl
@[simp] theorem setChan_lines (s : State) (k : Nat) (x : Chan) : (s.setChan k x).lines = s.lines := rfl
@[simp] theorem setChan_vars (s : State) (k : Nat) (x : Chan) : (s.setChan k x).vars = s.vars := rfl
@[simp] theorem setChan_semCarry (s : State) (k : Nat) (x : Chan) : (s.setChan k x).semCarry = s.semCarry := rfl
@[simp] theorem setChan_swCarry (s : State) (k : Nat) (x : Chan) : (s.setChan k x).swCarry = s.swCarry := rfl
@[simp] theorem setChan_joinCarry (s : State) (k : Nat) (x : Chan) : (s.setChan k x).joinCarry = s.joinCarry := rfl
@[simp] theorem setChan_posted (s : State) (k : Nat) (x : Chan) : (s.setChan k x).posted = s.posted := rfl
@[simp] theorem setChan_joins (s : State) (k : Nat) (x : Chan) : (s.setChan k x).joins = s.joins := rfl
@[simp] theorem setChan_semvs (s : State) (k : Nat) (x : Chan) : (s.setChan k x).semvs = s.semvs := rfl
@[simp] theorem setChan_sems (s : State) (k : Nat) (x : Chan) : (s.setChan k x).sems = s.sems := rfl
@[simp] theorem setChan_sfu (s : State) (k : Nat) (x : Chan) : (s.setChan k x).sfu = s.sfu := rfl
@[simp] theorem setChan_copies (s : State) (k : Nat) (x : Chan) : (s.setChan k x).copies = s.copies := rfl
@[simp] theorem setChan_copyLast (s : State) (k : Nat) (x : Chan) : (s.setChan k x).copyLast = s.copyLast := rfl
@[simp] theorem setChan_quartos (s : State) (k : Nat) (x : Chan) : (s.setChan k x).quartos = s.quartos := rfl
@[simp] theorem setChan_port (s : State) (k : Nat) (x : Chan) : (s.setChan k x).port = s.port := rfl
@[simp] theorem setChan_sheetMem (s : State) (k : Nat) (x : Chan) : (s.setChan k x).sheetMem = s.sheetMem := rfl
@[simp] theorem setChan_acc (s : State) (k : Nat) (x : Chan) : (s.setChan k x).acc = s.acc := rfl
@[simp] theorem setChan_launches (s : State) (k : Nat) (x : Chan) : (s.setChan k x).launches = s.launches := rfl
@[simp] theorem setChan_nextLaunch (s : State) (k : Nat) (x : Chan) : (s.setChan k x).nextLaunch = s.nextLaunch := rfl
@[simp] theorem setChan_doneMsgs (s : State) (k : Nat) (x : Chan) : (s.setChan k x).doneMsgs = s.doneMsgs := rfl
@[simp] theorem setChan_lforwards (s : State) (k : Nat) (x : Chan) : (s.setChan k x).lforwards = s.lforwards := rfl
@[simp] theorem setChan_lastQueue (s : State) (k : Nat) (x : Chan) : (s.setChan k x).lastQueue = s.lastQueue := rfl
@[simp] theorem setChan_groups (s : State) (k : Nat) (x : Chan) : (s.setChan k x).groups = s.groups := rfl
@[simp] theorem setChan_slots (s : State) (k : Nat) (x : Chan) : (s.setChan k x).slots = s.slots := rfl
@[simp] theorem setChan_pushes (s : State) (k : Nat) (x : Chan) : (s.setChan k x).pushes = s.pushes := rfl
@[simp] theorem setChan_results (s : State) (k : Nat) (x : Chan) : (s.setChan k x).results = s.results := rfl
@[simp] theorem setChan_portPtr (s : State) (k : Nat) (x : Chan) : (s.setChan k x).portPtr = s.portPtr := rfl
@[simp] theorem setChan_slotWon (s : State) (k : Nat) (x : Chan) : (s.setChan k x).slotWon = s.slotWon := rfl
@[simp] theorem setChan_links (s : State) (k : Nat) (x : Chan) : (s.setChan k x).links = s.links := rfl
@[simp] theorem setChan_mull (s : State) (k : Nat) (x : Chan) : (s.setChan k x).mull = s.mull := rfl
@[simp] theorem setChan_mullAdds (s : State) (k : Nat) (x : Chan) : (s.setChan k x).mullAdds = s.mullAdds := rfl
@[simp] theorem setChan_mullX (s : State) (k : Nat) (x : Chan) : (s.setChan k x).mullX = s.mullX := rfl
@[simp] theorem setChan_mullAcks (s : State) (k : Nat) (x : Chan) : (s.setChan k x).mullAcks = s.mullAcks := rfl
@[simp] theorem setChan_traces (s : State) (k : Nat) (x : Chan) : (s.setChan k x).traces = s.traces := rfl
@[simp] theorem setChan_life (s : State) (k : Nat) (x : Chan) : (s.setChan k x).life = s.life := rfl
@[simp] theorem setChan_unlocked (s : State) (k : Nat) (x : Chan) : (s.setChan k x).unlocked = s.unlocked := rfl
@[simp] theorem setChan_identityErased (s : State) (k : Nat) (x : Chan) : (s.setChan k x).identityErased = s.identityErased := rfl
@[simp] theorem setChan_tap (s : State) (k : Nat) (x : Chan) : (s.setChan k x).tap = s.tap := rfl
@[simp] theorem setChan_frozen (s : State) (k : Nat) (x : Chan) : (s.setChan k x).frozen = s.frozen := rfl
@[simp] theorem setChan_corrected (s : State) (k : Nat) (x : Chan) : (s.setChan k x).corrected = s.corrected := rfl
@[simp] theorem setChan_dropped (s : State) (k : Nat) (x : Chan) : (s.setChan k x).dropped = s.dropped := rfl
@[simp] theorem setChan_afr (s : State) (k : Nat) (x : Chan) : (s.setChan k x).afr = s.afr := rfl
@[simp] theorem setChan_gate (s : State) (k : Nat) (x : Chan) : (s.setChan k x).gate = s.gate := rfl
@[simp] theorem setChan_gateNext (s : State) (k : Nat) (x : Chan) : (s.setChan k x).gateNext = s.gateNext := rfl
@[simp] theorem setChan_mctp (s : State) (k : Nat) (x : Chan) : (s.setChan k x).mctp = s.mctp := rfl
@[simp] theorem setChan_smvec (s : State) (k : Nat) (x : Chan) : (s.setChan k x).smvec = s.smvec := rfl
@[simp] theorem setChan_worldctl (s : State) (k : Nat) (x : Chan) : (s.setChan k x).worldctl = s.worldctl := rfl
@[simp] theorem setChan_worlds (s : State) (k : Nat) (x : Chan) : (s.setChan k x).worlds = s.worlds := rfl
@[simp] theorem setChan_bootStage (s : State) (k : Nat) (x : Chan) : (s.setChan k x).bootStage = s.bootStage := rfl
@[simp] theorem setChan_bootCount (s : State) (k : Nat) (x : Chan) : (s.setChan k x).bootCount = s.bootCount := rfl
@[simp] theorem setChan_bootDies (s : State) (k : Nat) (x : Chan) : (s.setChan k x).bootDies = s.bootDies := rfl
@[simp] theorem thread_setChan (s : State) (k j : Nat) (x : Chan) : (s.setChan k x).thread j = s.thread j := rfl
@[simp] theorem core_setChan (s : State) (k j : Nat) (x : Chan) : (s.setChan k x).core j = s.core j := rfl
@[simp] theorem ctx_setChan (s : State) (k j : Nat) (x : Chan) : (s.setChan k x).ctx j = s.ctx j := rfl
@[simp] theorem fn_setChan (s : State) (k j : Nat) (x : Chan) : (s.setChan k x).fn j = s.fn j := rfl
@[simp] theorem madeN_setChan (s : State) (k j : Nat) (x : Chan) : (s.setChan k x).madeN j = s.madeN j := rfl
@[simp] theorem quarto_setChan (s : State) (k j : Nat) (x : Chan) : (s.setChan k x).quarto j = s.quarto j := rfl
@[simp] theorem launch_setChan (s : State) (k j : Nat) (x : Chan) : (s.setChan k x).launch j = s.launch j := rfl
@[simp] theorem party_setChan (s : State) (k j : Nat) (x : Chan) : (s.setChan k x).party j = s.party j := rfl
@[simp] theorem txn_setChan (s : State) (k j : Nat) (x : Chan) : (s.setChan k x).txn j = s.txn j := rfl
@[simp] theorem group_setChan (s : State) (k j : Nat) (x : Chan) : (s.setChan k x).group j = s.group j := rfl
@[simp] theorem region_setChan (s : State) (k j : Nat) (x : Chan) : (s.setChan k x).region j = s.region j := rfl
@[simp] theorem traceU_setChan (s : State) (k j : Nat) (x : Chan) : (s.setChan k x).traceU j = s.traceU j := rfl
@[simp] theorem copyQ_setChan (s : State) (k j : Nat) (x : Chan) : (s.setChan k x).copyQ j = s.copyQ j := rfl
@[simp] theorem t_setChan (s : State) (k : Nat) (x : Chan) : (s.setChan k x).t = s.t := rfl
@[simp] theorem updChan_eq (s : State) (k : Nat) (f : Chan → Chan) : s.updChan k f = s.setChan k (f (s.chan k)) := rfl

/-! ### setCtx -/

@[simp] theorem ctx_setCtx (s : State) (k j : Nat) (x : Ctx) : (s.setCtx k x).ctx j = if j = k then x else s.ctx j := tget_tset ..
theorem ctx_setCtx_self (s : State) (k : Nat) (x : Ctx) : (s.setCtx k x).ctx k = x := tget_tset_self ..
@[simp] theorem setCtx_now (s : State) (k : Nat) (x : Ctx) : (s.setCtx k x).now = s.now := rfl
@[simp] theorem setCtx_agenda (s : State) (k : Nat) (x : Ctx) : (s.setCtx k x).agenda = s.agenda := rfl
@[simp] theorem setCtx_cur (s : State) (k : Nat) (x : Ctx) : (s.setCtx k x).cur = s.cur := rfl
@[simp] theorem setCtx_arg (s : State) (k : Nat) (x : Ctx) : (s.setCtx k x).arg = s.arg := rfl
@[simp] theorem setCtx_fresh (s : State) (k : Nat) (x : Ctx) : (s.setCtx k x).fresh = s.fresh := rfl
@[simp] theorem setCtx_threads (s : State) (k : Nat) (x : Ctx) : (s.setCtx k x).threads = s.threads := rfl
@[simp] theorem setCtx_cores (s : State) (k : Nat) (x : Ctx) : (s.setCtx k x).cores = s.cores := rfl
@[simp] theorem setCtx_chans (s : State) (k : Nat) (x : Ctx) : (s.setCtx k x).chans = s.chans := rfl
@[simp] theorem setCtx_delays (s : State) (k : Nat) (x : Ctx) : (s.setCtx k x).delays = s.delays := rfl
@[simp] theorem setCtx_net (s : State) (k : Nat) (x : Ctx) : (s.setCtx k x).net = s.net := rfl
@[simp] theorem setCtx_mem (s : State) (k : Nat) (x : Ctx) : (s.setCtx k x).mem = s.mem := rfl
@[simp] theorem setCtx_tags (s : State) (k : Nat) (x : Ctx) : (s.setCtx k x).tags = s.tags := rfl
@[simp] theorem setCtx_marks (s : State) (k : Nat) (x : Ctx) : (s.setCtx k x).marks = s.marks := rfl
@[simp] theorem setCtx_made (s : State) (k : Nat) (x : Ctx) : (s.setCtx k x).made = s.made := rfl
@[simp] theorem setCtx_names (s : State) (k : Nat) (x : Ctx) : (s.setCtx k x).names = s.names := rfl
@[simp] theorem setCtx_fns (s : State) (k : Nat) (x : Ctx) : (s.setCtx k x).fns = s.fns := rfl
@[simp] theorem setCtx_txns (s : State) (k : Nat) (x : Ctx) : (s.setCtx k x).txns = s.txns := rfl
@[simp] theorem setCtx_nextTxn (s : State) (k : Nat) (x : Ctx) : (s.setCtx k x).nextTxn = s.nextTxn := rfl
@[simp] theorem setCtx_nextNode (s : State) (k : Nat) (x : Ctx) : (s.setCtx k x).nextNode = s.nextNode := rfl
@[simp] theorem setCtx_oldMaps (s : State) (k : Nat) (x : Ctx) : (s.setCtx k x).oldMaps = s.oldMaps := rfl
@[simp] theorem setCtx_parties (s : State) (k : Nat) (x : Ctx) : (s.setCtx k x).parties = s.parties := rfl
@[simp] theorem setCtx_nextParty (s : State) (k : Nat) (x : Ctx) : (s.setCtx k x).nextParty = s.nextParty := rfl
@[simp] theorem setCtx_nextAcc (s : State) (k : Nat) (x : Ctx) : (s.setCtx k x).nextAcc = s.nextAcc := rfl
@[simp] theorem setCtx_lines (s : State) (k : Nat) (x : Ctx) : (s.setCtx k x).lines = s.lines := rfl
@[simp] theorem setCtx_vars (s : State) (k : Nat) (x : Ctx) : (s.setCtx k x).vars = s.vars := rfl
@[simp] theorem setCtx_semCarry (s : State) (k : Nat) (x : Ctx) : (s.setCtx k x).semCarry = s.semCarry := rfl
@[simp] theorem setCtx_swCarry (s : State) (k : Nat) (x : Ctx) : (s.setCtx k x).swCarry = s.swCarry := rfl
@[simp] theorem setCtx_joinCarry (s : State) (k : Nat) (x : Ctx) : (s.setCtx k x).joinCarry = s.joinCarry := rfl
@[simp] theorem setCtx_posted (s : State) (k : Nat) (x : Ctx) : (s.setCtx k x).posted = s.posted := rfl
@[simp] theorem setCtx_joins (s : State) (k : Nat) (x : Ctx) : (s.setCtx k x).joins = s.joins := rfl
@[simp] theorem setCtx_semvs (s : State) (k : Nat) (x : Ctx) : (s.setCtx k x).semvs = s.semvs := rfl
@[simp] theorem setCtx_sems (s : State) (k : Nat) (x : Ctx) : (s.setCtx k x).sems = s.sems := rfl
@[simp] theorem setCtx_sfu (s : State) (k : Nat) (x : Ctx) : (s.setCtx k x).sfu = s.sfu := rfl
@[simp] theorem setCtx_copies (s : State) (k : Nat) (x : Ctx) : (s.setCtx k x).copies = s.copies := rfl
@[simp] theorem setCtx_copyLast (s : State) (k : Nat) (x : Ctx) : (s.setCtx k x).copyLast = s.copyLast := rfl
@[simp] theorem setCtx_quartos (s : State) (k : Nat) (x : Ctx) : (s.setCtx k x).quartos = s.quartos := rfl
@[simp] theorem setCtx_port (s : State) (k : Nat) (x : Ctx) : (s.setCtx k x).port = s.port := rfl
@[simp] theorem setCtx_sheetMem (s : State) (k : Nat) (x : Ctx) : (s.setCtx k x).sheetMem = s.sheetMem := rfl
@[simp] theorem setCtx_acc (s : State) (k : Nat) (x : Ctx) : (s.setCtx k x).acc = s.acc := rfl
@[simp] theorem setCtx_launches (s : State) (k : Nat) (x : Ctx) : (s.setCtx k x).launches = s.launches := rfl
@[simp] theorem setCtx_nextLaunch (s : State) (k : Nat) (x : Ctx) : (s.setCtx k x).nextLaunch = s.nextLaunch := rfl
@[simp] theorem setCtx_doneMsgs (s : State) (k : Nat) (x : Ctx) : (s.setCtx k x).doneMsgs = s.doneMsgs := rfl
@[simp] theorem setCtx_lforwards (s : State) (k : Nat) (x : Ctx) : (s.setCtx k x).lforwards = s.lforwards := rfl
@[simp] theorem setCtx_lastQueue (s : State) (k : Nat) (x : Ctx) : (s.setCtx k x).lastQueue = s.lastQueue := rfl
@[simp] theorem setCtx_groups (s : State) (k : Nat) (x : Ctx) : (s.setCtx k x).groups = s.groups := rfl
@[simp] theorem setCtx_slots (s : State) (k : Nat) (x : Ctx) : (s.setCtx k x).slots = s.slots := rfl
@[simp] theorem setCtx_pushes (s : State) (k : Nat) (x : Ctx) : (s.setCtx k x).pushes = s.pushes := rfl
@[simp] theorem setCtx_results (s : State) (k : Nat) (x : Ctx) : (s.setCtx k x).results = s.results := rfl
@[simp] theorem setCtx_portPtr (s : State) (k : Nat) (x : Ctx) : (s.setCtx k x).portPtr = s.portPtr := rfl
@[simp] theorem setCtx_slotWon (s : State) (k : Nat) (x : Ctx) : (s.setCtx k x).slotWon = s.slotWon := rfl
@[simp] theorem setCtx_links (s : State) (k : Nat) (x : Ctx) : (s.setCtx k x).links = s.links := rfl
@[simp] theorem setCtx_mull (s : State) (k : Nat) (x : Ctx) : (s.setCtx k x).mull = s.mull := rfl
@[simp] theorem setCtx_mullAdds (s : State) (k : Nat) (x : Ctx) : (s.setCtx k x).mullAdds = s.mullAdds := rfl
@[simp] theorem setCtx_mullX (s : State) (k : Nat) (x : Ctx) : (s.setCtx k x).mullX = s.mullX := rfl
@[simp] theorem setCtx_mullAcks (s : State) (k : Nat) (x : Ctx) : (s.setCtx k x).mullAcks = s.mullAcks := rfl
@[simp] theorem setCtx_traces (s : State) (k : Nat) (x : Ctx) : (s.setCtx k x).traces = s.traces := rfl
@[simp] theorem setCtx_life (s : State) (k : Nat) (x : Ctx) : (s.setCtx k x).life = s.life := rfl
@[simp] theorem setCtx_unlocked (s : State) (k : Nat) (x : Ctx) : (s.setCtx k x).unlocked = s.unlocked := rfl
@[simp] theorem setCtx_identityErased (s : State) (k : Nat) (x : Ctx) : (s.setCtx k x).identityErased = s.identityErased := rfl
@[simp] theorem setCtx_tap (s : State) (k : Nat) (x : Ctx) : (s.setCtx k x).tap = s.tap := rfl
@[simp] theorem setCtx_frozen (s : State) (k : Nat) (x : Ctx) : (s.setCtx k x).frozen = s.frozen := rfl
@[simp] theorem setCtx_corrected (s : State) (k : Nat) (x : Ctx) : (s.setCtx k x).corrected = s.corrected := rfl
@[simp] theorem setCtx_dropped (s : State) (k : Nat) (x : Ctx) : (s.setCtx k x).dropped = s.dropped := rfl
@[simp] theorem setCtx_afr (s : State) (k : Nat) (x : Ctx) : (s.setCtx k x).afr = s.afr := rfl
@[simp] theorem setCtx_gate (s : State) (k : Nat) (x : Ctx) : (s.setCtx k x).gate = s.gate := rfl
@[simp] theorem setCtx_gateNext (s : State) (k : Nat) (x : Ctx) : (s.setCtx k x).gateNext = s.gateNext := rfl
@[simp] theorem setCtx_mctp (s : State) (k : Nat) (x : Ctx) : (s.setCtx k x).mctp = s.mctp := rfl
@[simp] theorem setCtx_smvec (s : State) (k : Nat) (x : Ctx) : (s.setCtx k x).smvec = s.smvec := rfl
@[simp] theorem setCtx_worldctl (s : State) (k : Nat) (x : Ctx) : (s.setCtx k x).worldctl = s.worldctl := rfl
@[simp] theorem setCtx_worlds (s : State) (k : Nat) (x : Ctx) : (s.setCtx k x).worlds = s.worlds := rfl
@[simp] theorem setCtx_bootStage (s : State) (k : Nat) (x : Ctx) : (s.setCtx k x).bootStage = s.bootStage := rfl
@[simp] theorem setCtx_bootCount (s : State) (k : Nat) (x : Ctx) : (s.setCtx k x).bootCount = s.bootCount := rfl
@[simp] theorem setCtx_bootDies (s : State) (k : Nat) (x : Ctx) : (s.setCtx k x).bootDies = s.bootDies := rfl
@[simp] theorem thread_setCtx (s : State) (k j : Nat) (x : Ctx) : (s.setCtx k x).thread j = s.thread j := rfl
@[simp] theorem core_setCtx (s : State) (k j : Nat) (x : Ctx) : (s.setCtx k x).core j = s.core j := rfl
@[simp] theorem chan_setCtx (s : State) (k j : Nat) (x : Ctx) : (s.setCtx k x).chan j = s.chan j := rfl
@[simp] theorem fn_setCtx (s : State) (k j : Nat) (x : Ctx) : (s.setCtx k x).fn j = s.fn j := rfl
@[simp] theorem madeN_setCtx (s : State) (k j : Nat) (x : Ctx) : (s.setCtx k x).madeN j = s.madeN j := rfl
@[simp] theorem quarto_setCtx (s : State) (k j : Nat) (x : Ctx) : (s.setCtx k x).quarto j = s.quarto j := rfl
@[simp] theorem launch_setCtx (s : State) (k j : Nat) (x : Ctx) : (s.setCtx k x).launch j = s.launch j := rfl
@[simp] theorem party_setCtx (s : State) (k j : Nat) (x : Ctx) : (s.setCtx k x).party j = s.party j := rfl
@[simp] theorem txn_setCtx (s : State) (k j : Nat) (x : Ctx) : (s.setCtx k x).txn j = s.txn j := rfl
@[simp] theorem group_setCtx (s : State) (k j : Nat) (x : Ctx) : (s.setCtx k x).group j = s.group j := rfl
@[simp] theorem region_setCtx (s : State) (k j : Nat) (x : Ctx) : (s.setCtx k x).region j = s.region j := rfl
@[simp] theorem traceU_setCtx (s : State) (k j : Nat) (x : Ctx) : (s.setCtx k x).traceU j = s.traceU j := rfl
@[simp] theorem copyQ_setCtx (s : State) (k j : Nat) (x : Ctx) : (s.setCtx k x).copyQ j = s.copyQ j := rfl
@[simp] theorem t_setCtx (s : State) (k : Nat) (x : Ctx) : (s.setCtx k x).t = s.t := rfl
@[simp] theorem updCtx_eq (s : State) (k : Nat) (f : Ctx → Ctx) : s.updCtx k f = s.setCtx k (f (s.ctx k)) := rfl

/-! ### setFn -/

@[simp] theorem fn_setFn (s : State) (k j : Nat) (x : Fn) : (s.setFn k x).fn j = if j = k then x else s.fn j := tget_tset ..
theorem fn_setFn_self (s : State) (k : Nat) (x : Fn) : (s.setFn k x).fn k = x := tget_tset_self ..
@[simp] theorem setFn_now (s : State) (k : Nat) (x : Fn) : (s.setFn k x).now = s.now := rfl
@[simp] theorem setFn_agenda (s : State) (k : Nat) (x : Fn) : (s.setFn k x).agenda = s.agenda := rfl
@[simp] theorem setFn_cur (s : State) (k : Nat) (x : Fn) : (s.setFn k x).cur = s.cur := rfl
@[simp] theorem setFn_arg (s : State) (k : Nat) (x : Fn) : (s.setFn k x).arg = s.arg := rfl
@[simp] theorem setFn_fresh (s : State) (k : Nat) (x : Fn) : (s.setFn k x).fresh = s.fresh := rfl
@[simp] theorem setFn_threads (s : State) (k : Nat) (x : Fn) : (s.setFn k x).threads = s.threads := rfl
@[simp] theorem setFn_cores (s : State) (k : Nat) (x : Fn) : (s.setFn k x).cores = s.cores := rfl
@[simp] theorem setFn_chans (s : State) (k : Nat) (x : Fn) : (s.setFn k x).chans = s.chans := rfl
@[simp] theorem setFn_delays (s : State) (k : Nat) (x : Fn) : (s.setFn k x).delays = s.delays := rfl
@[simp] theorem setFn_net (s : State) (k : Nat) (x : Fn) : (s.setFn k x).net = s.net := rfl
@[simp] theorem setFn_mem (s : State) (k : Nat) (x : Fn) : (s.setFn k x).mem = s.mem := rfl
@[simp] theorem setFn_tags (s : State) (k : Nat) (x : Fn) : (s.setFn k x).tags = s.tags := rfl
@[simp] theorem setFn_marks (s : State) (k : Nat) (x : Fn) : (s.setFn k x).marks = s.marks := rfl
@[simp] theorem setFn_made (s : State) (k : Nat) (x : Fn) : (s.setFn k x).made = s.made := rfl
@[simp] theorem setFn_names (s : State) (k : Nat) (x : Fn) : (s.setFn k x).names = s.names := rfl
@[simp] theorem setFn_ctxs (s : State) (k : Nat) (x : Fn) : (s.setFn k x).ctxs = s.ctxs := rfl
@[simp] theorem setFn_txns (s : State) (k : Nat) (x : Fn) : (s.setFn k x).txns = s.txns := rfl
@[simp] theorem setFn_nextTxn (s : State) (k : Nat) (x : Fn) : (s.setFn k x).nextTxn = s.nextTxn := rfl
@[simp] theorem setFn_nextNode (s : State) (k : Nat) (x : Fn) : (s.setFn k x).nextNode = s.nextNode := rfl
@[simp] theorem setFn_oldMaps (s : State) (k : Nat) (x : Fn) : (s.setFn k x).oldMaps = s.oldMaps := rfl
@[simp] theorem setFn_parties (s : State) (k : Nat) (x : Fn) : (s.setFn k x).parties = s.parties := rfl
@[simp] theorem setFn_nextParty (s : State) (k : Nat) (x : Fn) : (s.setFn k x).nextParty = s.nextParty := rfl
@[simp] theorem setFn_nextAcc (s : State) (k : Nat) (x : Fn) : (s.setFn k x).nextAcc = s.nextAcc := rfl
@[simp] theorem setFn_lines (s : State) (k : Nat) (x : Fn) : (s.setFn k x).lines = s.lines := rfl
@[simp] theorem setFn_vars (s : State) (k : Nat) (x : Fn) : (s.setFn k x).vars = s.vars := rfl
@[simp] theorem setFn_semCarry (s : State) (k : Nat) (x : Fn) : (s.setFn k x).semCarry = s.semCarry := rfl
@[simp] theorem setFn_swCarry (s : State) (k : Nat) (x : Fn) : (s.setFn k x).swCarry = s.swCarry := rfl
@[simp] theorem setFn_joinCarry (s : State) (k : Nat) (x : Fn) : (s.setFn k x).joinCarry = s.joinCarry := rfl
@[simp] theorem setFn_posted (s : State) (k : Nat) (x : Fn) : (s.setFn k x).posted = s.posted := rfl
@[simp] theorem setFn_joins (s : State) (k : Nat) (x : Fn) : (s.setFn k x).joins = s.joins := rfl
@[simp] theorem setFn_semvs (s : State) (k : Nat) (x : Fn) : (s.setFn k x).semvs = s.semvs := rfl
@[simp] theorem setFn_sems (s : State) (k : Nat) (x : Fn) : (s.setFn k x).sems = s.sems := rfl
@[simp] theorem setFn_sfu (s : State) (k : Nat) (x : Fn) : (s.setFn k x).sfu = s.sfu := rfl
@[simp] theorem setFn_copies (s : State) (k : Nat) (x : Fn) : (s.setFn k x).copies = s.copies := rfl
@[simp] theorem setFn_copyLast (s : State) (k : Nat) (x : Fn) : (s.setFn k x).copyLast = s.copyLast := rfl
@[simp] theorem setFn_quartos (s : State) (k : Nat) (x : Fn) : (s.setFn k x).quartos = s.quartos := rfl
@[simp] theorem setFn_port (s : State) (k : Nat) (x : Fn) : (s.setFn k x).port = s.port := rfl
@[simp] theorem setFn_sheetMem (s : State) (k : Nat) (x : Fn) : (s.setFn k x).sheetMem = s.sheetMem := rfl
@[simp] theorem setFn_acc (s : State) (k : Nat) (x : Fn) : (s.setFn k x).acc = s.acc := rfl
@[simp] theorem setFn_launches (s : State) (k : Nat) (x : Fn) : (s.setFn k x).launches = s.launches := rfl
@[simp] theorem setFn_nextLaunch (s : State) (k : Nat) (x : Fn) : (s.setFn k x).nextLaunch = s.nextLaunch := rfl
@[simp] theorem setFn_doneMsgs (s : State) (k : Nat) (x : Fn) : (s.setFn k x).doneMsgs = s.doneMsgs := rfl
@[simp] theorem setFn_lforwards (s : State) (k : Nat) (x : Fn) : (s.setFn k x).lforwards = s.lforwards := rfl
@[simp] theorem setFn_lastQueue (s : State) (k : Nat) (x : Fn) : (s.setFn k x).lastQueue = s.lastQueue := rfl
@[simp] theorem setFn_groups (s : State) (k : Nat) (x : Fn) : (s.setFn k x).groups = s.groups := rfl
@[simp] theorem setFn_slots (s : State) (k : Nat) (x : Fn) : (s.setFn k x).slots = s.slots := rfl
@[simp] theorem setFn_pushes (s : State) (k : Nat) (x : Fn) : (s.setFn k x).pushes = s.pushes := rfl
@[simp] theorem setFn_results (s : State) (k : Nat) (x : Fn) : (s.setFn k x).results = s.results := rfl
@[simp] theorem setFn_portPtr (s : State) (k : Nat) (x : Fn) : (s.setFn k x).portPtr = s.portPtr := rfl
@[simp] theorem setFn_slotWon (s : State) (k : Nat) (x : Fn) : (s.setFn k x).slotWon = s.slotWon := rfl
@[simp] theorem setFn_links (s : State) (k : Nat) (x : Fn) : (s.setFn k x).links = s.links := rfl
@[simp] theorem setFn_mull (s : State) (k : Nat) (x : Fn) : (s.setFn k x).mull = s.mull := rfl
@[simp] theorem setFn_mullAdds (s : State) (k : Nat) (x : Fn) : (s.setFn k x).mullAdds = s.mullAdds := rfl
@[simp] theorem setFn_mullX (s : State) (k : Nat) (x : Fn) : (s.setFn k x).mullX = s.mullX := rfl
@[simp] theorem setFn_mullAcks (s : State) (k : Nat) (x : Fn) : (s.setFn k x).mullAcks = s.mullAcks := rfl
@[simp] theorem setFn_traces (s : State) (k : Nat) (x : Fn) : (s.setFn k x).traces = s.traces := rfl
@[simp] theorem setFn_life (s : State) (k : Nat) (x : Fn) : (s.setFn k x).life = s.life := rfl
@[simp] theorem setFn_unlocked (s : State) (k : Nat) (x : Fn) : (s.setFn k x).unlocked = s.unlocked := rfl
@[simp] theorem setFn_identityErased (s : State) (k : Nat) (x : Fn) : (s.setFn k x).identityErased = s.identityErased := rfl
@[simp] theorem setFn_tap (s : State) (k : Nat) (x : Fn) : (s.setFn k x).tap = s.tap := rfl
@[simp] theorem setFn_frozen (s : State) (k : Nat) (x : Fn) : (s.setFn k x).frozen = s.frozen := rfl
@[simp] theorem setFn_corrected (s : State) (k : Nat) (x : Fn) : (s.setFn k x).corrected = s.corrected := rfl
@[simp] theorem setFn_dropped (s : State) (k : Nat) (x : Fn) : (s.setFn k x).dropped = s.dropped := rfl
@[simp] theorem setFn_afr (s : State) (k : Nat) (x : Fn) : (s.setFn k x).afr = s.afr := rfl
@[simp] theorem setFn_gate (s : State) (k : Nat) (x : Fn) : (s.setFn k x).gate = s.gate := rfl
@[simp] theorem setFn_gateNext (s : State) (k : Nat) (x : Fn) : (s.setFn k x).gateNext = s.gateNext := rfl
@[simp] theorem setFn_mctp (s : State) (k : Nat) (x : Fn) : (s.setFn k x).mctp = s.mctp := rfl
@[simp] theorem setFn_smvec (s : State) (k : Nat) (x : Fn) : (s.setFn k x).smvec = s.smvec := rfl
@[simp] theorem setFn_worldctl (s : State) (k : Nat) (x : Fn) : (s.setFn k x).worldctl = s.worldctl := rfl
@[simp] theorem setFn_worlds (s : State) (k : Nat) (x : Fn) : (s.setFn k x).worlds = s.worlds := rfl
@[simp] theorem setFn_bootStage (s : State) (k : Nat) (x : Fn) : (s.setFn k x).bootStage = s.bootStage := rfl
@[simp] theorem setFn_bootCount (s : State) (k : Nat) (x : Fn) : (s.setFn k x).bootCount = s.bootCount := rfl
@[simp] theorem setFn_bootDies (s : State) (k : Nat) (x : Fn) : (s.setFn k x).bootDies = s.bootDies := rfl
@[simp] theorem thread_setFn (s : State) (k j : Nat) (x : Fn) : (s.setFn k x).thread j = s.thread j := rfl
@[simp] theorem core_setFn (s : State) (k j : Nat) (x : Fn) : (s.setFn k x).core j = s.core j := rfl
@[simp] theorem chan_setFn (s : State) (k j : Nat) (x : Fn) : (s.setFn k x).chan j = s.chan j := rfl
@[simp] theorem ctx_setFn (s : State) (k j : Nat) (x : Fn) : (s.setFn k x).ctx j = s.ctx j := rfl
@[simp] theorem madeN_setFn (s : State) (k j : Nat) (x : Fn) : (s.setFn k x).madeN j = s.madeN j := rfl
@[simp] theorem quarto_setFn (s : State) (k j : Nat) (x : Fn) : (s.setFn k x).quarto j = s.quarto j := rfl
@[simp] theorem launch_setFn (s : State) (k j : Nat) (x : Fn) : (s.setFn k x).launch j = s.launch j := rfl
@[simp] theorem party_setFn (s : State) (k j : Nat) (x : Fn) : (s.setFn k x).party j = s.party j := rfl
@[simp] theorem txn_setFn (s : State) (k j : Nat) (x : Fn) : (s.setFn k x).txn j = s.txn j := rfl
@[simp] theorem group_setFn (s : State) (k j : Nat) (x : Fn) : (s.setFn k x).group j = s.group j := rfl
@[simp] theorem region_setFn (s : State) (k j : Nat) (x : Fn) : (s.setFn k x).region j = s.region j := rfl
@[simp] theorem traceU_setFn (s : State) (k j : Nat) (x : Fn) : (s.setFn k x).traceU j = s.traceU j := rfl
@[simp] theorem copyQ_setFn (s : State) (k j : Nat) (x : Fn) : (s.setFn k x).copyQ j = s.copyQ j := rfl
@[simp] theorem t_setFn (s : State) (k : Nat) (x : Fn) : (s.setFn k x).t = s.t := rfl
@[simp] theorem updFn_eq (s : State) (k : Nat) (f : Fn → Fn) : s.updFn k f = s.setFn k (f (s.fn k)) := rfl

/-! ### setMade -/

@[simp] theorem madeN_setMade (s : State) (k j : Nat) (x : Made) : (s.setMade k x).madeN j = if j = k then x else s.madeN j := tget_tset ..
theorem madeN_setMade_self (s : State) (k : Nat) (x : Made) : (s.setMade k x).madeN k = x := tget_tset_self ..
@[simp] theorem setMade_now (s : State) (k : Nat) (x : Made) : (s.setMade k x).now = s.now := rfl
@[simp] theorem setMade_agenda (s : State) (k : Nat) (x : Made) : (s.setMade k x).agenda = s.agenda := rfl
@[simp] theorem setMade_cur (s : State) (k : Nat) (x : Made) : (s.setMade k x).cur = s.cur := rfl
@[simp] theorem setMade_arg (s : State) (k : Nat) (x : Made) : (s.setMade k x).arg = s.arg := rfl
@[simp] theorem setMade_fresh (s : State) (k : Nat) (x : Made) : (s.setMade k x).fresh = s.fresh := rfl
@[simp] theorem setMade_threads (s : State) (k : Nat) (x : Made) : (s.setMade k x).threads = s.threads := rfl
@[simp] theorem setMade_cores (s : State) (k : Nat) (x : Made) : (s.setMade k x).cores = s.cores := rfl
@[simp] theorem setMade_chans (s : State) (k : Nat) (x : Made) : (s.setMade k x).chans = s.chans := rfl
@[simp] theorem setMade_delays (s : State) (k : Nat) (x : Made) : (s.setMade k x).delays = s.delays := rfl
@[simp] theorem setMade_net (s : State) (k : Nat) (x : Made) : (s.setMade k x).net = s.net := rfl
@[simp] theorem setMade_mem (s : State) (k : Nat) (x : Made) : (s.setMade k x).mem = s.mem := rfl
@[simp] theorem setMade_tags (s : State) (k : Nat) (x : Made) : (s.setMade k x).tags = s.tags := rfl
@[simp] theorem setMade_marks (s : State) (k : Nat) (x : Made) : (s.setMade k x).marks = s.marks := rfl
@[simp] theorem setMade_names (s : State) (k : Nat) (x : Made) : (s.setMade k x).names = s.names := rfl
@[simp] theorem setMade_ctxs (s : State) (k : Nat) (x : Made) : (s.setMade k x).ctxs = s.ctxs := rfl
@[simp] theorem setMade_fns (s : State) (k : Nat) (x : Made) : (s.setMade k x).fns = s.fns := rfl
@[simp] theorem setMade_txns (s : State) (k : Nat) (x : Made) : (s.setMade k x).txns = s.txns := rfl
@[simp] theorem setMade_nextTxn (s : State) (k : Nat) (x : Made) : (s.setMade k x).nextTxn = s.nextTxn := rfl
@[simp] theorem setMade_nextNode (s : State) (k : Nat) (x : Made) : (s.setMade k x).nextNode = s.nextNode := rfl
@[simp] theorem setMade_oldMaps (s : State) (k : Nat) (x : Made) : (s.setMade k x).oldMaps = s.oldMaps := rfl
@[simp] theorem setMade_parties (s : State) (k : Nat) (x : Made) : (s.setMade k x).parties = s.parties := rfl
@[simp] theorem setMade_nextParty (s : State) (k : Nat) (x : Made) : (s.setMade k x).nextParty = s.nextParty := rfl
@[simp] theorem setMade_nextAcc (s : State) (k : Nat) (x : Made) : (s.setMade k x).nextAcc = s.nextAcc := rfl
@[simp] theorem setMade_lines (s : State) (k : Nat) (x : Made) : (s.setMade k x).lines = s.lines := rfl
@[simp] theorem setMade_vars (s : State) (k : Nat) (x : Made) : (s.setMade k x).vars = s.vars := rfl
@[simp] theorem setMade_semCarry (s : State) (k : Nat) (x : Made) : (s.setMade k x).semCarry = s.semCarry := rfl
@[simp] theorem setMade_swCarry (s : State) (k : Nat) (x : Made) : (s.setMade k x).swCarry = s.swCarry := rfl
@[simp] theorem setMade_joinCarry (s : State) (k : Nat) (x : Made) : (s.setMade k x).joinCarry = s.joinCarry := rfl
@[simp] theorem setMade_posted (s : State) (k : Nat) (x : Made) : (s.setMade k x).posted = s.posted := rfl
@[simp] theorem setMade_joins (s : State) (k : Nat) (x : Made) : (s.setMade k x).joins = s.joins := rfl
@[simp] theorem setMade_semvs (s : State) (k : Nat) (x : Made) : (s.setMade k x).semvs = s.semvs := rfl
@[simp] theorem setMade_sems (s : State) (k : Nat) (x : Made) : (s.setMade k x).sems = s.sems := rfl
@[simp] theorem setMade_sfu (s : State) (k : Nat) (x : Made) : (s.setMade k x).sfu = s.sfu := rfl
@[simp] theorem setMade_copies (s : State) (k : Nat) (x : Made) : (s.setMade k x).copies = s.copies := rfl
@[simp] theorem setMade_copyLast (s : State) (k : Nat) (x : Made) : (s.setMade k x).copyLast = s.copyLast := rfl
@[simp] theorem setMade_quartos (s : State) (k : Nat) (x : Made) : (s.setMade k x).quartos = s.quartos := rfl
@[simp] theorem setMade_port (s : State) (k : Nat) (x : Made) : (s.setMade k x).port = s.port := rfl
@[simp] theorem setMade_sheetMem (s : State) (k : Nat) (x : Made) : (s.setMade k x).sheetMem = s.sheetMem := rfl
@[simp] theorem setMade_acc (s : State) (k : Nat) (x : Made) : (s.setMade k x).acc = s.acc := rfl
@[simp] theorem setMade_launches (s : State) (k : Nat) (x : Made) : (s.setMade k x).launches = s.launches := rfl
@[simp] theorem setMade_nextLaunch (s : State) (k : Nat) (x : Made) : (s.setMade k x).nextLaunch = s.nextLaunch := rfl
@[simp] theorem setMade_doneMsgs (s : State) (k : Nat) (x : Made) : (s.setMade k x).doneMsgs = s.doneMsgs := rfl
@[simp] theorem setMade_lforwards (s : State) (k : Nat) (x : Made) : (s.setMade k x).lforwards = s.lforwards := rfl
@[simp] theorem setMade_lastQueue (s : State) (k : Nat) (x : Made) : (s.setMade k x).lastQueue = s.lastQueue := rfl
@[simp] theorem setMade_groups (s : State) (k : Nat) (x : Made) : (s.setMade k x).groups = s.groups := rfl
@[simp] theorem setMade_slots (s : State) (k : Nat) (x : Made) : (s.setMade k x).slots = s.slots := rfl
@[simp] theorem setMade_pushes (s : State) (k : Nat) (x : Made) : (s.setMade k x).pushes = s.pushes := rfl
@[simp] theorem setMade_results (s : State) (k : Nat) (x : Made) : (s.setMade k x).results = s.results := rfl
@[simp] theorem setMade_portPtr (s : State) (k : Nat) (x : Made) : (s.setMade k x).portPtr = s.portPtr := rfl
@[simp] theorem setMade_slotWon (s : State) (k : Nat) (x : Made) : (s.setMade k x).slotWon = s.slotWon := rfl
@[simp] theorem setMade_links (s : State) (k : Nat) (x : Made) : (s.setMade k x).links = s.links := rfl
@[simp] theorem setMade_mull (s : State) (k : Nat) (x : Made) : (s.setMade k x).mull = s.mull := rfl
@[simp] theorem setMade_mullAdds (s : State) (k : Nat) (x : Made) : (s.setMade k x).mullAdds = s.mullAdds := rfl
@[simp] theorem setMade_mullX (s : State) (k : Nat) (x : Made) : (s.setMade k x).mullX = s.mullX := rfl
@[simp] theorem setMade_mullAcks (s : State) (k : Nat) (x : Made) : (s.setMade k x).mullAcks = s.mullAcks := rfl
@[simp] theorem setMade_traces (s : State) (k : Nat) (x : Made) : (s.setMade k x).traces = s.traces := rfl
@[simp] theorem setMade_life (s : State) (k : Nat) (x : Made) : (s.setMade k x).life = s.life := rfl
@[simp] theorem setMade_unlocked (s : State) (k : Nat) (x : Made) : (s.setMade k x).unlocked = s.unlocked := rfl
@[simp] theorem setMade_identityErased (s : State) (k : Nat) (x : Made) : (s.setMade k x).identityErased = s.identityErased := rfl
@[simp] theorem setMade_tap (s : State) (k : Nat) (x : Made) : (s.setMade k x).tap = s.tap := rfl
@[simp] theorem setMade_frozen (s : State) (k : Nat) (x : Made) : (s.setMade k x).frozen = s.frozen := rfl
@[simp] theorem setMade_corrected (s : State) (k : Nat) (x : Made) : (s.setMade k x).corrected = s.corrected := rfl
@[simp] theorem setMade_dropped (s : State) (k : Nat) (x : Made) : (s.setMade k x).dropped = s.dropped := rfl
@[simp] theorem setMade_afr (s : State) (k : Nat) (x : Made) : (s.setMade k x).afr = s.afr := rfl
@[simp] theorem setMade_gate (s : State) (k : Nat) (x : Made) : (s.setMade k x).gate = s.gate := rfl
@[simp] theorem setMade_gateNext (s : State) (k : Nat) (x : Made) : (s.setMade k x).gateNext = s.gateNext := rfl
@[simp] theorem setMade_mctp (s : State) (k : Nat) (x : Made) : (s.setMade k x).mctp = s.mctp := rfl
@[simp] theorem setMade_smvec (s : State) (k : Nat) (x : Made) : (s.setMade k x).smvec = s.smvec := rfl
@[simp] theorem setMade_worldctl (s : State) (k : Nat) (x : Made) : (s.setMade k x).worldctl = s.worldctl := rfl
@[simp] theorem setMade_worlds (s : State) (k : Nat) (x : Made) : (s.setMade k x).worlds = s.worlds := rfl
@[simp] theorem setMade_bootStage (s : State) (k : Nat) (x : Made) : (s.setMade k x).bootStage = s.bootStage := rfl
@[simp] theorem setMade_bootCount (s : State) (k : Nat) (x : Made) : (s.setMade k x).bootCount = s.bootCount := rfl
@[simp] theorem setMade_bootDies (s : State) (k : Nat) (x : Made) : (s.setMade k x).bootDies = s.bootDies := rfl
@[simp] theorem thread_setMade (s : State) (k j : Nat) (x : Made) : (s.setMade k x).thread j = s.thread j := rfl
@[simp] theorem core_setMade (s : State) (k j : Nat) (x : Made) : (s.setMade k x).core j = s.core j := rfl
@[simp] theorem chan_setMade (s : State) (k j : Nat) (x : Made) : (s.setMade k x).chan j = s.chan j := rfl
@[simp] theorem ctx_setMade (s : State) (k j : Nat) (x : Made) : (s.setMade k x).ctx j = s.ctx j := rfl
@[simp] theorem fn_setMade (s : State) (k j : Nat) (x : Made) : (s.setMade k x).fn j = s.fn j := rfl
@[simp] theorem quarto_setMade (s : State) (k j : Nat) (x : Made) : (s.setMade k x).quarto j = s.quarto j := rfl
@[simp] theorem launch_setMade (s : State) (k j : Nat) (x : Made) : (s.setMade k x).launch j = s.launch j := rfl
@[simp] theorem party_setMade (s : State) (k j : Nat) (x : Made) : (s.setMade k x).party j = s.party j := rfl
@[simp] theorem txn_setMade (s : State) (k j : Nat) (x : Made) : (s.setMade k x).txn j = s.txn j := rfl
@[simp] theorem group_setMade (s : State) (k j : Nat) (x : Made) : (s.setMade k x).group j = s.group j := rfl
@[simp] theorem region_setMade (s : State) (k j : Nat) (x : Made) : (s.setMade k x).region j = s.region j := rfl
@[simp] theorem traceU_setMade (s : State) (k j : Nat) (x : Made) : (s.setMade k x).traceU j = s.traceU j := rfl
@[simp] theorem copyQ_setMade (s : State) (k j : Nat) (x : Made) : (s.setMade k x).copyQ j = s.copyQ j := rfl
@[simp] theorem t_setMade (s : State) (k : Nat) (x : Made) : (s.setMade k x).t = s.t := rfl
@[simp] theorem updMade_eq (s : State) (k : Nat) (f : Made → Made) : s.updMade k f = s.setMade k (f (s.madeN k)) := rfl

/-! ### setQuarto -/

@[simp] theorem quarto_setQuarto (s : State) (k j : Nat) (x : Quarto) : (s.setQuarto k x).quarto j = if j = k then x else s.quarto j := tget_tset ..
theorem quarto_setQuarto_self (s : State) (k : Nat) (x : Quarto) : (s.setQuarto k x).quarto k = x := tget_tset_self ..
@[simp] theorem setQuarto_now (s : State) (k : Nat) (x : Quarto) : (s.setQuarto k x).now = s.now := rfl
@[simp] theorem setQuarto_agenda (s : State) (k : Nat) (x : Quarto) : (s.setQuarto k x).agenda = s.agenda := rfl
@[simp] theorem setQuarto_cur (s : State) (k : Nat) (x : Quarto) : (s.setQuarto k x).cur = s.cur := rfl
@[simp] theorem setQuarto_arg (s : State) (k : Nat) (x : Quarto) : (s.setQuarto k x).arg = s.arg := rfl
@[simp] theorem setQuarto_fresh (s : State) (k : Nat) (x : Quarto) : (s.setQuarto k x).fresh = s.fresh := rfl
@[simp] theorem setQuarto_threads (s : State) (k : Nat) (x : Quarto) : (s.setQuarto k x).threads = s.threads := rfl
@[simp] theorem setQuarto_cores (s : State) (k : Nat) (x : Quarto) : (s.setQuarto k x).cores = s.cores := rfl
@[simp] theorem setQuarto_chans (s : State) (k : Nat) (x : Quarto) : (s.setQuarto k x).chans = s.chans := rfl
@[simp] theorem setQuarto_delays (s : State) (k : Nat) (x : Quarto) : (s.setQuarto k x).delays = s.delays := rfl
@[simp] theorem setQuarto_net (s : State) (k : Nat) (x : Quarto) : (s.setQuarto k x).net = s.net := rfl
@[simp] theorem setQuarto_mem (s : State) (k : Nat) (x : Quarto) : (s.setQuarto k x).mem = s.mem := rfl
@[simp] theorem setQuarto_tags (s : State) (k : Nat) (x : Quarto) : (s.setQuarto k x).tags = s.tags := rfl
@[simp] theorem setQuarto_marks (s : State) (k : Nat) (x : Quarto) : (s.setQuarto k x).marks = s.marks := rfl
@[simp] theorem setQuarto_made (s : State) (k : Nat) (x : Quarto) : (s.setQuarto k x).made = s.made := rfl
@[simp] theorem setQuarto_names (s : State) (k : Nat) (x : Quarto) : (s.setQuarto k x).names = s.names := rfl
@[simp] theorem setQuarto_ctxs (s : State) (k : Nat) (x : Quarto) : (s.setQuarto k x).ctxs = s.ctxs := rfl
@[simp] theorem setQuarto_fns (s : State) (k : Nat) (x : Quarto) : (s.setQuarto k x).fns = s.fns := rfl
@[simp] theorem setQuarto_txns (s : State) (k : Nat) (x : Quarto) : (s.setQuarto k x).txns = s.txns := rfl
@[simp] theorem setQuarto_nextTxn (s : State) (k : Nat) (x : Quarto) : (s.setQuarto k x).nextTxn = s.nextTxn := rfl
@[simp] theorem setQuarto_nextNode (s : State) (k : Nat) (x : Quarto) : (s.setQuarto k x).nextNode = s.nextNode := rfl
@[simp] theorem setQuarto_oldMaps (s : State) (k : Nat) (x : Quarto) : (s.setQuarto k x).oldMaps = s.oldMaps := rfl
@[simp] theorem setQuarto_parties (s : State) (k : Nat) (x : Quarto) : (s.setQuarto k x).parties = s.parties := rfl
@[simp] theorem setQuarto_nextParty (s : State) (k : Nat) (x : Quarto) : (s.setQuarto k x).nextParty = s.nextParty := rfl
@[simp] theorem setQuarto_nextAcc (s : State) (k : Nat) (x : Quarto) : (s.setQuarto k x).nextAcc = s.nextAcc := rfl
@[simp] theorem setQuarto_lines (s : State) (k : Nat) (x : Quarto) : (s.setQuarto k x).lines = s.lines := rfl
@[simp] theorem setQuarto_vars (s : State) (k : Nat) (x : Quarto) : (s.setQuarto k x).vars = s.vars := rfl
@[simp] theorem setQuarto_semCarry (s : State) (k : Nat) (x : Quarto) : (s.setQuarto k x).semCarry = s.semCarry := rfl
@[simp] theorem setQuarto_swCarry (s : State) (k : Nat) (x : Quarto) : (s.setQuarto k x).swCarry = s.swCarry := rfl
@[simp] theorem setQuarto_joinCarry (s : State) (k : Nat) (x : Quarto) : (s.setQuarto k x).joinCarry = s.joinCarry := rfl
@[simp] theorem setQuarto_posted (s : State) (k : Nat) (x : Quarto) : (s.setQuarto k x).posted = s.posted := rfl
@[simp] theorem setQuarto_joins (s : State) (k : Nat) (x : Quarto) : (s.setQuarto k x).joins = s.joins := rfl
@[simp] theorem setQuarto_semvs (s : State) (k : Nat) (x : Quarto) : (s.setQuarto k x).semvs = s.semvs := rfl
@[simp] theorem setQuarto_sems (s : State) (k : Nat) (x : Quarto) : (s.setQuarto k x).sems = s.sems := rfl
@[simp] theorem setQuarto_sfu (s : State) (k : Nat) (x : Quarto) : (s.setQuarto k x).sfu = s.sfu := rfl
@[simp] theorem setQuarto_copies (s : State) (k : Nat) (x : Quarto) : (s.setQuarto k x).copies = s.copies := rfl
@[simp] theorem setQuarto_copyLast (s : State) (k : Nat) (x : Quarto) : (s.setQuarto k x).copyLast = s.copyLast := rfl
@[simp] theorem setQuarto_port (s : State) (k : Nat) (x : Quarto) : (s.setQuarto k x).port = s.port := rfl
@[simp] theorem setQuarto_sheetMem (s : State) (k : Nat) (x : Quarto) : (s.setQuarto k x).sheetMem = s.sheetMem := rfl
@[simp] theorem setQuarto_acc (s : State) (k : Nat) (x : Quarto) : (s.setQuarto k x).acc = s.acc := rfl
@[simp] theorem setQuarto_launches (s : State) (k : Nat) (x : Quarto) : (s.setQuarto k x).launches = s.launches := rfl
@[simp] theorem setQuarto_nextLaunch (s : State) (k : Nat) (x : Quarto) : (s.setQuarto k x).nextLaunch = s.nextLaunch := rfl
@[simp] theorem setQuarto_doneMsgs (s : State) (k : Nat) (x : Quarto) : (s.setQuarto k x).doneMsgs = s.doneMsgs := rfl
@[simp] theorem setQuarto_lforwards (s : State) (k : Nat) (x : Quarto) : (s.setQuarto k x).lforwards = s.lforwards := rfl
@[simp] theorem setQuarto_lastQueue (s : State) (k : Nat) (x : Quarto) : (s.setQuarto k x).lastQueue = s.lastQueue := rfl
@[simp] theorem setQuarto_groups (s : State) (k : Nat) (x : Quarto) : (s.setQuarto k x).groups = s.groups := rfl
@[simp] theorem setQuarto_slots (s : State) (k : Nat) (x : Quarto) : (s.setQuarto k x).slots = s.slots := rfl
@[simp] theorem setQuarto_pushes (s : State) (k : Nat) (x : Quarto) : (s.setQuarto k x).pushes = s.pushes := rfl
@[simp] theorem setQuarto_results (s : State) (k : Nat) (x : Quarto) : (s.setQuarto k x).results = s.results := rfl
@[simp] theorem setQuarto_portPtr (s : State) (k : Nat) (x : Quarto) : (s.setQuarto k x).portPtr = s.portPtr := rfl
@[simp] theorem setQuarto_slotWon (s : State) (k : Nat) (x : Quarto) : (s.setQuarto k x).slotWon = s.slotWon := rfl
@[simp] theorem setQuarto_links (s : State) (k : Nat) (x : Quarto) : (s.setQuarto k x).links = s.links := rfl
@[simp] theorem setQuarto_mull (s : State) (k : Nat) (x : Quarto) : (s.setQuarto k x).mull = s.mull := rfl
@[simp] theorem setQuarto_mullAdds (s : State) (k : Nat) (x : Quarto) : (s.setQuarto k x).mullAdds = s.mullAdds := rfl
@[simp] theorem setQuarto_mullX (s : State) (k : Nat) (x : Quarto) : (s.setQuarto k x).mullX = s.mullX := rfl
@[simp] theorem setQuarto_mullAcks (s : State) (k : Nat) (x : Quarto) : (s.setQuarto k x).mullAcks = s.mullAcks := rfl
@[simp] theorem setQuarto_traces (s : State) (k : Nat) (x : Quarto) : (s.setQuarto k x).traces = s.traces := rfl
@[simp] theorem setQuarto_life (s : State) (k : Nat) (x : Quarto) : (s.setQuarto k x).life = s.life := rfl
@[simp] theorem setQuarto_unlocked (s : State) (k : Nat) (x : Quarto) : (s.setQuarto k x).unlocked = s.unlocked := rfl
@[simp] theorem setQuarto_identityErased (s : State) (k : Nat) (x : Quarto) : (s.setQuarto k x).identityErased = s.identityErased := rfl
@[simp] theorem setQuarto_tap (s : State) (k : Nat) (x : Quarto) : (s.setQuarto k x).tap = s.tap := rfl
@[simp] theorem setQuarto_frozen (s : State) (k : Nat) (x : Quarto) : (s.setQuarto k x).frozen = s.frozen := rfl
@[simp] theorem setQuarto_corrected (s : State) (k : Nat) (x : Quarto) : (s.setQuarto k x).corrected = s.corrected := rfl
@[simp] theorem setQuarto_dropped (s : State) (k : Nat) (x : Quarto) : (s.setQuarto k x).dropped = s.dropped := rfl
@[simp] theorem setQuarto_afr (s : State) (k : Nat) (x : Quarto) : (s.setQuarto k x).afr = s.afr := rfl
@[simp] theorem setQuarto_gate (s : State) (k : Nat) (x : Quarto) : (s.setQuarto k x).gate = s.gate := rfl
@[simp] theorem setQuarto_gateNext (s : State) (k : Nat) (x : Quarto) : (s.setQuarto k x).gateNext = s.gateNext := rfl
@[simp] theorem setQuarto_mctp (s : State) (k : Nat) (x : Quarto) : (s.setQuarto k x).mctp = s.mctp := rfl
@[simp] theorem setQuarto_smvec (s : State) (k : Nat) (x : Quarto) : (s.setQuarto k x).smvec = s.smvec := rfl
@[simp] theorem setQuarto_worldctl (s : State) (k : Nat) (x : Quarto) : (s.setQuarto k x).worldctl = s.worldctl := rfl
@[simp] theorem setQuarto_worlds (s : State) (k : Nat) (x : Quarto) : (s.setQuarto k x).worlds = s.worlds := rfl
@[simp] theorem setQuarto_bootStage (s : State) (k : Nat) (x : Quarto) : (s.setQuarto k x).bootStage = s.bootStage := rfl
@[simp] theorem setQuarto_bootCount (s : State) (k : Nat) (x : Quarto) : (s.setQuarto k x).bootCount = s.bootCount := rfl
@[simp] theorem setQuarto_bootDies (s : State) (k : Nat) (x : Quarto) : (s.setQuarto k x).bootDies = s.bootDies := rfl
@[simp] theorem thread_setQuarto (s : State) (k j : Nat) (x : Quarto) : (s.setQuarto k x).thread j = s.thread j := rfl
@[simp] theorem core_setQuarto (s : State) (k j : Nat) (x : Quarto) : (s.setQuarto k x).core j = s.core j := rfl
@[simp] theorem chan_setQuarto (s : State) (k j : Nat) (x : Quarto) : (s.setQuarto k x).chan j = s.chan j := rfl
@[simp] theorem ctx_setQuarto (s : State) (k j : Nat) (x : Quarto) : (s.setQuarto k x).ctx j = s.ctx j := rfl
@[simp] theorem fn_setQuarto (s : State) (k j : Nat) (x : Quarto) : (s.setQuarto k x).fn j = s.fn j := rfl
@[simp] theorem madeN_setQuarto (s : State) (k j : Nat) (x : Quarto) : (s.setQuarto k x).madeN j = s.madeN j := rfl
@[simp] theorem launch_setQuarto (s : State) (k j : Nat) (x : Quarto) : (s.setQuarto k x).launch j = s.launch j := rfl
@[simp] theorem party_setQuarto (s : State) (k j : Nat) (x : Quarto) : (s.setQuarto k x).party j = s.party j := rfl
@[simp] theorem txn_setQuarto (s : State) (k j : Nat) (x : Quarto) : (s.setQuarto k x).txn j = s.txn j := rfl
@[simp] theorem group_setQuarto (s : State) (k j : Nat) (x : Quarto) : (s.setQuarto k x).group j = s.group j := rfl
@[simp] theorem region_setQuarto (s : State) (k j : Nat) (x : Quarto) : (s.setQuarto k x).region j = s.region j := rfl
@[simp] theorem traceU_setQuarto (s : State) (k j : Nat) (x : Quarto) : (s.setQuarto k x).traceU j = s.traceU j := rfl
@[simp] theorem copyQ_setQuarto (s : State) (k j : Nat) (x : Quarto) : (s.setQuarto k x).copyQ j = s.copyQ j := rfl
@[simp] theorem t_setQuarto (s : State) (k : Nat) (x : Quarto) : (s.setQuarto k x).t = s.t := rfl
@[simp] theorem updQuarto_eq (s : State) (k : Nat) (f : Quarto → Quarto) : s.updQuarto k f = s.setQuarto k (f (s.quarto k)) := rfl

/-! ### setLaunch -/

@[simp] theorem launch_setLaunch (s : State) (k j : Nat) (x : Launch) : (s.setLaunch k x).launch j = if j = k then x else s.launch j := tget_tset ..
theorem launch_setLaunch_self (s : State) (k : Nat) (x : Launch) : (s.setLaunch k x).launch k = x := tget_tset_self ..
@[simp] theorem setLaunch_now (s : State) (k : Nat) (x : Launch) : (s.setLaunch k x).now = s.now := rfl
@[simp] theorem setLaunch_agenda (s : State) (k : Nat) (x : Launch) : (s.setLaunch k x).agenda = s.agenda := rfl
@[simp] theorem setLaunch_cur (s : State) (k : Nat) (x : Launch) : (s.setLaunch k x).cur = s.cur := rfl
@[simp] theorem setLaunch_arg (s : State) (k : Nat) (x : Launch) : (s.setLaunch k x).arg = s.arg := rfl
@[simp] theorem setLaunch_fresh (s : State) (k : Nat) (x : Launch) : (s.setLaunch k x).fresh = s.fresh := rfl
@[simp] theorem setLaunch_threads (s : State) (k : Nat) (x : Launch) : (s.setLaunch k x).threads = s.threads := rfl
@[simp] theorem setLaunch_cores (s : State) (k : Nat) (x : Launch) : (s.setLaunch k x).cores = s.cores := rfl
@[simp] theorem setLaunch_chans (s : State) (k : Nat) (x : Launch) : (s.setLaunch k x).chans = s.chans := rfl
@[simp] theorem setLaunch_delays (s : State) (k : Nat) (x : Launch) : (s.setLaunch k x).delays = s.delays := rfl
@[simp] theorem setLaunch_net (s : State) (k : Nat) (x : Launch) : (s.setLaunch k x).net = s.net := rfl
@[simp] theorem setLaunch_mem (s : State) (k : Nat) (x : Launch) : (s.setLaunch k x).mem = s.mem := rfl
@[simp] theorem setLaunch_tags (s : State) (k : Nat) (x : Launch) : (s.setLaunch k x).tags = s.tags := rfl
@[simp] theorem setLaunch_marks (s : State) (k : Nat) (x : Launch) : (s.setLaunch k x).marks = s.marks := rfl
@[simp] theorem setLaunch_made (s : State) (k : Nat) (x : Launch) : (s.setLaunch k x).made = s.made := rfl
@[simp] theorem setLaunch_names (s : State) (k : Nat) (x : Launch) : (s.setLaunch k x).names = s.names := rfl
@[simp] theorem setLaunch_ctxs (s : State) (k : Nat) (x : Launch) : (s.setLaunch k x).ctxs = s.ctxs := rfl
@[simp] theorem setLaunch_fns (s : State) (k : Nat) (x : Launch) : (s.setLaunch k x).fns = s.fns := rfl
@[simp] theorem setLaunch_txns (s : State) (k : Nat) (x : Launch) : (s.setLaunch k x).txns = s.txns := rfl
@[simp] theorem setLaunch_nextTxn (s : State) (k : Nat) (x : Launch) : (s.setLaunch k x).nextTxn = s.nextTxn := rfl
@[simp] theorem setLaunch_nextNode (s : State) (k : Nat) (x : Launch) : (s.setLaunch k x).nextNode = s.nextNode := rfl
@[simp] theorem setLaunch_oldMaps (s : State) (k : Nat) (x : Launch) : (s.setLaunch k x).oldMaps = s.oldMaps := rfl
@[simp] theorem setLaunch_parties (s : State) (k : Nat) (x : Launch) : (s.setLaunch k x).parties = s.parties := rfl
@[simp] theorem setLaunch_nextParty (s : State) (k : Nat) (x : Launch) : (s.setLaunch k x).nextParty = s.nextParty := rfl
@[simp] theorem setLaunch_nextAcc (s : State) (k : Nat) (x : Launch) : (s.setLaunch k x).nextAcc = s.nextAcc := rfl
@[simp] theorem setLaunch_lines (s : State) (k : Nat) (x : Launch) : (s.setLaunch k x).lines = s.lines := rfl
@[simp] theorem setLaunch_vars (s : State) (k : Nat) (x : Launch) : (s.setLaunch k x).vars = s.vars := rfl
@[simp] theorem setLaunch_semCarry (s : State) (k : Nat) (x : Launch) : (s.setLaunch k x).semCarry = s.semCarry := rfl
@[simp] theorem setLaunch_swCarry (s : State) (k : Nat) (x : Launch) : (s.setLaunch k x).swCarry = s.swCarry := rfl
@[simp] theorem setLaunch_joinCarry (s : State) (k : Nat) (x : Launch) : (s.setLaunch k x).joinCarry = s.joinCarry := rfl
@[simp] theorem setLaunch_posted (s : State) (k : Nat) (x : Launch) : (s.setLaunch k x).posted = s.posted := rfl
@[simp] theorem setLaunch_joins (s : State) (k : Nat) (x : Launch) : (s.setLaunch k x).joins = s.joins := rfl
@[simp] theorem setLaunch_semvs (s : State) (k : Nat) (x : Launch) : (s.setLaunch k x).semvs = s.semvs := rfl
@[simp] theorem setLaunch_sems (s : State) (k : Nat) (x : Launch) : (s.setLaunch k x).sems = s.sems := rfl
@[simp] theorem setLaunch_sfu (s : State) (k : Nat) (x : Launch) : (s.setLaunch k x).sfu = s.sfu := rfl
@[simp] theorem setLaunch_copies (s : State) (k : Nat) (x : Launch) : (s.setLaunch k x).copies = s.copies := rfl
@[simp] theorem setLaunch_copyLast (s : State) (k : Nat) (x : Launch) : (s.setLaunch k x).copyLast = s.copyLast := rfl
@[simp] theorem setLaunch_quartos (s : State) (k : Nat) (x : Launch) : (s.setLaunch k x).quartos = s.quartos := rfl
@[simp] theorem setLaunch_port (s : State) (k : Nat) (x : Launch) : (s.setLaunch k x).port = s.port := rfl
@[simp] theorem setLaunch_sheetMem (s : State) (k : Nat) (x : Launch) : (s.setLaunch k x).sheetMem = s.sheetMem := rfl
@[simp] theorem setLaunch_acc (s : State) (k : Nat) (x : Launch) : (s.setLaunch k x).acc = s.acc := rfl
@[simp] theorem setLaunch_nextLaunch (s : State) (k : Nat) (x : Launch) : (s.setLaunch k x).nextLaunch = s.nextLaunch := rfl
@[simp] theorem setLaunch_doneMsgs (s : State) (k : Nat) (x : Launch) : (s.setLaunch k x).doneMsgs = s.doneMsgs := rfl
@[simp] theorem setLaunch_lforwards (s : State) (k : Nat) (x : Launch) : (s.setLaunch k x).lforwards = s.lforwards := rfl
@[simp] theorem setLaunch_lastQueue (s : State) (k : Nat) (x : Launch) : (s.setLaunch k x).lastQueue = s.lastQueue := rfl
@[simp] theorem setLaunch_groups (s : State) (k : Nat) (x : Launch) : (s.setLaunch k x).groups = s.groups := rfl
@[simp] theorem setLaunch_slots (s : State) (k : Nat) (x : Launch) : (s.setLaunch k x).slots = s.slots := rfl
@[simp] theorem setLaunch_pushes (s : State) (k : Nat) (x : Launch) : (s.setLaunch k x).pushes = s.pushes := rfl
@[simp] theorem setLaunch_results (s : State) (k : Nat) (x : Launch) : (s.setLaunch k x).results = s.results := rfl
@[simp] theorem setLaunch_portPtr (s : State) (k : Nat) (x : Launch) : (s.setLaunch k x).portPtr = s.portPtr := rfl
@[simp] theorem setLaunch_slotWon (s : State) (k : Nat) (x : Launch) : (s.setLaunch k x).slotWon = s.slotWon := rfl
@[simp] theorem setLaunch_links (s : State) (k : Nat) (x : Launch) : (s.setLaunch k x).links = s.links := rfl
@[simp] theorem setLaunch_mull (s : State) (k : Nat) (x : Launch) : (s.setLaunch k x).mull = s.mull := rfl
@[simp] theorem setLaunch_mullAdds (s : State) (k : Nat) (x : Launch) : (s.setLaunch k x).mullAdds = s.mullAdds := rfl
@[simp] theorem setLaunch_mullX (s : State) (k : Nat) (x : Launch) : (s.setLaunch k x).mullX = s.mullX := rfl
@[simp] theorem setLaunch_mullAcks (s : State) (k : Nat) (x : Launch) : (s.setLaunch k x).mullAcks = s.mullAcks := rfl
@[simp] theorem setLaunch_traces (s : State) (k : Nat) (x : Launch) : (s.setLaunch k x).traces = s.traces := rfl
@[simp] theorem setLaunch_life (s : State) (k : Nat) (x : Launch) : (s.setLaunch k x).life = s.life := rfl
@[simp] theorem setLaunch_unlocked (s : State) (k : Nat) (x : Launch) : (s.setLaunch k x).unlocked = s.unlocked := rfl
@[simp] theorem setLaunch_identityErased (s : State) (k : Nat) (x : Launch) : (s.setLaunch k x).identityErased = s.identityErased := rfl
@[simp] theorem setLaunch_tap (s : State) (k : Nat) (x : Launch) : (s.setLaunch k x).tap = s.tap := rfl
@[simp] theorem setLaunch_frozen (s : State) (k : Nat) (x : Launch) : (s.setLaunch k x).frozen = s.frozen := rfl
@[simp] theorem setLaunch_corrected (s : State) (k : Nat) (x : Launch) : (s.setLaunch k x).corrected = s.corrected := rfl
@[simp] theorem setLaunch_dropped (s : State) (k : Nat) (x : Launch) : (s.setLaunch k x).dropped = s.dropped := rfl
@[simp] theorem setLaunch_afr (s : State) (k : Nat) (x : Launch) : (s.setLaunch k x).afr = s.afr := rfl
@[simp] theorem setLaunch_gate (s : State) (k : Nat) (x : Launch) : (s.setLaunch k x).gate = s.gate := rfl
@[simp] theorem setLaunch_gateNext (s : State) (k : Nat) (x : Launch) : (s.setLaunch k x).gateNext = s.gateNext := rfl
@[simp] theorem setLaunch_mctp (s : State) (k : Nat) (x : Launch) : (s.setLaunch k x).mctp = s.mctp := rfl
@[simp] theorem setLaunch_smvec (s : State) (k : Nat) (x : Launch) : (s.setLaunch k x).smvec = s.smvec := rfl
@[simp] theorem setLaunch_worldctl (s : State) (k : Nat) (x : Launch) : (s.setLaunch k x).worldctl = s.worldctl := rfl
@[simp] theorem setLaunch_worlds (s : State) (k : Nat) (x : Launch) : (s.setLaunch k x).worlds = s.worlds := rfl
@[simp] theorem setLaunch_bootStage (s : State) (k : Nat) (x : Launch) : (s.setLaunch k x).bootStage = s.bootStage := rfl
@[simp] theorem setLaunch_bootCount (s : State) (k : Nat) (x : Launch) : (s.setLaunch k x).bootCount = s.bootCount := rfl
@[simp] theorem setLaunch_bootDies (s : State) (k : Nat) (x : Launch) : (s.setLaunch k x).bootDies = s.bootDies := rfl
@[simp] theorem thread_setLaunch (s : State) (k j : Nat) (x : Launch) : (s.setLaunch k x).thread j = s.thread j := rfl
@[simp] theorem core_setLaunch (s : State) (k j : Nat) (x : Launch) : (s.setLaunch k x).core j = s.core j := rfl
@[simp] theorem chan_setLaunch (s : State) (k j : Nat) (x : Launch) : (s.setLaunch k x).chan j = s.chan j := rfl
@[simp] theorem ctx_setLaunch (s : State) (k j : Nat) (x : Launch) : (s.setLaunch k x).ctx j = s.ctx j := rfl
@[simp] theorem fn_setLaunch (s : State) (k j : Nat) (x : Launch) : (s.setLaunch k x).fn j = s.fn j := rfl
@[simp] theorem madeN_setLaunch (s : State) (k j : Nat) (x : Launch) : (s.setLaunch k x).madeN j = s.madeN j := rfl
@[simp] theorem quarto_setLaunch (s : State) (k j : Nat) (x : Launch) : (s.setLaunch k x).quarto j = s.quarto j := rfl
@[simp] theorem party_setLaunch (s : State) (k j : Nat) (x : Launch) : (s.setLaunch k x).party j = s.party j := rfl
@[simp] theorem txn_setLaunch (s : State) (k j : Nat) (x : Launch) : (s.setLaunch k x).txn j = s.txn j := rfl
@[simp] theorem group_setLaunch (s : State) (k j : Nat) (x : Launch) : (s.setLaunch k x).group j = s.group j := rfl
@[simp] theorem region_setLaunch (s : State) (k j : Nat) (x : Launch) : (s.setLaunch k x).region j = s.region j := rfl
@[simp] theorem traceU_setLaunch (s : State) (k j : Nat) (x : Launch) : (s.setLaunch k x).traceU j = s.traceU j := rfl
@[simp] theorem copyQ_setLaunch (s : State) (k j : Nat) (x : Launch) : (s.setLaunch k x).copyQ j = s.copyQ j := rfl
@[simp] theorem t_setLaunch (s : State) (k : Nat) (x : Launch) : (s.setLaunch k x).t = s.t := rfl
@[simp] theorem updLaunch_eq (s : State) (k : Nat) (f : Launch → Launch) : s.updLaunch k f = s.setLaunch k (f (s.launch k)) := rfl

/-! ### setParty -/

@[simp] theorem party_setParty (s : State) (k j : Nat) (x : Party) : (s.setParty k x).party j = if j = k then x else s.party j := tget_tset ..
theorem party_setParty_self (s : State) (k : Nat) (x : Party) : (s.setParty k x).party k = x := tget_tset_self ..
@[simp] theorem setParty_now (s : State) (k : Nat) (x : Party) : (s.setParty k x).now = s.now := rfl
@[simp] theorem setParty_agenda (s : State) (k : Nat) (x : Party) : (s.setParty k x).agenda = s.agenda := rfl
@[simp] theorem setParty_cur (s : State) (k : Nat) (x : Party) : (s.setParty k x).cur = s.cur := rfl
@[simp] theorem setParty_arg (s : State) (k : Nat) (x : Party) : (s.setParty k x).arg = s.arg := rfl
@[simp] theorem setParty_fresh (s : State) (k : Nat) (x : Party) : (s.setParty k x).fresh = s.fresh := rfl
@[simp] theorem setParty_threads (s : State) (k : Nat) (x : Party) : (s.setParty k x).threads = s.threads := rfl
@[simp] theorem setParty_cores (s : State) (k : Nat) (x : Party) : (s.setParty k x).cores = s.cores := rfl
@[simp] theorem setParty_chans (s : State) (k : Nat) (x : Party) : (s.setParty k x).chans = s.chans := rfl
@[simp] theorem setParty_delays (s : State) (k : Nat) (x : Party) : (s.setParty k x).delays = s.delays := rfl
@[simp] theorem setParty_net (s : State) (k : Nat) (x : Party) : (s.setParty k x).net = s.net := rfl
@[simp] theorem setParty_mem (s : State) (k : Nat) (x : Party) : (s.setParty k x).mem = s.mem := rfl
@[simp] theorem setParty_tags (s : State) (k : Nat) (x : Party) : (s.setParty k x).tags = s.tags := rfl
@[simp] theorem setParty_marks (s : State) (k : Nat) (x : Party) : (s.setParty k x).marks = s.marks := rfl
@[simp] theorem setParty_made (s : State) (k : Nat) (x : Party) : (s.setParty k x).made = s.made := rfl
@[simp] theorem setParty_names (s : State) (k : Nat) (x : Party) : (s.setParty k x).names = s.names := rfl
@[simp] theorem setParty_ctxs (s : State) (k : Nat) (x : Party) : (s.setParty k x).ctxs = s.ctxs := rfl
@[simp] theorem setParty_fns (s : State) (k : Nat) (x : Party) : (s.setParty k x).fns = s.fns := rfl
@[simp] theorem setParty_txns (s : State) (k : Nat) (x : Party) : (s.setParty k x).txns = s.txns := rfl
@[simp] theorem setParty_nextTxn (s : State) (k : Nat) (x : Party) : (s.setParty k x).nextTxn = s.nextTxn := rfl
@[simp] theorem setParty_nextNode (s : State) (k : Nat) (x : Party) : (s.setParty k x).nextNode = s.nextNode := rfl
@[simp] theorem setParty_oldMaps (s : State) (k : Nat) (x : Party) : (s.setParty k x).oldMaps = s.oldMaps := rfl
@[simp] theorem setParty_nextParty (s : State) (k : Nat) (x : Party) : (s.setParty k x).nextParty = s.nextParty := rfl
@[simp] theorem setParty_nextAcc (s : State) (k : Nat) (x : Party) : (s.setParty k x).nextAcc = s.nextAcc := rfl
@[simp] theorem setParty_lines (s : State) (k : Nat) (x : Party) : (s.setParty k x).lines = s.lines := rfl
@[simp] theorem setParty_vars (s : State) (k : Nat) (x : Party) : (s.setParty k x).vars = s.vars := rfl
@[simp] theorem setParty_semCarry (s : State) (k : Nat) (x : Party) : (s.setParty k x).semCarry = s.semCarry := rfl
@[simp] theorem setParty_swCarry (s : State) (k : Nat) (x : Party) : (s.setParty k x).swCarry = s.swCarry := rfl
@[simp] theorem setParty_joinCarry (s : State) (k : Nat) (x : Party) : (s.setParty k x).joinCarry = s.joinCarry := rfl
@[simp] theorem setParty_posted (s : State) (k : Nat) (x : Party) : (s.setParty k x).posted = s.posted := rfl
@[simp] theorem setParty_joins (s : State) (k : Nat) (x : Party) : (s.setParty k x).joins = s.joins := rfl
@[simp] theorem setParty_semvs (s : State) (k : Nat) (x : Party) : (s.setParty k x).semvs = s.semvs := rfl
@[simp] theorem setParty_sems (s : State) (k : Nat) (x : Party) : (s.setParty k x).sems = s.sems := rfl
@[simp] theorem setParty_sfu (s : State) (k : Nat) (x : Party) : (s.setParty k x).sfu = s.sfu := rfl
@[simp] theorem setParty_copies (s : State) (k : Nat) (x : Party) : (s.setParty k x).copies = s.copies := rfl
@[simp] theorem setParty_copyLast (s : State) (k : Nat) (x : Party) : (s.setParty k x).copyLast = s.copyLast := rfl
@[simp] theorem setParty_quartos (s : State) (k : Nat) (x : Party) : (s.setParty k x).quartos = s.quartos := rfl
@[simp] theorem setParty_port (s : State) (k : Nat) (x : Party) : (s.setParty k x).port = s.port := rfl
@[simp] theorem setParty_sheetMem (s : State) (k : Nat) (x : Party) : (s.setParty k x).sheetMem = s.sheetMem := rfl
@[simp] theorem setParty_acc (s : State) (k : Nat) (x : Party) : (s.setParty k x).acc = s.acc := rfl
@[simp] theorem setParty_launches (s : State) (k : Nat) (x : Party) : (s.setParty k x).launches = s.launches := rfl
@[simp] theorem setParty_nextLaunch (s : State) (k : Nat) (x : Party) : (s.setParty k x).nextLaunch = s.nextLaunch := rfl
@[simp] theorem setParty_doneMsgs (s : State) (k : Nat) (x : Party) : (s.setParty k x).doneMsgs = s.doneMsgs := rfl
@[simp] theorem setParty_lforwards (s : State) (k : Nat) (x : Party) : (s.setParty k x).lforwards = s.lforwards := rfl
@[simp] theorem setParty_lastQueue (s : State) (k : Nat) (x : Party) : (s.setParty k x).lastQueue = s.lastQueue := rfl
@[simp] theorem setParty_groups (s : State) (k : Nat) (x : Party) : (s.setParty k x).groups = s.groups := rfl
@[simp] theorem setParty_slots (s : State) (k : Nat) (x : Party) : (s.setParty k x).slots = s.slots := rfl
@[simp] theorem setParty_pushes (s : State) (k : Nat) (x : Party) : (s.setParty k x).pushes = s.pushes := rfl
@[simp] theorem setParty_results (s : State) (k : Nat) (x : Party) : (s.setParty k x).results = s.results := rfl
@[simp] theorem setParty_portPtr (s : State) (k : Nat) (x : Party) : (s.setParty k x).portPtr = s.portPtr := rfl
@[simp] theorem setParty_slotWon (s : State) (k : Nat) (x : Party) : (s.setParty k x).slotWon = s.slotWon := rfl
@[simp] theorem setParty_links (s : State) (k : Nat) (x : Party) : (s.setParty k x).links = s.links := rfl
@[simp] theorem setParty_mull (s : State) (k : Nat) (x : Party) : (s.setParty k x).mull = s.mull := rfl
@[simp] theorem setParty_mullAdds (s : State) (k : Nat) (x : Party) : (s.setParty k x).mullAdds = s.mullAdds := rfl
@[simp] theorem setParty_mullX (s : State) (k : Nat) (x : Party) : (s.setParty k x).mullX = s.mullX := rfl
@[simp] theorem setParty_mullAcks (s : State) (k : Nat) (x : Party) : (s.setParty k x).mullAcks = s.mullAcks := rfl
@[simp] theorem setParty_traces (s : State) (k : Nat) (x : Party) : (s.setParty k x).traces = s.traces := rfl
@[simp] theorem setParty_life (s : State) (k : Nat) (x : Party) : (s.setParty k x).life = s.life := rfl
@[simp] theorem setParty_unlocked (s : State) (k : Nat) (x : Party) : (s.setParty k x).unlocked = s.unlocked := rfl
@[simp] theorem setParty_identityErased (s : State) (k : Nat) (x : Party) : (s.setParty k x).identityErased = s.identityErased := rfl
@[simp] theorem setParty_tap (s : State) (k : Nat) (x : Party) : (s.setParty k x).tap = s.tap := rfl
@[simp] theorem setParty_frozen (s : State) (k : Nat) (x : Party) : (s.setParty k x).frozen = s.frozen := rfl
@[simp] theorem setParty_corrected (s : State) (k : Nat) (x : Party) : (s.setParty k x).corrected = s.corrected := rfl
@[simp] theorem setParty_dropped (s : State) (k : Nat) (x : Party) : (s.setParty k x).dropped = s.dropped := rfl
@[simp] theorem setParty_afr (s : State) (k : Nat) (x : Party) : (s.setParty k x).afr = s.afr := rfl
@[simp] theorem setParty_gate (s : State) (k : Nat) (x : Party) : (s.setParty k x).gate = s.gate := rfl
@[simp] theorem setParty_gateNext (s : State) (k : Nat) (x : Party) : (s.setParty k x).gateNext = s.gateNext := rfl
@[simp] theorem setParty_mctp (s : State) (k : Nat) (x : Party) : (s.setParty k x).mctp = s.mctp := rfl
@[simp] theorem setParty_smvec (s : State) (k : Nat) (x : Party) : (s.setParty k x).smvec = s.smvec := rfl
@[simp] theorem setParty_worldctl (s : State) (k : Nat) (x : Party) : (s.setParty k x).worldctl = s.worldctl := rfl
@[simp] theorem setParty_worlds (s : State) (k : Nat) (x : Party) : (s.setParty k x).worlds = s.worlds := rfl
@[simp] theorem setParty_bootStage (s : State) (k : Nat) (x : Party) : (s.setParty k x).bootStage = s.bootStage := rfl
@[simp] theorem setParty_bootCount (s : State) (k : Nat) (x : Party) : (s.setParty k x).bootCount = s.bootCount := rfl
@[simp] theorem setParty_bootDies (s : State) (k : Nat) (x : Party) : (s.setParty k x).bootDies = s.bootDies := rfl
@[simp] theorem thread_setParty (s : State) (k j : Nat) (x : Party) : (s.setParty k x).thread j = s.thread j := rfl
@[simp] theorem core_setParty (s : State) (k j : Nat) (x : Party) : (s.setParty k x).core j = s.core j := rfl
@[simp] theorem chan_setParty (s : State) (k j : Nat) (x : Party) : (s.setParty k x).chan j = s.chan j := rfl
@[simp] theorem ctx_setParty (s : State) (k j : Nat) (x : Party) : (s.setParty k x).ctx j = s.ctx j := rfl
@[simp] theorem fn_setParty (s : State) (k j : Nat) (x : Party) : (s.setParty k x).fn j = s.fn j := rfl
@[simp] theorem madeN_setParty (s : State) (k j : Nat) (x : Party) : (s.setParty k x).madeN j = s.madeN j := rfl
@[simp] theorem quarto_setParty (s : State) (k j : Nat) (x : Party) : (s.setParty k x).quarto j = s.quarto j := rfl
@[simp] theorem launch_setParty (s : State) (k j : Nat) (x : Party) : (s.setParty k x).launch j = s.launch j := rfl
@[simp] theorem txn_setParty (s : State) (k j : Nat) (x : Party) : (s.setParty k x).txn j = s.txn j := rfl
@[simp] theorem group_setParty (s : State) (k j : Nat) (x : Party) : (s.setParty k x).group j = s.group j := rfl
@[simp] theorem region_setParty (s : State) (k j : Nat) (x : Party) : (s.setParty k x).region j = s.region j := rfl
@[simp] theorem traceU_setParty (s : State) (k j : Nat) (x : Party) : (s.setParty k x).traceU j = s.traceU j := rfl
@[simp] theorem copyQ_setParty (s : State) (k j : Nat) (x : Party) : (s.setParty k x).copyQ j = s.copyQ j := rfl
@[simp] theorem t_setParty (s : State) (k : Nat) (x : Party) : (s.setParty k x).t = s.t := rfl

/-! ### setTxn -/

@[simp] theorem txn_setTxn (s : State) (k j : Nat) (x : Txn) : (s.setTxn k x).txn j = if j = k then x else s.txn j := tget_tset ..
theorem txn_setTxn_self (s : State) (k : Nat) (x : Txn) : (s.setTxn k x).txn k = x := tget_tset_self ..
@[simp] theorem setTxn_now (s : State) (k : Nat) (x : Txn) : (s.setTxn k x).now = s.now := rfl
@[simp] theorem setTxn_agenda (s : State) (k : Nat) (x : Txn) : (s.setTxn k x).agenda = s.agenda := rfl
@[simp] theorem setTxn_cur (s : State) (k : Nat) (x : Txn) : (s.setTxn k x).cur = s.cur := rfl
@[simp] theorem setTxn_arg (s : State) (k : Nat) (x : Txn) : (s.setTxn k x).arg = s.arg := rfl
@[simp] theorem setTxn_fresh (s : State) (k : Nat) (x : Txn) : (s.setTxn k x).fresh = s.fresh := rfl
@[simp] theorem setTxn_threads (s : State) (k : Nat) (x : Txn) : (s.setTxn k x).threads = s.threads := rfl
@[simp] theorem setTxn_cores (s : State) (k : Nat) (x : Txn) : (s.setTxn k x).cores = s.cores := rfl
@[simp] theorem setTxn_chans (s : State) (k : Nat) (x : Txn) : (s.setTxn k x).chans = s.chans := rfl
@[simp] theorem setTxn_delays (s : State) (k : Nat) (x : Txn) : (s.setTxn k x).delays = s.delays := rfl
@[simp] theorem setTxn_net (s : State) (k : Nat) (x : Txn) : (s.setTxn k x).net = s.net := rfl
@[simp] theorem setTxn_mem (s : State) (k : Nat) (x : Txn) : (s.setTxn k x).mem = s.mem := rfl
@[simp] theorem setTxn_tags (s : State) (k : Nat) (x : Txn) : (s.setTxn k x).tags = s.tags := rfl
@[simp] theorem setTxn_marks (s : State) (k : Nat) (x : Txn) : (s.setTxn k x).marks = s.marks := rfl
@[simp] theorem setTxn_made (s : State) (k : Nat) (x : Txn) : (s.setTxn k x).made = s.made := rfl
@[simp] theorem setTxn_names (s : State) (k : Nat) (x : Txn) : (s.setTxn k x).names = s.names := rfl
@[simp] theorem setTxn_ctxs (s : State) (k : Nat) (x : Txn) : (s.setTxn k x).ctxs = s.ctxs := rfl
@[simp] theorem setTxn_fns (s : State) (k : Nat) (x : Txn) : (s.setTxn k x).fns = s.fns := rfl
@[simp] theorem setTxn_nextTxn (s : State) (k : Nat) (x : Txn) : (s.setTxn k x).nextTxn = s.nextTxn := rfl
@[simp] theorem setTxn_nextNode (s : State) (k : Nat) (x : Txn) : (s.setTxn k x).nextNode = s.nextNode := rfl
@[simp] theorem setTxn_oldMaps (s : State) (k : Nat) (x : Txn) : (s.setTxn k x).oldMaps = s.oldMaps := rfl
@[simp] theorem setTxn_parties (s : State) (k : Nat) (x : Txn) : (s.setTxn k x).parties = s.parties := rfl
@[simp] theorem setTxn_nextParty (s : State) (k : Nat) (x : Txn) : (s.setTxn k x).nextParty = s.nextParty := rfl
@[simp] theorem setTxn_nextAcc (s : State) (k : Nat) (x : Txn) : (s.setTxn k x).nextAcc = s.nextAcc := rfl
@[simp] theorem setTxn_lines (s : State) (k : Nat) (x : Txn) : (s.setTxn k x).lines = s.lines := rfl
@[simp] theorem setTxn_vars (s : State) (k : Nat) (x : Txn) : (s.setTxn k x).vars = s.vars := rfl
@[simp] theorem setTxn_semCarry (s : State) (k : Nat) (x : Txn) : (s.setTxn k x).semCarry = s.semCarry := rfl
@[simp] theorem setTxn_swCarry (s : State) (k : Nat) (x : Txn) : (s.setTxn k x).swCarry = s.swCarry := rfl
@[simp] theorem setTxn_joinCarry (s : State) (k : Nat) (x : Txn) : (s.setTxn k x).joinCarry = s.joinCarry := rfl
@[simp] theorem setTxn_posted (s : State) (k : Nat) (x : Txn) : (s.setTxn k x).posted = s.posted := rfl
@[simp] theorem setTxn_joins (s : State) (k : Nat) (x : Txn) : (s.setTxn k x).joins = s.joins := rfl
@[simp] theorem setTxn_semvs (s : State) (k : Nat) (x : Txn) : (s.setTxn k x).semvs = s.semvs := rfl
@[simp] theorem setTxn_sems (s : State) (k : Nat) (x : Txn) : (s.setTxn k x).sems = s.sems := rfl
@[simp] theorem setTxn_sfu (s : State) (k : Nat) (x : Txn) : (s.setTxn k x).sfu = s.sfu := rfl
@[simp] theorem setTxn_copies (s : State) (k : Nat) (x : Txn) : (s.setTxn k x).copies = s.copies := rfl
@[simp] theorem setTxn_copyLast (s : State) (k : Nat) (x : Txn) : (s.setTxn k x).copyLast = s.copyLast := rfl
@[simp] theorem setTxn_quartos (s : State) (k : Nat) (x : Txn) : (s.setTxn k x).quartos = s.quartos := rfl
@[simp] theorem setTxn_port (s : State) (k : Nat) (x : Txn) : (s.setTxn k x).port = s.port := rfl
@[simp] theorem setTxn_sheetMem (s : State) (k : Nat) (x : Txn) : (s.setTxn k x).sheetMem = s.sheetMem := rfl
@[simp] theorem setTxn_acc (s : State) (k : Nat) (x : Txn) : (s.setTxn k x).acc = s.acc := rfl
@[simp] theorem setTxn_launches (s : State) (k : Nat) (x : Txn) : (s.setTxn k x).launches = s.launches := rfl
@[simp] theorem setTxn_nextLaunch (s : State) (k : Nat) (x : Txn) : (s.setTxn k x).nextLaunch = s.nextLaunch := rfl
@[simp] theorem setTxn_doneMsgs (s : State) (k : Nat) (x : Txn) : (s.setTxn k x).doneMsgs = s.doneMsgs := rfl
@[simp] theorem setTxn_lforwards (s : State) (k : Nat) (x : Txn) : (s.setTxn k x).lforwards = s.lforwards := rfl
@[simp] theorem setTxn_lastQueue (s : State) (k : Nat) (x : Txn) : (s.setTxn k x).lastQueue = s.lastQueue := rfl
@[simp] theorem setTxn_groups (s : State) (k : Nat) (x : Txn) : (s.setTxn k x).groups = s.groups := rfl
@[simp] theorem setTxn_slots (s : State) (k : Nat) (x : Txn) : (s.setTxn k x).slots = s.slots := rfl
@[simp] theorem setTxn_pushes (s : State) (k : Nat) (x : Txn) : (s.setTxn k x).pushes = s.pushes := rfl
@[simp] theorem setTxn_results (s : State) (k : Nat) (x : Txn) : (s.setTxn k x).results = s.results := rfl
@[simp] theorem setTxn_portPtr (s : State) (k : Nat) (x : Txn) : (s.setTxn k x).portPtr = s.portPtr := rfl
@[simp] theorem setTxn_slotWon (s : State) (k : Nat) (x : Txn) : (s.setTxn k x).slotWon = s.slotWon := rfl
@[simp] theorem setTxn_links (s : State) (k : Nat) (x : Txn) : (s.setTxn k x).links = s.links := rfl
@[simp] theorem setTxn_mull (s : State) (k : Nat) (x : Txn) : (s.setTxn k x).mull = s.mull := rfl
@[simp] theorem setTxn_mullAdds (s : State) (k : Nat) (x : Txn) : (s.setTxn k x).mullAdds = s.mullAdds := rfl
@[simp] theorem setTxn_mullX (s : State) (k : Nat) (x : Txn) : (s.setTxn k x).mullX = s.mullX := rfl
@[simp] theorem setTxn_mullAcks (s : State) (k : Nat) (x : Txn) : (s.setTxn k x).mullAcks = s.mullAcks := rfl
@[simp] theorem setTxn_traces (s : State) (k : Nat) (x : Txn) : (s.setTxn k x).traces = s.traces := rfl
@[simp] theorem setTxn_life (s : State) (k : Nat) (x : Txn) : (s.setTxn k x).life = s.life := rfl
@[simp] theorem setTxn_unlocked (s : State) (k : Nat) (x : Txn) : (s.setTxn k x).unlocked = s.unlocked := rfl
@[simp] theorem setTxn_identityErased (s : State) (k : Nat) (x : Txn) : (s.setTxn k x).identityErased = s.identityErased := rfl
@[simp] theorem setTxn_tap (s : State) (k : Nat) (x : Txn) : (s.setTxn k x).tap = s.tap := rfl
@[simp] theorem setTxn_frozen (s : State) (k : Nat) (x : Txn) : (s.setTxn k x).frozen = s.frozen := rfl
@[simp] theorem setTxn_corrected (s : State) (k : Nat) (x : Txn) : (s.setTxn k x).corrected = s.corrected := rfl
@[simp] theorem setTxn_dropped (s : State) (k : Nat) (x : Txn) : (s.setTxn k x).dropped = s.dropped := rfl
@[simp] theorem setTxn_afr (s : State) (k : Nat) (x : Txn) : (s.setTxn k x).afr = s.afr := rfl
@[simp] theorem setTxn_gate (s : State) (k : Nat) (x : Txn) : (s.setTxn k x).gate = s.gate := rfl
@[simp] theorem setTxn_gateNext (s : State) (k : Nat) (x : Txn) : (s.setTxn k x).gateNext = s.gateNext := rfl
@[simp] theorem setTxn_mctp (s : State) (k : Nat) (x : Txn) : (s.setTxn k x).mctp = s.mctp := rfl
@[simp] theorem setTxn_smvec (s : State) (k : Nat) (x : Txn) : (s.setTxn k x).smvec = s.smvec := rfl
@[simp] theorem setTxn_worldctl (s : State) (k : Nat) (x : Txn) : (s.setTxn k x).worldctl = s.worldctl := rfl
@[simp] theorem setTxn_worlds (s : State) (k : Nat) (x : Txn) : (s.setTxn k x).worlds = s.worlds := rfl
@[simp] theorem setTxn_bootStage (s : State) (k : Nat) (x : Txn) : (s.setTxn k x).bootStage = s.bootStage := rfl
@[simp] theorem setTxn_bootCount (s : State) (k : Nat) (x : Txn) : (s.setTxn k x).bootCount = s.bootCount := rfl
@[simp] theorem setTxn_bootDies (s : State) (k : Nat) (x : Txn) : (s.setTxn k x).bootDies = s.bootDies := rfl
@[simp] theorem thread_setTxn (s : State) (k j : Nat) (x : Txn) : (s.setTxn k x).thread j = s.thread j := rfl
@[simp] theorem core_setTxn (s : State) (k j : Nat) (x : Txn) : (s.setTxn k x).core j = s.core j := rfl
@[simp] theorem chan_setTxn (s : State) (k j : Nat) (x : Txn) : (s.setTxn k x).chan j = s.chan j := rfl
@[simp] theorem ctx_setTxn (s : State) (k j : Nat) (x : Txn) : (s.setTxn k x).ctx j = s.ctx j := rfl
@[simp] theorem fn_setTxn (s : State) (k j : Nat) (x : Txn) : (s.setTxn k x).fn j = s.fn j := rfl
@[simp] theorem madeN_setTxn (s : State) (k j : Nat) (x : Txn) : (s.setTxn k x).madeN j = s.madeN j := rfl
@[simp] theorem quarto_setTxn (s : State) (k j : Nat) (x : Txn) : (s.setTxn k x).quarto j = s.quarto j := rfl
@[simp] theorem launch_setTxn (s : State) (k j : Nat) (x : Txn) : (s.setTxn k x).launch j = s.launch j := rfl
@[simp] theorem party_setTxn (s : State) (k j : Nat) (x : Txn) : (s.setTxn k x).party j = s.party j := rfl
@[simp] theorem group_setTxn (s : State) (k j : Nat) (x : Txn) : (s.setTxn k x).group j = s.group j := rfl
@[simp] theorem region_setTxn (s : State) (k j : Nat) (x : Txn) : (s.setTxn k x).region j = s.region j := rfl
@[simp] theorem traceU_setTxn (s : State) (k j : Nat) (x : Txn) : (s.setTxn k x).traceU j = s.traceU j := rfl
@[simp] theorem copyQ_setTxn (s : State) (k j : Nat) (x : Txn) : (s.setTxn k x).copyQ j = s.copyQ j := rfl
@[simp] theorem t_setTxn (s : State) (k : Nat) (x : Txn) : (s.setTxn k x).t = s.t := rfl
@[simp] theorem updTxn_eq (s : State) (k : Nat) (f : Txn → Txn) : s.updTxn k f = s.setTxn k (f (s.txn k)) := rfl

/-! ### setGroup -/

@[simp] theorem group_setGroup (s : State) (k j : Nat) (x : Group) : (s.setGroup k x).group j = if j = k then x else s.group j := tget_tset ..
theorem group_setGroup_self (s : State) (k : Nat) (x : Group) : (s.setGroup k x).group k = x := tget_tset_self ..
@[simp] theorem setGroup_now (s : State) (k : Nat) (x : Group) : (s.setGroup k x).now = s.now := rfl
@[simp] theorem setGroup_agenda (s : State) (k : Nat) (x : Group) : (s.setGroup k x).agenda = s.agenda := rfl
@[simp] theorem setGroup_cur (s : State) (k : Nat) (x : Group) : (s.setGroup k x).cur = s.cur := rfl
@[simp] theorem setGroup_arg (s : State) (k : Nat) (x : Group) : (s.setGroup k x).arg = s.arg := rfl
@[simp] theorem setGroup_fresh (s : State) (k : Nat) (x : Group) : (s.setGroup k x).fresh = s.fresh := rfl
@[simp] theorem setGroup_threads (s : State) (k : Nat) (x : Group) : (s.setGroup k x).threads = s.threads := rfl
@[simp] theorem setGroup_cores (s : State) (k : Nat) (x : Group) : (s.setGroup k x).cores = s.cores := rfl
@[simp] theorem setGroup_chans (s : State) (k : Nat) (x : Group) : (s.setGroup k x).chans = s.chans := rfl
@[simp] theorem setGroup_delays (s : State) (k : Nat) (x : Group) : (s.setGroup k x).delays = s.delays := rfl
@[simp] theorem setGroup_net (s : State) (k : Nat) (x : Group) : (s.setGroup k x).net = s.net := rfl
@[simp] theorem setGroup_mem (s : State) (k : Nat) (x : Group) : (s.setGroup k x).mem = s.mem := rfl
@[simp] theorem setGroup_tags (s : State) (k : Nat) (x : Group) : (s.setGroup k x).tags = s.tags := rfl
@[simp] theorem setGroup_marks (s : State) (k : Nat) (x : Group) : (s.setGroup k x).marks = s.marks := rfl
@[simp] theorem setGroup_made (s : State) (k : Nat) (x : Group) : (s.setGroup k x).made = s.made := rfl
@[simp] theorem setGroup_names (s : State) (k : Nat) (x : Group) : (s.setGroup k x).names = s.names := rfl
@[simp] theorem setGroup_ctxs (s : State) (k : Nat) (x : Group) : (s.setGroup k x).ctxs = s.ctxs := rfl
@[simp] theorem setGroup_fns (s : State) (k : Nat) (x : Group) : (s.setGroup k x).fns = s.fns := rfl
@[simp] theorem setGroup_txns (s : State) (k : Nat) (x : Group) : (s.setGroup k x).txns = s.txns := rfl
@[simp] theorem setGroup_nextTxn (s : State) (k : Nat) (x : Group) : (s.setGroup k x).nextTxn = s.nextTxn := rfl
@[simp] theorem setGroup_nextNode (s : State) (k : Nat) (x : Group) : (s.setGroup k x).nextNode = s.nextNode := rfl
@[simp] theorem setGroup_oldMaps (s : State) (k : Nat) (x : Group) : (s.setGroup k x).oldMaps = s.oldMaps := rfl
@[simp] theorem setGroup_parties (s : State) (k : Nat) (x : Group) : (s.setGroup k x).parties = s.parties := rfl
@[simp] theorem setGroup_nextParty (s : State) (k : Nat) (x : Group) : (s.setGroup k x).nextParty = s.nextParty := rfl
@[simp] theorem setGroup_nextAcc (s : State) (k : Nat) (x : Group) : (s.setGroup k x).nextAcc = s.nextAcc := rfl
@[simp] theorem setGroup_lines (s : State) (k : Nat) (x : Group) : (s.setGroup k x).lines = s.lines := rfl
@[simp] theorem setGroup_vars (s : State) (k : Nat) (x : Group) : (s.setGroup k x).vars = s.vars := rfl
@[simp] theorem setGroup_semCarry (s : State) (k : Nat) (x : Group) : (s.setGroup k x).semCarry = s.semCarry := rfl
@[simp] theorem setGroup_swCarry (s : State) (k : Nat) (x : Group) : (s.setGroup k x).swCarry = s.swCarry := rfl
@[simp] theorem setGroup_joinCarry (s : State) (k : Nat) (x : Group) : (s.setGroup k x).joinCarry = s.joinCarry := rfl
@[simp] theorem setGroup_posted (s : State) (k : Nat) (x : Group) : (s.setGroup k x).posted = s.posted := rfl
@[simp] theorem setGroup_joins (s : State) (k : Nat) (x : Group) : (s.setGroup k x).joins = s.joins := rfl
@[simp] theorem setGroup_semvs (s : State) (k : Nat) (x : Group) : (s.setGroup k x).semvs = s.semvs := rfl
@[simp] theorem setGroup_sems (s : State) (k : Nat) (x : Group) : (s.setGroup k x).sems = s.sems := rfl
@[simp] theorem setGroup_sfu (s : State) (k : Nat) (x : Group) : (s.setGroup k x).sfu = s.sfu := rfl
@[simp] theorem setGroup_copies (s : State) (k : Nat) (x : Group) : (s.setGroup k x).copies = s.copies := rfl
@[simp] theorem setGroup_copyLast (s : State) (k : Nat) (x : Group) : (s.setGroup k x).copyLast = s.copyLast := rfl
@[simp] theorem setGroup_quartos (s : State) (k : Nat) (x : Group) : (s.setGroup k x).quartos = s.quartos := rfl
@[simp] theorem setGroup_port (s : State) (k : Nat) (x : Group) : (s.setGroup k x).port = s.port := rfl
@[simp] theorem setGroup_sheetMem (s : State) (k : Nat) (x : Group) : (s.setGroup k x).sheetMem = s.sheetMem := rfl
@[simp] theorem setGroup_acc (s : State) (k : Nat) (x : Group) : (s.setGroup k x).acc = s.acc := rfl
@[simp] theorem setGroup_launches (s : State) (k : Nat) (x : Group) : (s.setGroup k x).launches = s.launches := rfl
@[simp] theorem setGroup_nextLaunch (s : State) (k : Nat) (x : Group) : (s.setGroup k x).nextLaunch = s.nextLaunch := rfl
@[simp] theorem setGroup_doneMsgs (s : State) (k : Nat) (x : Group) : (s.setGroup k x).doneMsgs = s.doneMsgs := rfl
@[simp] theorem setGroup_lforwards (s : State) (k : Nat) (x : Group) : (s.setGroup k x).lforwards = s.lforwards := rfl
@[simp] theorem setGroup_lastQueue (s : State) (k : Nat) (x : Group) : (s.setGroup k x).lastQueue = s.lastQueue := rfl
@[simp] theorem setGroup_slots (s : State) (k : Nat) (x : Group) : (s.setGroup k x).slots = s.slots := rfl
@[simp] theorem setGroup_pushes (s : State) (k : Nat) (x : Group) : (s.setGroup k x).pushes = s.pushes := rfl
@[simp] theorem setGroup_results (s : State) (k : Nat) (x : Group) : (s.setGroup k x).results = s.results := rfl
@[simp] theorem setGroup_portPtr (s : State) (k : Nat) (x : Group) : (s.setGroup k x).portPtr = s.portPtr := rfl
@[simp] theorem setGroup_slotWon (s : State) (k : Nat) (x : Group) : (s.setGroup k x).slotWon = s.slotWon := rfl
@[simp] theorem setGroup_links (s : State) (k : Nat) (x : Group) : (s.setGroup k x).links = s.links := rfl
@[simp] theorem setGroup_mull (s : State) (k : Nat) (x : Group) : (s.setGroup k x).mull = s.mull := rfl
@[simp] theorem setGroup_mullAdds (s : State) (k : Nat) (x : Group) : (s.setGroup k x).mullAdds = s.mullAdds := rfl
@[simp] theorem setGroup_mullX (s : State) (k : Nat) (x : Group) : (s.setGroup k x).mullX = s.mullX := rfl
@[simp] theorem setGroup_mullAcks (s : State) (k : Nat) (x : Group) : (s.setGroup k x).mullAcks = s.mullAcks := rfl
@[simp] theorem setGroup_traces (s : State) (k : Nat) (x : Group) : (s.setGroup k x).traces = s.traces := rfl
@[simp] theorem setGroup_life (s : State) (k : Nat) (x : Group) : (s.setGroup k x).life = s.life := rfl
@[simp] theorem setGroup_unlocked (s : State) (k : Nat) (x : Group) : (s.setGroup k x).unlocked = s.unlocked := rfl
@[simp] theorem setGroup_identityErased (s : State) (k : Nat) (x : Group) : (s.setGroup k x).identityErased = s.identityErased := rfl
@[simp] theorem setGroup_tap (s : State) (k : Nat) (x : Group) : (s.setGroup k x).tap = s.tap := rfl
@[simp] theorem setGroup_frozen (s : State) (k : Nat) (x : Group) : (s.setGroup k x).frozen = s.frozen := rfl
@[simp] theorem setGroup_corrected (s : State) (k : Nat) (x : Group) : (s.setGroup k x).corrected = s.corrected := rfl
@[simp] theorem setGroup_dropped (s : State) (k : Nat) (x : Group) : (s.setGroup k x).dropped = s.dropped := rfl
@[simp] theorem setGroup_afr (s : State) (k : Nat) (x : Group) : (s.setGroup k x).afr = s.afr := rfl
@[simp] theorem setGroup_gate (s : State) (k : Nat) (x : Group) : (s.setGroup k x).gate = s.gate := rfl
@[simp] theorem setGroup_gateNext (s : State) (k : Nat) (x : Group) : (s.setGroup k x).gateNext = s.gateNext := rfl
@[simp] theorem setGroup_mctp (s : State) (k : Nat) (x : Group) : (s.setGroup k x).mctp = s.mctp := rfl
@[simp] theorem setGroup_smvec (s : State) (k : Nat) (x : Group) : (s.setGroup k x).smvec = s.smvec := rfl
@[simp] theorem setGroup_worldctl (s : State) (k : Nat) (x : Group) : (s.setGroup k x).worldctl = s.worldctl := rfl
@[simp] theorem setGroup_worlds (s : State) (k : Nat) (x : Group) : (s.setGroup k x).worlds = s.worlds := rfl
@[simp] theorem setGroup_bootStage (s : State) (k : Nat) (x : Group) : (s.setGroup k x).bootStage = s.bootStage := rfl
@[simp] theorem setGroup_bootCount (s : State) (k : Nat) (x : Group) : (s.setGroup k x).bootCount = s.bootCount := rfl
@[simp] theorem setGroup_bootDies (s : State) (k : Nat) (x : Group) : (s.setGroup k x).bootDies = s.bootDies := rfl
@[simp] theorem thread_setGroup (s : State) (k j : Nat) (x : Group) : (s.setGroup k x).thread j = s.thread j := rfl
@[simp] theorem core_setGroup (s : State) (k j : Nat) (x : Group) : (s.setGroup k x).core j = s.core j := rfl
@[simp] theorem chan_setGroup (s : State) (k j : Nat) (x : Group) : (s.setGroup k x).chan j = s.chan j := rfl
@[simp] theorem ctx_setGroup (s : State) (k j : Nat) (x : Group) : (s.setGroup k x).ctx j = s.ctx j := rfl
@[simp] theorem fn_setGroup (s : State) (k j : Nat) (x : Group) : (s.setGroup k x).fn j = s.fn j := rfl
@[simp] theorem madeN_setGroup (s : State) (k j : Nat) (x : Group) : (s.setGroup k x).madeN j = s.madeN j := rfl
@[simp] theorem quarto_setGroup (s : State) (k j : Nat) (x : Group) : (s.setGroup k x).quarto j = s.quarto j := rfl
@[simp] theorem launch_setGroup (s : State) (k j : Nat) (x : Group) : (s.setGroup k x).launch j = s.launch j := rfl
@[simp] theorem party_setGroup (s : State) (k j : Nat) (x : Group) : (s.setGroup k x).party j = s.party j := rfl
@[simp] theorem txn_setGroup (s : State) (k j : Nat) (x : Group) : (s.setGroup k x).txn j = s.txn j := rfl
@[simp] theorem region_setGroup (s : State) (k j : Nat) (x : Group) : (s.setGroup k x).region j = s.region j := rfl
@[simp] theorem traceU_setGroup (s : State) (k j : Nat) (x : Group) : (s.setGroup k x).traceU j = s.traceU j := rfl
@[simp] theorem copyQ_setGroup (s : State) (k j : Nat) (x : Group) : (s.setGroup k x).copyQ j = s.copyQ j := rfl
@[simp] theorem t_setGroup (s : State) (k : Nat) (x : Group) : (s.setGroup k x).t = s.t := rfl

/-! ### setRegion -/

@[simp] theorem region_setRegion (s : State) (k j : Nat) (x : Region) : (s.setRegion k x).region j = if j = k then x else s.region j := tget_tset ..
theorem region_setRegion_self (s : State) (k : Nat) (x : Region) : (s.setRegion k x).region k = x := tget_tset_self ..
@[simp] theorem setRegion_now (s : State) (k : Nat) (x : Region) : (s.setRegion k x).now = s.now := rfl
@[simp] theorem setRegion_agenda (s : State) (k : Nat) (x : Region) : (s.setRegion k x).agenda = s.agenda := rfl
@[simp] theorem setRegion_cur (s : State) (k : Nat) (x : Region) : (s.setRegion k x).cur = s.cur := rfl
@[simp] theorem setRegion_arg (s : State) (k : Nat) (x : Region) : (s.setRegion k x).arg = s.arg := rfl
@[simp] theorem setRegion_fresh (s : State) (k : Nat) (x : Region) : (s.setRegion k x).fresh = s.fresh := rfl
@[simp] theorem setRegion_threads (s : State) (k : Nat) (x : Region) : (s.setRegion k x).threads = s.threads := rfl
@[simp] theorem setRegion_cores (s : State) (k : Nat) (x : Region) : (s.setRegion k x).cores = s.cores := rfl
@[simp] theorem setRegion_chans (s : State) (k : Nat) (x : Region) : (s.setRegion k x).chans = s.chans := rfl
@[simp] theorem setRegion_delays (s : State) (k : Nat) (x : Region) : (s.setRegion k x).delays = s.delays := rfl
@[simp] theorem setRegion_net (s : State) (k : Nat) (x : Region) : (s.setRegion k x).net = s.net := rfl
@[simp] theorem setRegion_mem (s : State) (k : Nat) (x : Region) : (s.setRegion k x).mem = s.mem := rfl
@[simp] theorem setRegion_tags (s : State) (k : Nat) (x : Region) : (s.setRegion k x).tags = s.tags := rfl
@[simp] theorem setRegion_marks (s : State) (k : Nat) (x : Region) : (s.setRegion k x).marks = s.marks := rfl
@[simp] theorem setRegion_made (s : State) (k : Nat) (x : Region) : (s.setRegion k x).made = s.made := rfl
@[simp] theorem setRegion_names (s : State) (k : Nat) (x : Region) : (s.setRegion k x).names = s.names := rfl
@[simp] theorem setRegion_ctxs (s : State) (k : Nat) (x : Region) : (s.setRegion k x).ctxs = s.ctxs := rfl
@[simp] theorem setRegion_fns (s : State) (k : Nat) (x : Region) : (s.setRegion k x).fns = s.fns := rfl
@[simp] theorem setRegion_txns (s : State) (k : Nat) (x : Region) : (s.setRegion k x).txns = s.txns := rfl
@[simp] theorem setRegion_nextTxn (s : State) (k : Nat) (x : Region) : (s.setRegion k x).nextTxn = s.nextTxn := rfl
@[simp] theorem setRegion_nextNode (s : State) (k : Nat) (x : Region) : (s.setRegion k x).nextNode = s.nextNode := rfl
@[simp] theorem setRegion_oldMaps (s : State) (k : Nat) (x : Region) : (s.setRegion k x).oldMaps = s.oldMaps := rfl
@[simp] theorem setRegion_parties (s : State) (k : Nat) (x : Region) : (s.setRegion k x).parties = s.parties := rfl
@[simp] theorem setRegion_nextParty (s : State) (k : Nat) (x : Region) : (s.setRegion k x).nextParty = s.nextParty := rfl
@[simp] theorem setRegion_nextAcc (s : State) (k : Nat) (x : Region) : (s.setRegion k x).nextAcc = s.nextAcc := rfl
@[simp] theorem setRegion_lines (s : State) (k : Nat) (x : Region) : (s.setRegion k x).lines = s.lines := rfl
@[simp] theorem setRegion_vars (s : State) (k : Nat) (x : Region) : (s.setRegion k x).vars = s.vars := rfl
@[simp] theorem setRegion_semCarry (s : State) (k : Nat) (x : Region) : (s.setRegion k x).semCarry = s.semCarry := rfl
@[simp] theorem setRegion_swCarry (s : State) (k : Nat) (x : Region) : (s.setRegion k x).swCarry = s.swCarry := rfl
@[simp] theorem setRegion_joinCarry (s : State) (k : Nat) (x : Region) : (s.setRegion k x).joinCarry = s.joinCarry := rfl
@[simp] theorem setRegion_posted (s : State) (k : Nat) (x : Region) : (s.setRegion k x).posted = s.posted := rfl
@[simp] theorem setRegion_joins (s : State) (k : Nat) (x : Region) : (s.setRegion k x).joins = s.joins := rfl
@[simp] theorem setRegion_semvs (s : State) (k : Nat) (x : Region) : (s.setRegion k x).semvs = s.semvs := rfl
@[simp] theorem setRegion_sems (s : State) (k : Nat) (x : Region) : (s.setRegion k x).sems = s.sems := rfl
@[simp] theorem setRegion_sfu (s : State) (k : Nat) (x : Region) : (s.setRegion k x).sfu = s.sfu := rfl
@[simp] theorem setRegion_copies (s : State) (k : Nat) (x : Region) : (s.setRegion k x).copies = s.copies := rfl
@[simp] theorem setRegion_copyLast (s : State) (k : Nat) (x : Region) : (s.setRegion k x).copyLast = s.copyLast := rfl
@[simp] theorem setRegion_quartos (s : State) (k : Nat) (x : Region) : (s.setRegion k x).quartos = s.quartos := rfl
@[simp] theorem setRegion_port (s : State) (k : Nat) (x : Region) : (s.setRegion k x).port = s.port := rfl
@[simp] theorem setRegion_sheetMem (s : State) (k : Nat) (x : Region) : (s.setRegion k x).sheetMem = s.sheetMem := rfl
@[simp] theorem setRegion_acc (s : State) (k : Nat) (x : Region) : (s.setRegion k x).acc = s.acc := rfl
@[simp] theorem setRegion_launches (s : State) (k : Nat) (x : Region) : (s.setRegion k x).launches = s.launches := rfl
@[simp] theorem setRegion_nextLaunch (s : State) (k : Nat) (x : Region) : (s.setRegion k x).nextLaunch = s.nextLaunch := rfl
@[simp] theorem setRegion_doneMsgs (s : State) (k : Nat) (x : Region) : (s.setRegion k x).doneMsgs = s.doneMsgs := rfl
@[simp] theorem setRegion_lforwards (s : State) (k : Nat) (x : Region) : (s.setRegion k x).lforwards = s.lforwards := rfl
@[simp] theorem setRegion_lastQueue (s : State) (k : Nat) (x : Region) : (s.setRegion k x).lastQueue = s.lastQueue := rfl
@[simp] theorem setRegion_groups (s : State) (k : Nat) (x : Region) : (s.setRegion k x).groups = s.groups := rfl
@[simp] theorem setRegion_slots (s : State) (k : Nat) (x : Region) : (s.setRegion k x).slots = s.slots := rfl
@[simp] theorem setRegion_pushes (s : State) (k : Nat) (x : Region) : (s.setRegion k x).pushes = s.pushes := rfl
@[simp] theorem setRegion_results (s : State) (k : Nat) (x : Region) : (s.setRegion k x).results = s.results := rfl
@[simp] theorem setRegion_portPtr (s : State) (k : Nat) (x : Region) : (s.setRegion k x).portPtr = s.portPtr := rfl
@[simp] theorem setRegion_slotWon (s : State) (k : Nat) (x : Region) : (s.setRegion k x).slotWon = s.slotWon := rfl
@[simp] theorem setRegion_links (s : State) (k : Nat) (x : Region) : (s.setRegion k x).links = s.links := rfl
@[simp] theorem setRegion_mullAdds (s : State) (k : Nat) (x : Region) : (s.setRegion k x).mullAdds = s.mullAdds := rfl
@[simp] theorem setRegion_mullX (s : State) (k : Nat) (x : Region) : (s.setRegion k x).mullX = s.mullX := rfl
@[simp] theorem setRegion_mullAcks (s : State) (k : Nat) (x : Region) : (s.setRegion k x).mullAcks = s.mullAcks := rfl
@[simp] theorem setRegion_traces (s : State) (k : Nat) (x : Region) : (s.setRegion k x).traces = s.traces := rfl
@[simp] theorem setRegion_life (s : State) (k : Nat) (x : Region) : (s.setRegion k x).life = s.life := rfl
@[simp] theorem setRegion_unlocked (s : State) (k : Nat) (x : Region) : (s.setRegion k x).unlocked = s.unlocked := rfl
@[simp] theorem setRegion_identityErased (s : State) (k : Nat) (x : Region) : (s.setRegion k x).identityErased = s.identityErased := rfl
@[simp] theorem setRegion_tap (s : State) (k : Nat) (x : Region) : (s.setRegion k x).tap = s.tap := rfl
@[simp] theorem setRegion_frozen (s : State) (k : Nat) (x : Region) : (s.setRegion k x).frozen = s.frozen := rfl
@[simp] theorem setRegion_corrected (s : State) (k : Nat) (x : Region) : (s.setRegion k x).corrected = s.corrected := rfl
@[simp] theorem setRegion_dropped (s : State) (k : Nat) (x : Region) : (s.setRegion k x).dropped = s.dropped := rfl
@[simp] theorem setRegion_afr (s : State) (k : Nat) (x : Region) : (s.setRegion k x).afr = s.afr := rfl
@[simp] theorem setRegion_gate (s : State) (k : Nat) (x : Region) : (s.setRegion k x).gate = s.gate := rfl
@[simp] theorem setRegion_gateNext (s : State) (k : Nat) (x : Region) : (s.setRegion k x).gateNext = s.gateNext := rfl
@[simp] theorem setRegion_mctp (s : State) (k : Nat) (x : Region) : (s.setRegion k x).mctp = s.mctp := rfl
@[simp] theorem setRegion_smvec (s : State) (k : Nat) (x : Region) : (s.setRegion k x).smvec = s.smvec := rfl
@[simp] theorem setRegion_worldctl (s : State) (k : Nat) (x : Region) : (s.setRegion k x).worldctl = s.worldctl := rfl
@[simp] theorem setRegion_worlds (s : State) (k : Nat) (x : Region) : (s.setRegion k x).worlds = s.worlds := rfl
@[simp] theorem setRegion_bootStage (s : State) (k : Nat) (x : Region) : (s.setRegion k x).bootStage = s.bootStage := rfl
@[simp] theorem setRegion_bootCount (s : State) (k : Nat) (x : Region) : (s.setRegion k x).bootCount = s.bootCount := rfl
@[simp] theorem setRegion_bootDies (s : State) (k : Nat) (x : Region) : (s.setRegion k x).bootDies = s.bootDies := rfl
@[simp] theorem thread_setRegion (s : State) (k j : Nat) (x : Region) : (s.setRegion k x).thread j = s.thread j := rfl
@[simp] theorem core_setRegion (s : State) (k j : Nat) (x : Region) : (s.setRegion k x).core j = s.core j := rfl
@[simp] theorem chan_setRegion (s : State) (k j : Nat) (x : Region) : (s.setRegion k x).chan j = s.chan j := rfl
@[simp] theorem ctx_setRegion (s : State) (k j : Nat) (x : Region) : (s.setRegion k x).ctx j = s.ctx j := rfl
@[simp] theorem fn_setRegion (s : State) (k j : Nat) (x : Region) : (s.setRegion k x).fn j = s.fn j := rfl
@[simp] theorem madeN_setRegion (s : State) (k j : Nat) (x : Region) : (s.setRegion k x).madeN j = s.madeN j := rfl
@[simp] theorem quarto_setRegion (s : State) (k j : Nat) (x : Region) : (s.setRegion k x).quarto j = s.quarto j := rfl
@[simp] theorem launch_setRegion (s : State) (k j : Nat) (x : Region) : (s.setRegion k x).launch j = s.launch j := rfl
@[simp] theorem party_setRegion (s : State) (k j : Nat) (x : Region) : (s.setRegion k x).party j = s.party j := rfl
@[simp] theorem txn_setRegion (s : State) (k j : Nat) (x : Region) : (s.setRegion k x).txn j = s.txn j := rfl
@[simp] theorem group_setRegion (s : State) (k j : Nat) (x : Region) : (s.setRegion k x).group j = s.group j := rfl
@[simp] theorem traceU_setRegion (s : State) (k j : Nat) (x : Region) : (s.setRegion k x).traceU j = s.traceU j := rfl
@[simp] theorem copyQ_setRegion (s : State) (k j : Nat) (x : Region) : (s.setRegion k x).copyQ j = s.copyQ j := rfl
@[simp] theorem t_setRegion (s : State) (k : Nat) (x : Region) : (s.setRegion k x).t = s.t := rfl

/-! ### setTrace -/

@[simp] theorem traceU_setTrace (s : State) (k j : Nat) (x : Trace) : (s.setTrace k x).traceU j = if j = k then x else s.traceU j := tget_tset ..
theorem traceU_setTrace_self (s : State) (k : Nat) (x : Trace) : (s.setTrace k x).traceU k = x := tget_tset_self ..
@[simp] theorem setTrace_now (s : State) (k : Nat) (x : Trace) : (s.setTrace k x).now = s.now := rfl
@[simp] theorem setTrace_agenda (s : State) (k : Nat) (x : Trace) : (s.setTrace k x).agenda = s.agenda := rfl
@[simp] theorem setTrace_cur (s : State) (k : Nat) (x : Trace) : (s.setTrace k x).cur = s.cur := rfl
@[simp] theorem setTrace_arg (s : State) (k : Nat) (x : Trace) : (s.setTrace k x).arg = s.arg := rfl
@[simp] theorem setTrace_fresh (s : State) (k : Nat) (x : Trace) : (s.setTrace k x).fresh = s.fresh := rfl
@[simp] theorem setTrace_threads (s : State) (k : Nat) (x : Trace) : (s.setTrace k x).threads = s.threads := rfl
@[simp] theorem setTrace_cores (s : State) (k : Nat) (x : Trace) : (s.setTrace k x).cores = s.cores := rfl
@[simp] theorem setTrace_chans (s : State) (k : Nat) (x : Trace) : (s.setTrace k x).chans = s.chans := rfl
@[simp] theorem setTrace_delays (s : State) (k : Nat) (x : Trace) : (s.setTrace k x).delays = s.delays := rfl
@[simp] theorem setTrace_net (s : State) (k : Nat) (x : Trace) : (s.setTrace k x).net = s.net := rfl
@[simp] theorem setTrace_mem (s : State) (k : Nat) (x : Trace) : (s.setTrace k x).mem = s.mem := rfl
@[simp] theorem setTrace_tags (s : State) (k : Nat) (x : Trace) : (s.setTrace k x).tags = s.tags := rfl
@[simp] theorem setTrace_marks (s : State) (k : Nat) (x : Trace) : (s.setTrace k x).marks = s.marks := rfl
@[simp] theorem setTrace_made (s : State) (k : Nat) (x : Trace) : (s.setTrace k x).made = s.made := rfl
@[simp] theorem setTrace_names (s : State) (k : Nat) (x : Trace) : (s.setTrace k x).names = s.names := rfl
@[simp] theorem setTrace_ctxs (s : State) (k : Nat) (x : Trace) : (s.setTrace k x).ctxs = s.ctxs := rfl
@[simp] theorem setTrace_fns (s : State) (k : Nat) (x : Trace) : (s.setTrace k x).fns = s.fns := rfl
@[simp] theorem setTrace_txns (s : State) (k : Nat) (x : Trace) : (s.setTrace k x).txns = s.txns := rfl
@[simp] theorem setTrace_nextTxn (s : State) (k : Nat) (x : Trace) : (s.setTrace k x).nextTxn = s.nextTxn := rfl
@[simp] theorem setTrace_nextNode (s : State) (k : Nat) (x : Trace) : (s.setTrace k x).nextNode = s.nextNode := rfl
@[simp] theorem setTrace_oldMaps (s : State) (k : Nat) (x : Trace) : (s.setTrace k x).oldMaps = s.oldMaps := rfl
@[simp] theorem setTrace_parties (s : State) (k : Nat) (x : Trace) : (s.setTrace k x).parties = s.parties := rfl
@[simp] theorem setTrace_nextParty (s : State) (k : Nat) (x : Trace) : (s.setTrace k x).nextParty = s.nextParty := rfl
@[simp] theorem setTrace_nextAcc (s : State) (k : Nat) (x : Trace) : (s.setTrace k x).nextAcc = s.nextAcc := rfl
@[simp] theorem setTrace_lines (s : State) (k : Nat) (x : Trace) : (s.setTrace k x).lines = s.lines := rfl
@[simp] theorem setTrace_vars (s : State) (k : Nat) (x : Trace) : (s.setTrace k x).vars = s.vars := rfl
@[simp] theorem setTrace_semCarry (s : State) (k : Nat) (x : Trace) : (s.setTrace k x).semCarry = s.semCarry := rfl
@[simp] theorem setTrace_swCarry (s : State) (k : Nat) (x : Trace) : (s.setTrace k x).swCarry = s.swCarry := rfl
@[simp] theorem setTrace_joinCarry (s : State) (k : Nat) (x : Trace) : (s.setTrace k x).joinCarry = s.joinCarry := rfl
@[simp] theorem setTrace_posted (s : State) (k : Nat) (x : Trace) : (s.setTrace k x).posted = s.posted := rfl
@[simp] theorem setTrace_joins (s : State) (k : Nat) (x : Trace) : (s.setTrace k x).joins = s.joins := rfl
@[simp] theorem setTrace_semvs (s : State) (k : Nat) (x : Trace) : (s.setTrace k x).semvs = s.semvs := rfl
@[simp] theorem setTrace_sems (s : State) (k : Nat) (x : Trace) : (s.setTrace k x).sems = s.sems := rfl
@[simp] theorem setTrace_sfu (s : State) (k : Nat) (x : Trace) : (s.setTrace k x).sfu = s.sfu := rfl
@[simp] theorem setTrace_copies (s : State) (k : Nat) (x : Trace) : (s.setTrace k x).copies = s.copies := rfl
@[simp] theorem setTrace_copyLast (s : State) (k : Nat) (x : Trace) : (s.setTrace k x).copyLast = s.copyLast := rfl
@[simp] theorem setTrace_quartos (s : State) (k : Nat) (x : Trace) : (s.setTrace k x).quartos = s.quartos := rfl
@[simp] theorem setTrace_port (s : State) (k : Nat) (x : Trace) : (s.setTrace k x).port = s.port := rfl
@[simp] theorem setTrace_sheetMem (s : State) (k : Nat) (x : Trace) : (s.setTrace k x).sheetMem = s.sheetMem := rfl
@[simp] theorem setTrace_acc (s : State) (k : Nat) (x : Trace) : (s.setTrace k x).acc = s.acc := rfl
@[simp] theorem setTrace_launches (s : State) (k : Nat) (x : Trace) : (s.setTrace k x).launches = s.launches := rfl
@[simp] theorem setTrace_nextLaunch (s : State) (k : Nat) (x : Trace) : (s.setTrace k x).nextLaunch = s.nextLaunch := rfl
@[simp] theorem setTrace_doneMsgs (s : State) (k : Nat) (x : Trace) : (s.setTrace k x).doneMsgs = s.doneMsgs := rfl
@[simp] theorem setTrace_lforwards (s : State) (k : Nat) (x : Trace) : (s.setTrace k x).lforwards = s.lforwards := rfl
@[simp] theorem setTrace_lastQueue (s : State) (k : Nat) (x : Trace) : (s.setTrace k x).lastQueue = s.lastQueue := rfl
@[simp] theorem setTrace_groups (s : State) (k : Nat) (x : Trace) : (s.setTrace k x).groups = s.groups := rfl
@[simp] theorem setTrace_slots (s : State) (k : Nat) (x : Trace) : (s.setTrace k x).slots = s.slots := rfl
@[simp] theorem setTrace_pushes (s : State) (k : Nat) (x : Trace) : (s.setTrace k x).pushes = s.pushes := rfl
@[simp] theorem setTrace_results (s : State) (k : Nat) (x : Trace) : (s.setTrace k x).results = s.results := rfl
@[simp] theorem setTrace_portPtr (s : State) (k : Nat) (x : Trace) : (s.setTrace k x).portPtr = s.portPtr := rfl
@[simp] theorem setTrace_slotWon (s : State) (k : Nat) (x : Trace) : (s.setTrace k x).slotWon = s.slotWon := rfl
@[simp] theorem setTrace_links (s : State) (k : Nat) (x : Trace) : (s.setTrace k x).links = s.links := rfl
@[simp] theorem setTrace_mull (s : State) (k : Nat) (x : Trace) : (s.setTrace k x).mull = s.mull := rfl
@[simp] theorem setTrace_mullAdds (s : State) (k : Nat) (x : Trace) : (s.setTrace k x).mullAdds = s.mullAdds := rfl
@[simp] theorem setTrace_mullX (s : State) (k : Nat) (x : Trace) : (s.setTrace k x).mullX = s.mullX := rfl
@[simp] theorem setTrace_mullAcks (s : State) (k : Nat) (x : Trace) : (s.setTrace k x).mullAcks = s.mullAcks := rfl
@[simp] theorem setTrace_life (s : State) (k : Nat) (x : Trace) : (s.setTrace k x).life = s.life := rfl
@[simp] theorem setTrace_unlocked (s : State) (k : Nat) (x : Trace) : (s.setTrace k x).unlocked = s.unlocked := rfl
@[simp] theorem setTrace_identityErased (s : State) (k : Nat) (x : Trace) : (s.setTrace k x).identityErased = s.identityErased := rfl
@[simp] theorem setTrace_tap (s : State) (k : Nat) (x : Trace) : (s.setTrace k x).tap = s.tap := rfl
@[simp] theorem setTrace_frozen (s : State) (k : Nat) (x : Trace) : (s.setTrace k x).frozen = s.frozen := rfl
@[simp] theorem setTrace_corrected (s : State) (k : Nat) (x : Trace) : (s.setTrace k x).corrected = s.corrected := rfl
@[simp] theorem setTrace_dropped (s : State) (k : Nat) (x : Trace) : (s.setTrace k x).dropped = s.dropped := rfl
@[simp] theorem setTrace_afr (s : State) (k : Nat) (x : Trace) : (s.setTrace k x).afr = s.afr := rfl
@[simp] theorem setTrace_gate (s : State) (k : Nat) (x : Trace) : (s.setTrace k x).gate = s.gate := rfl
@[simp] theorem setTrace_gateNext (s : State) (k : Nat) (x : Trace) : (s.setTrace k x).gateNext = s.gateNext := rfl
@[simp] theorem setTrace_mctp (s : State) (k : Nat) (x : Trace) : (s.setTrace k x).mctp = s.mctp := rfl
@[simp] theorem setTrace_smvec (s : State) (k : Nat) (x : Trace) : (s.setTrace k x).smvec = s.smvec := rfl
@[simp] theorem setTrace_worldctl (s : State) (k : Nat) (x : Trace) : (s.setTrace k x).worldctl = s.worldctl := rfl
@[simp] theorem setTrace_worlds (s : State) (k : Nat) (x : Trace) : (s.setTrace k x).worlds = s.worlds := rfl
@[simp] theorem setTrace_bootStage (s : State) (k : Nat) (x : Trace) : (s.setTrace k x).bootStage = s.bootStage := rfl
@[simp] theorem setTrace_bootCount (s : State) (k : Nat) (x : Trace) : (s.setTrace k x).bootCount = s.bootCount := rfl
@[simp] theorem setTrace_bootDies (s : State) (k : Nat) (x : Trace) : (s.setTrace k x).bootDies = s.bootDies := rfl
@[simp] theorem thread_setTrace (s : State) (k j : Nat) (x : Trace) : (s.setTrace k x).thread j = s.thread j := rfl
@[simp] theorem core_setTrace (s : State) (k j : Nat) (x : Trace) : (s.setTrace k x).core j = s.core j := rfl
@[simp] theorem chan_setTrace (s : State) (k j : Nat) (x : Trace) : (s.setTrace k x).chan j = s.chan j := rfl
@[simp] theorem ctx_setTrace (s : State) (k j : Nat) (x : Trace) : (s.setTrace k x).ctx j = s.ctx j := rfl
@[simp] theorem fn_setTrace (s : State) (k j : Nat) (x : Trace) : (s.setTrace k x).fn j = s.fn j := rfl
@[simp] theorem madeN_setTrace (s : State) (k j : Nat) (x : Trace) : (s.setTrace k x).madeN j = s.madeN j := rfl
@[simp] theorem quarto_setTrace (s : State) (k j : Nat) (x : Trace) : (s.setTrace k x).quarto j = s.quarto j := rfl
@[simp] theorem launch_setTrace (s : State) (k j : Nat) (x : Trace) : (s.setTrace k x).launch j = s.launch j := rfl
@[simp] theorem party_setTrace (s : State) (k j : Nat) (x : Trace) : (s.setTrace k x).party j = s.party j := rfl
@[simp] theorem txn_setTrace (s : State) (k j : Nat) (x : Trace) : (s.setTrace k x).txn j = s.txn j := rfl
@[simp] theorem group_setTrace (s : State) (k j : Nat) (x : Trace) : (s.setTrace k x).group j = s.group j := rfl
@[simp] theorem region_setTrace (s : State) (k j : Nat) (x : Trace) : (s.setTrace k x).region j = s.region j := rfl
@[simp] theorem copyQ_setTrace (s : State) (k j : Nat) (x : Trace) : (s.setTrace k x).copyQ j = s.copyQ j := rfl
@[simp] theorem t_setTrace (s : State) (k : Nat) (x : Trace) : (s.setTrace k x).t = s.t := rfl

/-! ### setCopyQ -/

@[simp] theorem copyQ_setCopyQ (s : State) (k j : Nat) (x : (List CopyCmd)) : (s.setCopyQ k x).copyQ j = if j = k then x else s.copyQ j := tget_tset ..
theorem copyQ_setCopyQ_self (s : State) (k : Nat) (x : (List CopyCmd)) : (s.setCopyQ k x).copyQ k = x := tget_tset_self ..
@[simp] theorem setCopyQ_now (s : State) (k : Nat) (x : (List CopyCmd)) : (s.setCopyQ k x).now = s.now := rfl
@[simp] theorem setCopyQ_agenda (s : State) (k : Nat) (x : (List CopyCmd)) : (s.setCopyQ k x).agenda = s.agenda := rfl
@[simp] theorem setCopyQ_cur (s : State) (k : Nat) (x : (List CopyCmd)) : (s.setCopyQ k x).cur = s.cur := rfl
@[simp] theorem setCopyQ_arg (s : State) (k : Nat) (x : (List CopyCmd)) : (s.setCopyQ k x).arg = s.arg := rfl
@[simp] theorem setCopyQ_fresh (s : State) (k : Nat) (x : (List CopyCmd)) : (s.setCopyQ k x).fresh = s.fresh := rfl
@[simp] theorem setCopyQ_threads (s : State) (k : Nat) (x : (List CopyCmd)) : (s.setCopyQ k x).threads = s.threads := rfl
@[simp] theorem setCopyQ_cores (s : State) (k : Nat) (x : (List CopyCmd)) : (s.setCopyQ k x).cores = s.cores := rfl
@[simp] theorem setCopyQ_chans (s : State) (k : Nat) (x : (List CopyCmd)) : (s.setCopyQ k x).chans = s.chans := rfl
@[simp] theorem setCopyQ_delays (s : State) (k : Nat) (x : (List CopyCmd)) : (s.setCopyQ k x).delays = s.delays := rfl
@[simp] theorem setCopyQ_net (s : State) (k : Nat) (x : (List CopyCmd)) : (s.setCopyQ k x).net = s.net := rfl
@[simp] theorem setCopyQ_mem (s : State) (k : Nat) (x : (List CopyCmd)) : (s.setCopyQ k x).mem = s.mem := rfl
@[simp] theorem setCopyQ_tags (s : State) (k : Nat) (x : (List CopyCmd)) : (s.setCopyQ k x).tags = s.tags := rfl
@[simp] theorem setCopyQ_marks (s : State) (k : Nat) (x : (List CopyCmd)) : (s.setCopyQ k x).marks = s.marks := rfl
@[simp] theorem setCopyQ_made (s : State) (k : Nat) (x : (List CopyCmd)) : (s.setCopyQ k x).made = s.made := rfl
@[simp] theorem setCopyQ_names (s : State) (k : Nat) (x : (List CopyCmd)) : (s.setCopyQ k x).names = s.names := rfl
@[simp] theorem setCopyQ_ctxs (s : State) (k : Nat) (x : (List CopyCmd)) : (s.setCopyQ k x).ctxs = s.ctxs := rfl
@[simp] theorem setCopyQ_fns (s : State) (k : Nat) (x : (List CopyCmd)) : (s.setCopyQ k x).fns = s.fns := rfl
@[simp] theorem setCopyQ_txns (s : State) (k : Nat) (x : (List CopyCmd)) : (s.setCopyQ k x).txns = s.txns := rfl
@[simp] theorem setCopyQ_nextTxn (s : State) (k : Nat) (x : (List CopyCmd)) : (s.setCopyQ k x).nextTxn = s.nextTxn := rfl
@[simp] theorem setCopyQ_nextNode (s : State) (k : Nat) (x : (List CopyCmd)) : (s.setCopyQ k x).nextNode = s.nextNode := rfl
@[simp] theorem setCopyQ_oldMaps (s : State) (k : Nat) (x : (List CopyCmd)) : (s.setCopyQ k x).oldMaps = s.oldMaps := rfl
@[simp] theorem setCopyQ_parties (s : State) (k : Nat) (x : (List CopyCmd)) : (s.setCopyQ k x).parties = s.parties := rfl
@[simp] theorem setCopyQ_nextParty (s : State) (k : Nat) (x : (List CopyCmd)) : (s.setCopyQ k x).nextParty = s.nextParty := rfl
@[simp] theorem setCopyQ_nextAcc (s : State) (k : Nat) (x : (List CopyCmd)) : (s.setCopyQ k x).nextAcc = s.nextAcc := rfl
@[simp] theorem setCopyQ_lines (s : State) (k : Nat) (x : (List CopyCmd)) : (s.setCopyQ k x).lines = s.lines := rfl
@[simp] theorem setCopyQ_vars (s : State) (k : Nat) (x : (List CopyCmd)) : (s.setCopyQ k x).vars = s.vars := rfl
@[simp] theorem setCopyQ_semCarry (s : State) (k : Nat) (x : (List CopyCmd)) : (s.setCopyQ k x).semCarry = s.semCarry := rfl
@[simp] theorem setCopyQ_swCarry (s : State) (k : Nat) (x : (List CopyCmd)) : (s.setCopyQ k x).swCarry = s.swCarry := rfl
@[simp] theorem setCopyQ_joinCarry (s : State) (k : Nat) (x : (List CopyCmd)) : (s.setCopyQ k x).joinCarry = s.joinCarry := rfl
@[simp] theorem setCopyQ_posted (s : State) (k : Nat) (x : (List CopyCmd)) : (s.setCopyQ k x).posted = s.posted := rfl
@[simp] theorem setCopyQ_joins (s : State) (k : Nat) (x : (List CopyCmd)) : (s.setCopyQ k x).joins = s.joins := rfl
@[simp] theorem setCopyQ_semvs (s : State) (k : Nat) (x : (List CopyCmd)) : (s.setCopyQ k x).semvs = s.semvs := rfl
@[simp] theorem setCopyQ_sems (s : State) (k : Nat) (x : (List CopyCmd)) : (s.setCopyQ k x).sems = s.sems := rfl
@[simp] theorem setCopyQ_sfu (s : State) (k : Nat) (x : (List CopyCmd)) : (s.setCopyQ k x).sfu = s.sfu := rfl
@[simp] theorem setCopyQ_copyLast (s : State) (k : Nat) (x : (List CopyCmd)) : (s.setCopyQ k x).copyLast = s.copyLast := rfl
@[simp] theorem setCopyQ_quartos (s : State) (k : Nat) (x : (List CopyCmd)) : (s.setCopyQ k x).quartos = s.quartos := rfl
@[simp] theorem setCopyQ_port (s : State) (k : Nat) (x : (List CopyCmd)) : (s.setCopyQ k x).port = s.port := rfl
@[simp] theorem setCopyQ_sheetMem (s : State) (k : Nat) (x : (List CopyCmd)) : (s.setCopyQ k x).sheetMem = s.sheetMem := rfl
@[simp] theorem setCopyQ_acc (s : State) (k : Nat) (x : (List CopyCmd)) : (s.setCopyQ k x).acc = s.acc := rfl
@[simp] theorem setCopyQ_launches (s : State) (k : Nat) (x : (List CopyCmd)) : (s.setCopyQ k x).launches = s.launches := rfl
@[simp] theorem setCopyQ_nextLaunch (s : State) (k : Nat) (x : (List CopyCmd)) : (s.setCopyQ k x).nextLaunch = s.nextLaunch := rfl
@[simp] theorem setCopyQ_doneMsgs (s : State) (k : Nat) (x : (List CopyCmd)) : (s.setCopyQ k x).doneMsgs = s.doneMsgs := rfl
@[simp] theorem setCopyQ_lforwards (s : State) (k : Nat) (x : (List CopyCmd)) : (s.setCopyQ k x).lforwards = s.lforwards := rfl
@[simp] theorem setCopyQ_lastQueue (s : State) (k : Nat) (x : (List CopyCmd)) : (s.setCopyQ k x).lastQueue = s.lastQueue := rfl
@[simp] theorem setCopyQ_groups (s : State) (k : Nat) (x : (List CopyCmd)) : (s.setCopyQ k x).groups = s.groups := rfl
@[simp] theorem setCopyQ_slots (s : State) (k : Nat) (x : (List CopyCmd)) : (s.setCopyQ k x).slots = s.slots := rfl
@[simp] theorem setCopyQ_pushes (s : State) (k : Nat) (x : (List CopyCmd)) : (s.setCopyQ k x).pushes = s.pushes := rfl
@[simp] theorem setCopyQ_results (s : State) (k : Nat) (x : (List CopyCmd)) : (s.setCopyQ k x).results = s.results := rfl
@[simp] theorem setCopyQ_portPtr (s : State) (k : Nat) (x : (List CopyCmd)) : (s.setCopyQ k x).portPtr = s.portPtr := rfl
@[simp] theorem setCopyQ_slotWon (s : State) (k : Nat) (x : (List CopyCmd)) : (s.setCopyQ k x).slotWon = s.slotWon := rfl
@[simp] theorem setCopyQ_links (s : State) (k : Nat) (x : (List CopyCmd)) : (s.setCopyQ k x).links = s.links := rfl
@[simp] theorem setCopyQ_mull (s : State) (k : Nat) (x : (List CopyCmd)) : (s.setCopyQ k x).mull = s.mull := rfl
@[simp] theorem setCopyQ_mullAdds (s : State) (k : Nat) (x : (List CopyCmd)) : (s.setCopyQ k x).mullAdds = s.mullAdds := rfl
@[simp] theorem setCopyQ_mullX (s : State) (k : Nat) (x : (List CopyCmd)) : (s.setCopyQ k x).mullX = s.mullX := rfl
@[simp] theorem setCopyQ_mullAcks (s : State) (k : Nat) (x : (List CopyCmd)) : (s.setCopyQ k x).mullAcks = s.mullAcks := rfl
@[simp] theorem setCopyQ_traces (s : State) (k : Nat) (x : (List CopyCmd)) : (s.setCopyQ k x).traces = s.traces := rfl
@[simp] theorem setCopyQ_life (s : State) (k : Nat) (x : (List CopyCmd)) : (s.setCopyQ k x).life = s.life := rfl
@[simp] theorem setCopyQ_unlocked (s : State) (k : Nat) (x : (List CopyCmd)) : (s.setCopyQ k x).unlocked = s.unlocked := rfl
@[simp] theorem setCopyQ_identityErased (s : State) (k : Nat) (x : (List CopyCmd)) : (s.setCopyQ k x).identityErased = s.identityErased := rfl
@[simp] theorem setCopyQ_tap (s : State) (k : Nat) (x : (List CopyCmd)) : (s.setCopyQ k x).tap = s.tap := rfl
@[simp] theorem setCopyQ_frozen (s : State) (k : Nat) (x : (List CopyCmd)) : (s.setCopyQ k x).frozen = s.frozen := rfl
@[simp] theorem setCopyQ_corrected (s : State) (k : Nat) (x : (List CopyCmd)) : (s.setCopyQ k x).corrected = s.corrected := rfl
@[simp] theorem setCopyQ_dropped (s : State) (k : Nat) (x : (List CopyCmd)) : (s.setCopyQ k x).dropped = s.dropped := rfl
@[simp] theorem setCopyQ_afr (s : State) (k : Nat) (x : (List CopyCmd)) : (s.setCopyQ k x).afr = s.afr := rfl
@[simp] theorem setCopyQ_gate (s : State) (k : Nat) (x : (List CopyCmd)) : (s.setCopyQ k x).gate = s.gate := rfl
@[simp] theorem setCopyQ_gateNext (s : State) (k : Nat) (x : (List CopyCmd)) : (s.setCopyQ k x).gateNext = s.gateNext := rfl
@[simp] theorem setCopyQ_mctp (s : State) (k : Nat) (x : (List CopyCmd)) : (s.setCopyQ k x).mctp = s.mctp := rfl
@[simp] theorem setCopyQ_smvec (s : State) (k : Nat) (x : (List CopyCmd)) : (s.setCopyQ k x).smvec = s.smvec := rfl
@[simp] theorem setCopyQ_worldctl (s : State) (k : Nat) (x : (List CopyCmd)) : (s.setCopyQ k x).worldctl = s.worldctl := rfl
@[simp] theorem setCopyQ_worlds (s : State) (k : Nat) (x : (List CopyCmd)) : (s.setCopyQ k x).worlds = s.worlds := rfl
@[simp] theorem setCopyQ_bootStage (s : State) (k : Nat) (x : (List CopyCmd)) : (s.setCopyQ k x).bootStage = s.bootStage := rfl
@[simp] theorem setCopyQ_bootCount (s : State) (k : Nat) (x : (List CopyCmd)) : (s.setCopyQ k x).bootCount = s.bootCount := rfl
@[simp] theorem setCopyQ_bootDies (s : State) (k : Nat) (x : (List CopyCmd)) : (s.setCopyQ k x).bootDies = s.bootDies := rfl
@[simp] theorem thread_setCopyQ (s : State) (k j : Nat) (x : (List CopyCmd)) : (s.setCopyQ k x).thread j = s.thread j := rfl
@[simp] theorem core_setCopyQ (s : State) (k j : Nat) (x : (List CopyCmd)) : (s.setCopyQ k x).core j = s.core j := rfl
@[simp] theorem chan_setCopyQ (s : State) (k j : Nat) (x : (List CopyCmd)) : (s.setCopyQ k x).chan j = s.chan j := rfl
@[simp] theorem ctx_setCopyQ (s : State) (k j : Nat) (x : (List CopyCmd)) : (s.setCopyQ k x).ctx j = s.ctx j := rfl
@[simp] theorem fn_setCopyQ (s : State) (k j : Nat) (x : (List CopyCmd)) : (s.setCopyQ k x).fn j = s.fn j := rfl
@[simp] theorem madeN_setCopyQ (s : State) (k j : Nat) (x : (List CopyCmd)) : (s.setCopyQ k x).madeN j = s.madeN j := rfl
@[simp] theorem quarto_setCopyQ (s : State) (k j : Nat) (x : (List CopyCmd)) : (s.setCopyQ k x).quarto j = s.quarto j := rfl
@[simp] theorem launch_setCopyQ (s : State) (k j : Nat) (x : (List CopyCmd)) : (s.setCopyQ k x).launch j = s.launch j := rfl
@[simp] theorem party_setCopyQ (s : State) (k j : Nat) (x : (List CopyCmd)) : (s.setCopyQ k x).party j = s.party j := rfl
@[simp] theorem txn_setCopyQ (s : State) (k j : Nat) (x : (List CopyCmd)) : (s.setCopyQ k x).txn j = s.txn j := rfl
@[simp] theorem group_setCopyQ (s : State) (k j : Nat) (x : (List CopyCmd)) : (s.setCopyQ k x).group j = s.group j := rfl
@[simp] theorem region_setCopyQ (s : State) (k j : Nat) (x : (List CopyCmd)) : (s.setCopyQ k x).region j = s.region j := rfl
@[simp] theorem traceU_setCopyQ (s : State) (k j : Nat) (x : (List CopyCmd)) : (s.setCopyQ k x).traceU j = s.traceU j := rfl
@[simp] theorem t_setCopyQ (s : State) (k : Nat) (x : (List CopyCmd)) : (s.setCopyQ k x).t = s.t := rfl

/-! ### The issuing thread -/

theorem setT_eq (s : State) (x : Thread) : s.setT x = s.setThread s.cur x := rfl
@[simp] theorem updT_eq (s : State) (f : Thread → Thread) : s.updT f = s.setT (f s.t) := rfl
@[simp] theorem t_setT (s : State) (x : Thread) : (s.setT x).t = x := thread_setThread_self ..
@[simp] theorem thread_setT (s : State) (j : Nat) (x : Thread) : (s.setT x).thread j = if j = s.cur then x else s.thread j :=
  thread_setThread ..
@[simp] theorem setT_now (s : State) (x : Thread) : (s.setT x).now = s.now := rfl
@[simp] theorem setT_agenda (s : State) (x : Thread) : (s.setT x).agenda = s.agenda := rfl
@[simp] theorem setT_cur (s : State) (x : Thread) : (s.setT x).cur = s.cur := rfl
@[simp] theorem setT_arg (s : State) (x : Thread) : (s.setT x).arg = s.arg := rfl
@[simp] theorem setT_fresh (s : State) (x : Thread) : (s.setT x).fresh = s.fresh := rfl
@[simp] theorem setT_cores (s : State) (x : Thread) : (s.setT x).cores = s.cores := rfl
@[simp] theorem setT_chans (s : State) (x : Thread) : (s.setT x).chans = s.chans := rfl
@[simp] theorem setT_delays (s : State) (x : Thread) : (s.setT x).delays = s.delays := rfl
@[simp] theorem setT_net (s : State) (x : Thread) : (s.setT x).net = s.net := rfl
@[simp] theorem setT_mem (s : State) (x : Thread) : (s.setT x).mem = s.mem := rfl
@[simp] theorem setT_tags (s : State) (x : Thread) : (s.setT x).tags = s.tags := rfl
@[simp] theorem setT_marks (s : State) (x : Thread) : (s.setT x).marks = s.marks := rfl
@[simp] theorem setT_made (s : State) (x : Thread) : (s.setT x).made = s.made := rfl
@[simp] theorem setT_names (s : State) (x : Thread) : (s.setT x).names = s.names := rfl
@[simp] theorem setT_ctxs (s : State) (x : Thread) : (s.setT x).ctxs = s.ctxs := rfl
@[simp] theorem setT_fns (s : State) (x : Thread) : (s.setT x).fns = s.fns := rfl
@[simp] theorem setT_txns (s : State) (x : Thread) : (s.setT x).txns = s.txns := rfl
@[simp] theorem setT_nextTxn (s : State) (x : Thread) : (s.setT x).nextTxn = s.nextTxn := rfl
@[simp] theorem setT_nextNode (s : State) (x : Thread) : (s.setT x).nextNode = s.nextNode := rfl
@[simp] theorem setT_oldMaps (s : State) (x : Thread) : (s.setT x).oldMaps = s.oldMaps := rfl
@[simp] theorem setT_parties (s : State) (x : Thread) : (s.setT x).parties = s.parties := rfl
@[simp] theorem setT_nextParty (s : State) (x : Thread) : (s.setT x).nextParty = s.nextParty := rfl
@[simp] theorem setT_nextAcc (s : State) (x : Thread) : (s.setT x).nextAcc = s.nextAcc := rfl
@[simp] theorem setT_lines (s : State) (x : Thread) : (s.setT x).lines = s.lines := rfl
@[simp] theorem setT_vars (s : State) (x : Thread) : (s.setT x).vars = s.vars := rfl
@[simp] theorem setT_semCarry (s : State) (x : Thread) : (s.setT x).semCarry = s.semCarry := rfl
@[simp] theorem setT_swCarry (s : State) (x : Thread) : (s.setT x).swCarry = s.swCarry := rfl
@[simp] theorem setT_joinCarry (s : State) (x : Thread) : (s.setT x).joinCarry = s.joinCarry := rfl
@[simp] theorem setT_posted (s : State) (x : Thread) : (s.setT x).posted = s.posted := rfl
@[simp] theorem setT_joins (s : State) (x : Thread) : (s.setT x).joins = s.joins := rfl
@[simp] theorem setT_semvs (s : State) (x : Thread) : (s.setT x).semvs = s.semvs := rfl
@[simp] theorem setT_sems (s : State) (x : Thread) : (s.setT x).sems = s.sems := rfl
@[simp] theorem setT_sfu (s : State) (x : Thread) : (s.setT x).sfu = s.sfu := rfl
@[simp] theorem setT_copies (s : State) (x : Thread) : (s.setT x).copies = s.copies := rfl
@[simp] theorem setT_copyLast (s : State) (x : Thread) : (s.setT x).copyLast = s.copyLast := rfl
@[simp] theorem setT_quartos (s : State) (x : Thread) : (s.setT x).quartos = s.quartos := rfl
@[simp] theorem setT_port (s : State) (x : Thread) : (s.setT x).port = s.port := rfl
@[simp] theorem setT_sheetMem (s : State) (x : Thread) : (s.setT x).sheetMem = s.sheetMem := rfl
@[simp] theorem setT_acc (s : State) (x : Thread) : (s.setT x).acc = s.acc := rfl
@[simp] theorem setT_launches (s : State) (x : Thread) : (s.setT x).launches = s.launches := rfl
@[simp] theorem setT_nextLaunch (s : State) (x : Thread) : (s.setT x).nextLaunch = s.nextLaunch := rfl
@[simp] theorem setT_doneMsgs (s : State) (x : Thread) : (s.setT x).doneMsgs = s.doneMsgs := rfl
@[simp] theorem setT_lforwards (s : State) (x : Thread) : (s.setT x).lforwards = s.lforwards := rfl
@[simp] theorem setT_lastQueue (s : State) (x : Thread) : (s.setT x).lastQueue = s.lastQueue := rfl
@[simp] theorem setT_groups (s : State) (x : Thread) : (s.setT x).groups = s.groups := rfl
@[simp] theorem setT_slots (s : State) (x : Thread) : (s.setT x).slots = s.slots := rfl
@[simp] theorem setT_pushes (s : State) (x : Thread) : (s.setT x).pushes = s.pushes := rfl
@[simp] theorem setT_results (s : State) (x : Thread) : (s.setT x).results = s.results := rfl
@[simp] theorem setT_portPtr (s : State) (x : Thread) : (s.setT x).portPtr = s.portPtr := rfl
@[simp] theorem setT_slotWon (s : State) (x : Thread) : (s.setT x).slotWon = s.slotWon := rfl
@[simp] theorem setT_links (s : State) (x : Thread) : (s.setT x).links = s.links := rfl
@[simp] theorem setT_mull (s : State) (x : Thread) : (s.setT x).mull = s.mull := rfl
@[simp] theorem setT_mullAdds (s : State) (x : Thread) : (s.setT x).mullAdds = s.mullAdds := rfl
@[simp] theorem setT_mullX (s : State) (x : Thread) : (s.setT x).mullX = s.mullX := rfl
@[simp] theorem setT_mullAcks (s : State) (x : Thread) : (s.setT x).mullAcks = s.mullAcks := rfl
@[simp] theorem setT_traces (s : State) (x : Thread) : (s.setT x).traces = s.traces := rfl
@[simp] theorem setT_life (s : State) (x : Thread) : (s.setT x).life = s.life := rfl
@[simp] theorem setT_unlocked (s : State) (x : Thread) : (s.setT x).unlocked = s.unlocked := rfl
@[simp] theorem setT_identityErased (s : State) (x : Thread) : (s.setT x).identityErased = s.identityErased := rfl
@[simp] theorem setT_tap (s : State) (x : Thread) : (s.setT x).tap = s.tap := rfl
@[simp] theorem setT_frozen (s : State) (x : Thread) : (s.setT x).frozen = s.frozen := rfl
@[simp] theorem setT_corrected (s : State) (x : Thread) : (s.setT x).corrected = s.corrected := rfl
@[simp] theorem setT_dropped (s : State) (x : Thread) : (s.setT x).dropped = s.dropped := rfl
@[simp] theorem setT_afr (s : State) (x : Thread) : (s.setT x).afr = s.afr := rfl
@[simp] theorem setT_gate (s : State) (x : Thread) : (s.setT x).gate = s.gate := rfl
@[simp] theorem setT_gateNext (s : State) (x : Thread) : (s.setT x).gateNext = s.gateNext := rfl
@[simp] theorem setT_mctp (s : State) (x : Thread) : (s.setT x).mctp = s.mctp := rfl
@[simp] theorem setT_smvec (s : State) (x : Thread) : (s.setT x).smvec = s.smvec := rfl
@[simp] theorem setT_worldctl (s : State) (x : Thread) : (s.setT x).worldctl = s.worldctl := rfl
@[simp] theorem setT_worlds (s : State) (x : Thread) : (s.setT x).worlds = s.worlds := rfl
@[simp] theorem setT_bootStage (s : State) (x : Thread) : (s.setT x).bootStage = s.bootStage := rfl
@[simp] theorem setT_bootCount (s : State) (x : Thread) : (s.setT x).bootCount = s.bootCount := rfl
@[simp] theorem setT_bootDies (s : State) (x : Thread) : (s.setT x).bootDies = s.bootDies := rfl
@[simp] theorem core_setT (s : State) (x : Thread) (j : Nat) : (s.setT x).core j = s.core j := rfl
@[simp] theorem chan_setT (s : State) (x : Thread) (j : Nat) : (s.setT x).chan j = s.chan j := rfl
@[simp] theorem ctx_setT (s : State) (x : Thread) (j : Nat) : (s.setT x).ctx j = s.ctx j := rfl
@[simp] theorem fn_setT (s : State) (x : Thread) (j : Nat) : (s.setT x).fn j = s.fn j := rfl
@[simp] theorem madeN_setT (s : State) (x : Thread) (j : Nat) : (s.setT x).madeN j = s.madeN j := rfl
@[simp] theorem quarto_setT (s : State) (x : Thread) (j : Nat) : (s.setT x).quarto j = s.quarto j := rfl
@[simp] theorem launch_setT (s : State) (x : Thread) (j : Nat) : (s.setT x).launch j = s.launch j := rfl
@[simp] theorem party_setT (s : State) (x : Thread) (j : Nat) : (s.setT x).party j = s.party j := rfl
@[simp] theorem txn_setT (s : State) (x : Thread) (j : Nat) : (s.setT x).txn j = s.txn j := rfl
@[simp] theorem group_setT (s : State) (x : Thread) (j : Nat) : (s.setT x).group j = s.group j := rfl
@[simp] theorem region_setT (s : State) (x : Thread) (j : Nat) : (s.setT x).region j = s.region j := rfl
@[simp] theorem traceU_setT (s : State) (x : Thread) (j : Nat) : (s.setT x).traceU j = s.traceU j := rfl
@[simp] theorem copyQ_setT (s : State) (x : Thread) (j : Nat) : (s.setT x).copyQ j = s.copyQ j := rfl

/-! ### Register results -/

theorem retG_eq (s : State) (d : GReg) (v : Word) : s.retG d v = s.setT (s.t.wrG d v).step := rfl
theorem retB_eq (s : State) (d : BReg) (p : Ptr) : s.retB d p = s.setT (s.t.wrB d p).step := rfl
theorem retV_eq (s : State) (d : VReg) (v : VWord) : s.retV d v = s.setT (s.t.wrV d v).step := rfl
theorem retM_eq (s : State) (d : MReg) (v : MWord) : s.retM d v = s.setT (s.t.wrM d v).step := rfl
theorem next_eq (s : State) : s.next = s.setT s.t.step := rfl

@[simp] theorem retG_now (s : State) (d : GReg) (v : Word) : (s.retG d v).now = s.now := rfl
@[simp] theorem retG_agenda (s : State) (d : GReg) (v : Word) : (s.retG d v).agenda = s.agenda := rfl
@[simp] theorem retG_cur (s : State) (d : GReg) (v : Word) : (s.retG d v).cur = s.cur := rfl
@[simp] theorem retG_arg (s : State) (d : GReg) (v : Word) : (s.retG d v).arg = s.arg := rfl
@[simp] theorem retG_fresh (s : State) (d : GReg) (v : Word) : (s.retG d v).fresh = s.fresh := rfl
@[simp] theorem retG_cores (s : State) (d : GReg) (v : Word) : (s.retG d v).cores = s.cores := rfl
@[simp] theorem retG_chans (s : State) (d : GReg) (v : Word) : (s.retG d v).chans = s.chans := rfl
@[simp] theorem retG_delays (s : State) (d : GReg) (v : Word) : (s.retG d v).delays = s.delays := rfl
@[simp] theorem retG_net (s : State) (d : GReg) (v : Word) : (s.retG d v).net = s.net := rfl
@[simp] theorem retG_mem (s : State) (d : GReg) (v : Word) : (s.retG d v).mem = s.mem := rfl
@[simp] theorem retG_tags (s : State) (d : GReg) (v : Word) : (s.retG d v).tags = s.tags := rfl
@[simp] theorem retG_marks (s : State) (d : GReg) (v : Word) : (s.retG d v).marks = s.marks := rfl
@[simp] theorem retG_made (s : State) (d : GReg) (v : Word) : (s.retG d v).made = s.made := rfl
@[simp] theorem retG_names (s : State) (d : GReg) (v : Word) : (s.retG d v).names = s.names := rfl
@[simp] theorem retG_ctxs (s : State) (d : GReg) (v : Word) : (s.retG d v).ctxs = s.ctxs := rfl
@[simp] theorem retG_fns (s : State) (d : GReg) (v : Word) : (s.retG d v).fns = s.fns := rfl
@[simp] theorem retG_txns (s : State) (d : GReg) (v : Word) : (s.retG d v).txns = s.txns := rfl
@[simp] theorem retG_nextTxn (s : State) (d : GReg) (v : Word) : (s.retG d v).nextTxn = s.nextTxn := rfl
@[simp] theorem retG_nextNode (s : State) (d : GReg) (v : Word) : (s.retG d v).nextNode = s.nextNode := rfl
@[simp] theorem retG_oldMaps (s : State) (d : GReg) (v : Word) : (s.retG d v).oldMaps = s.oldMaps := rfl
@[simp] theorem retG_parties (s : State) (d : GReg) (v : Word) : (s.retG d v).parties = s.parties := rfl
@[simp] theorem retG_nextParty (s : State) (d : GReg) (v : Word) : (s.retG d v).nextParty = s.nextParty := rfl
@[simp] theorem retG_nextAcc (s : State) (d : GReg) (v : Word) : (s.retG d v).nextAcc = s.nextAcc := rfl
@[simp] theorem retG_lines (s : State) (d : GReg) (v : Word) : (s.retG d v).lines = s.lines := rfl
@[simp] theorem retG_vars (s : State) (d : GReg) (v : Word) : (s.retG d v).vars = s.vars := rfl
@[simp] theorem retG_semCarry (s : State) (d : GReg) (v : Word) : (s.retG d v).semCarry = s.semCarry := rfl
@[simp] theorem retG_swCarry (s : State) (d : GReg) (v : Word) : (s.retG d v).swCarry = s.swCarry := rfl
@[simp] theorem retG_joinCarry (s : State) (d : GReg) (v : Word) : (s.retG d v).joinCarry = s.joinCarry := rfl
@[simp] theorem retG_posted (s : State) (d : GReg) (v : Word) : (s.retG d v).posted = s.posted := rfl
@[simp] theorem retG_joins (s : State) (d : GReg) (v : Word) : (s.retG d v).joins = s.joins := rfl
@[simp] theorem retG_semvs (s : State) (d : GReg) (v : Word) : (s.retG d v).semvs = s.semvs := rfl
@[simp] theorem retG_sems (s : State) (d : GReg) (v : Word) : (s.retG d v).sems = s.sems := rfl
@[simp] theorem retG_sfu (s : State) (d : GReg) (v : Word) : (s.retG d v).sfu = s.sfu := rfl
@[simp] theorem retG_copies (s : State) (d : GReg) (v : Word) : (s.retG d v).copies = s.copies := rfl
@[simp] theorem retG_copyLast (s : State) (d : GReg) (v : Word) : (s.retG d v).copyLast = s.copyLast := rfl
@[simp] theorem retG_quartos (s : State) (d : GReg) (v : Word) : (s.retG d v).quartos = s.quartos := rfl
@[simp] theorem retG_port (s : State) (d : GReg) (v : Word) : (s.retG d v).port = s.port := rfl
@[simp] theorem retG_sheetMem (s : State) (d : GReg) (v : Word) : (s.retG d v).sheetMem = s.sheetMem := rfl
@[simp] theorem retG_acc (s : State) (d : GReg) (v : Word) : (s.retG d v).acc = s.acc := rfl
@[simp] theorem retG_launches (s : State) (d : GReg) (v : Word) : (s.retG d v).launches = s.launches := rfl
@[simp] theorem retG_nextLaunch (s : State) (d : GReg) (v : Word) : (s.retG d v).nextLaunch = s.nextLaunch := rfl
@[simp] theorem retG_doneMsgs (s : State) (d : GReg) (v : Word) : (s.retG d v).doneMsgs = s.doneMsgs := rfl
@[simp] theorem retG_lforwards (s : State) (d : GReg) (v : Word) : (s.retG d v).lforwards = s.lforwards := rfl
@[simp] theorem retG_lastQueue (s : State) (d : GReg) (v : Word) : (s.retG d v).lastQueue = s.lastQueue := rfl
@[simp] theorem retG_groups (s : State) (d : GReg) (v : Word) : (s.retG d v).groups = s.groups := rfl
@[simp] theorem retG_slots (s : State) (d : GReg) (v : Word) : (s.retG d v).slots = s.slots := rfl
@[simp] theorem retG_pushes (s : State) (d : GReg) (v : Word) : (s.retG d v).pushes = s.pushes := rfl
@[simp] theorem retG_results (s : State) (d : GReg) (v : Word) : (s.retG d v).results = s.results := rfl
@[simp] theorem retG_portPtr (s : State) (d : GReg) (v : Word) : (s.retG d v).portPtr = s.portPtr := rfl
@[simp] theorem retG_slotWon (s : State) (d : GReg) (v : Word) : (s.retG d v).slotWon = s.slotWon := rfl
@[simp] theorem retG_links (s : State) (d : GReg) (v : Word) : (s.retG d v).links = s.links := rfl
@[simp] theorem retG_mull (s : State) (d : GReg) (v : Word) : (s.retG d v).mull = s.mull := rfl
@[simp] theorem retG_mullAdds (s : State) (d : GReg) (v : Word) : (s.retG d v).mullAdds = s.mullAdds := rfl
@[simp] theorem retG_mullX (s : State) (d : GReg) (v : Word) : (s.retG d v).mullX = s.mullX := rfl
@[simp] theorem retG_mullAcks (s : State) (d : GReg) (v : Word) : (s.retG d v).mullAcks = s.mullAcks := rfl
@[simp] theorem retG_traces (s : State) (d : GReg) (v : Word) : (s.retG d v).traces = s.traces := rfl
@[simp] theorem retG_life (s : State) (d : GReg) (v : Word) : (s.retG d v).life = s.life := rfl
@[simp] theorem retG_unlocked (s : State) (d : GReg) (v : Word) : (s.retG d v).unlocked = s.unlocked := rfl
@[simp] theorem retG_identityErased (s : State) (d : GReg) (v : Word) : (s.retG d v).identityErased = s.identityErased := rfl
@[simp] theorem retG_tap (s : State) (d : GReg) (v : Word) : (s.retG d v).tap = s.tap := rfl
@[simp] theorem retG_frozen (s : State) (d : GReg) (v : Word) : (s.retG d v).frozen = s.frozen := rfl
@[simp] theorem retG_corrected (s : State) (d : GReg) (v : Word) : (s.retG d v).corrected = s.corrected := rfl
@[simp] theorem retG_dropped (s : State) (d : GReg) (v : Word) : (s.retG d v).dropped = s.dropped := rfl
@[simp] theorem retG_afr (s : State) (d : GReg) (v : Word) : (s.retG d v).afr = s.afr := rfl
@[simp] theorem retG_gate (s : State) (d : GReg) (v : Word) : (s.retG d v).gate = s.gate := rfl
@[simp] theorem retG_gateNext (s : State) (d : GReg) (v : Word) : (s.retG d v).gateNext = s.gateNext := rfl
@[simp] theorem retG_mctp (s : State) (d : GReg) (v : Word) : (s.retG d v).mctp = s.mctp := rfl
@[simp] theorem retG_smvec (s : State) (d : GReg) (v : Word) : (s.retG d v).smvec = s.smvec := rfl
@[simp] theorem retG_worldctl (s : State) (d : GReg) (v : Word) : (s.retG d v).worldctl = s.worldctl := rfl
@[simp] theorem retG_worlds (s : State) (d : GReg) (v : Word) : (s.retG d v).worlds = s.worlds := rfl
@[simp] theorem retG_bootStage (s : State) (d : GReg) (v : Word) : (s.retG d v).bootStage = s.bootStage := rfl
@[simp] theorem retG_bootCount (s : State) (d : GReg) (v : Word) : (s.retG d v).bootCount = s.bootCount := rfl
@[simp] theorem retG_bootDies (s : State) (d : GReg) (v : Word) : (s.retG d v).bootDies = s.bootDies := rfl
@[simp] theorem retB_now (s : State) (d : BReg) (v : Ptr) : (s.retB d v).now = s.now := rfl
@[simp] theorem retB_agenda (s : State) (d : BReg) (v : Ptr) : (s.retB d v).agenda = s.agenda := rfl
@[simp] theorem retB_cur (s : State) (d : BReg) (v : Ptr) : (s.retB d v).cur = s.cur := rfl
@[simp] theorem retB_arg (s : State) (d : BReg) (v : Ptr) : (s.retB d v).arg = s.arg := rfl
@[simp] theorem retB_fresh (s : State) (d : BReg) (v : Ptr) : (s.retB d v).fresh = s.fresh := rfl
@[simp] theorem retB_cores (s : State) (d : BReg) (v : Ptr) : (s.retB d v).cores = s.cores := rfl
@[simp] theorem retB_chans (s : State) (d : BReg) (v : Ptr) : (s.retB d v).chans = s.chans := rfl
@[simp] theorem retB_delays (s : State) (d : BReg) (v : Ptr) : (s.retB d v).delays = s.delays := rfl
@[simp] theorem retB_net (s : State) (d : BReg) (v : Ptr) : (s.retB d v).net = s.net := rfl
@[simp] theorem retB_mem (s : State) (d : BReg) (v : Ptr) : (s.retB d v).mem = s.mem := rfl
@[simp] theorem retB_tags (s : State) (d : BReg) (v : Ptr) : (s.retB d v).tags = s.tags := rfl
@[simp] theorem retB_marks (s : State) (d : BReg) (v : Ptr) : (s.retB d v).marks = s.marks := rfl
@[simp] theorem retB_made (s : State) (d : BReg) (v : Ptr) : (s.retB d v).made = s.made := rfl
@[simp] theorem retB_names (s : State) (d : BReg) (v : Ptr) : (s.retB d v).names = s.names := rfl
@[simp] theorem retB_ctxs (s : State) (d : BReg) (v : Ptr) : (s.retB d v).ctxs = s.ctxs := rfl
@[simp] theorem retB_fns (s : State) (d : BReg) (v : Ptr) : (s.retB d v).fns = s.fns := rfl
@[simp] theorem retB_txns (s : State) (d : BReg) (v : Ptr) : (s.retB d v).txns = s.txns := rfl
@[simp] theorem retB_nextTxn (s : State) (d : BReg) (v : Ptr) : (s.retB d v).nextTxn = s.nextTxn := rfl
@[simp] theorem retB_nextNode (s : State) (d : BReg) (v : Ptr) : (s.retB d v).nextNode = s.nextNode := rfl
@[simp] theorem retB_oldMaps (s : State) (d : BReg) (v : Ptr) : (s.retB d v).oldMaps = s.oldMaps := rfl
@[simp] theorem retB_parties (s : State) (d : BReg) (v : Ptr) : (s.retB d v).parties = s.parties := rfl
@[simp] theorem retB_nextParty (s : State) (d : BReg) (v : Ptr) : (s.retB d v).nextParty = s.nextParty := rfl
@[simp] theorem retB_nextAcc (s : State) (d : BReg) (v : Ptr) : (s.retB d v).nextAcc = s.nextAcc := rfl
@[simp] theorem retB_lines (s : State) (d : BReg) (v : Ptr) : (s.retB d v).lines = s.lines := rfl
@[simp] theorem retB_vars (s : State) (d : BReg) (v : Ptr) : (s.retB d v).vars = s.vars := rfl
@[simp] theorem retB_semCarry (s : State) (d : BReg) (v : Ptr) : (s.retB d v).semCarry = s.semCarry := rfl
@[simp] theorem retB_swCarry (s : State) (d : BReg) (v : Ptr) : (s.retB d v).swCarry = s.swCarry := rfl
@[simp] theorem retB_joinCarry (s : State) (d : BReg) (v : Ptr) : (s.retB d v).joinCarry = s.joinCarry := rfl
@[simp] theorem retB_posted (s : State) (d : BReg) (v : Ptr) : (s.retB d v).posted = s.posted := rfl
@[simp] theorem retB_joins (s : State) (d : BReg) (v : Ptr) : (s.retB d v).joins = s.joins := rfl
@[simp] theorem retB_semvs (s : State) (d : BReg) (v : Ptr) : (s.retB d v).semvs = s.semvs := rfl
@[simp] theorem retB_sems (s : State) (d : BReg) (v : Ptr) : (s.retB d v).sems = s.sems := rfl
@[simp] theorem retB_sfu (s : State) (d : BReg) (v : Ptr) : (s.retB d v).sfu = s.sfu := rfl
@[simp] theorem retB_copies (s : State) (d : BReg) (v : Ptr) : (s.retB d v).copies = s.copies := rfl
@[simp] theorem retB_copyLast (s : State) (d : BReg) (v : Ptr) : (s.retB d v).copyLast = s.copyLast := rfl
@[simp] theorem retB_quartos (s : State) (d : BReg) (v : Ptr) : (s.retB d v).quartos = s.quartos := rfl
@[simp] theorem retB_port (s : State) (d : BReg) (v : Ptr) : (s.retB d v).port = s.port := rfl
@[simp] theorem retB_sheetMem (s : State) (d : BReg) (v : Ptr) : (s.retB d v).sheetMem = s.sheetMem := rfl
@[simp] theorem retB_acc (s : State) (d : BReg) (v : Ptr) : (s.retB d v).acc = s.acc := rfl
@[simp] theorem retB_launches (s : State) (d : BReg) (v : Ptr) : (s.retB d v).launches = s.launches := rfl
@[simp] theorem retB_nextLaunch (s : State) (d : BReg) (v : Ptr) : (s.retB d v).nextLaunch = s.nextLaunch := rfl
@[simp] theorem retB_doneMsgs (s : State) (d : BReg) (v : Ptr) : (s.retB d v).doneMsgs = s.doneMsgs := rfl
@[simp] theorem retB_lforwards (s : State) (d : BReg) (v : Ptr) : (s.retB d v).lforwards = s.lforwards := rfl
@[simp] theorem retB_lastQueue (s : State) (d : BReg) (v : Ptr) : (s.retB d v).lastQueue = s.lastQueue := rfl
@[simp] theorem retB_groups (s : State) (d : BReg) (v : Ptr) : (s.retB d v).groups = s.groups := rfl
@[simp] theorem retB_slots (s : State) (d : BReg) (v : Ptr) : (s.retB d v).slots = s.slots := rfl
@[simp] theorem retB_pushes (s : State) (d : BReg) (v : Ptr) : (s.retB d v).pushes = s.pushes := rfl
@[simp] theorem retB_results (s : State) (d : BReg) (v : Ptr) : (s.retB d v).results = s.results := rfl
@[simp] theorem retB_portPtr (s : State) (d : BReg) (v : Ptr) : (s.retB d v).portPtr = s.portPtr := rfl
@[simp] theorem retB_slotWon (s : State) (d : BReg) (v : Ptr) : (s.retB d v).slotWon = s.slotWon := rfl
@[simp] theorem retB_links (s : State) (d : BReg) (v : Ptr) : (s.retB d v).links = s.links := rfl
@[simp] theorem retB_mull (s : State) (d : BReg) (v : Ptr) : (s.retB d v).mull = s.mull := rfl
@[simp] theorem retB_mullAdds (s : State) (d : BReg) (v : Ptr) : (s.retB d v).mullAdds = s.mullAdds := rfl
@[simp] theorem retB_mullX (s : State) (d : BReg) (v : Ptr) : (s.retB d v).mullX = s.mullX := rfl
@[simp] theorem retB_mullAcks (s : State) (d : BReg) (v : Ptr) : (s.retB d v).mullAcks = s.mullAcks := rfl
@[simp] theorem retB_traces (s : State) (d : BReg) (v : Ptr) : (s.retB d v).traces = s.traces := rfl
@[simp] theorem retB_life (s : State) (d : BReg) (v : Ptr) : (s.retB d v).life = s.life := rfl
@[simp] theorem retB_unlocked (s : State) (d : BReg) (v : Ptr) : (s.retB d v).unlocked = s.unlocked := rfl
@[simp] theorem retB_identityErased (s : State) (d : BReg) (v : Ptr) : (s.retB d v).identityErased = s.identityErased := rfl
@[simp] theorem retB_tap (s : State) (d : BReg) (v : Ptr) : (s.retB d v).tap = s.tap := rfl
@[simp] theorem retB_frozen (s : State) (d : BReg) (v : Ptr) : (s.retB d v).frozen = s.frozen := rfl
@[simp] theorem retB_corrected (s : State) (d : BReg) (v : Ptr) : (s.retB d v).corrected = s.corrected := rfl
@[simp] theorem retB_dropped (s : State) (d : BReg) (v : Ptr) : (s.retB d v).dropped = s.dropped := rfl
@[simp] theorem retB_afr (s : State) (d : BReg) (v : Ptr) : (s.retB d v).afr = s.afr := rfl
@[simp] theorem retB_gate (s : State) (d : BReg) (v : Ptr) : (s.retB d v).gate = s.gate := rfl
@[simp] theorem retB_gateNext (s : State) (d : BReg) (v : Ptr) : (s.retB d v).gateNext = s.gateNext := rfl
@[simp] theorem retB_mctp (s : State) (d : BReg) (v : Ptr) : (s.retB d v).mctp = s.mctp := rfl
@[simp] theorem retB_smvec (s : State) (d : BReg) (v : Ptr) : (s.retB d v).smvec = s.smvec := rfl
@[simp] theorem retB_worldctl (s : State) (d : BReg) (v : Ptr) : (s.retB d v).worldctl = s.worldctl := rfl
@[simp] theorem retB_worlds (s : State) (d : BReg) (v : Ptr) : (s.retB d v).worlds = s.worlds := rfl
@[simp] theorem retB_bootStage (s : State) (d : BReg) (v : Ptr) : (s.retB d v).bootStage = s.bootStage := rfl
@[simp] theorem retB_bootCount (s : State) (d : BReg) (v : Ptr) : (s.retB d v).bootCount = s.bootCount := rfl
@[simp] theorem retB_bootDies (s : State) (d : BReg) (v : Ptr) : (s.retB d v).bootDies = s.bootDies := rfl
@[simp] theorem retV_now (s : State) (d : VReg) (v : VWord) : (s.retV d v).now = s.now := rfl
@[simp] theorem retV_agenda (s : State) (d : VReg) (v : VWord) : (s.retV d v).agenda = s.agenda := rfl
@[simp] theorem retV_cur (s : State) (d : VReg) (v : VWord) : (s.retV d v).cur = s.cur := rfl
@[simp] theorem retV_arg (s : State) (d : VReg) (v : VWord) : (s.retV d v).arg = s.arg := rfl
@[simp] theorem retV_fresh (s : State) (d : VReg) (v : VWord) : (s.retV d v).fresh = s.fresh := rfl
@[simp] theorem retV_cores (s : State) (d : VReg) (v : VWord) : (s.retV d v).cores = s.cores := rfl
@[simp] theorem retV_chans (s : State) (d : VReg) (v : VWord) : (s.retV d v).chans = s.chans := rfl
@[simp] theorem retV_delays (s : State) (d : VReg) (v : VWord) : (s.retV d v).delays = s.delays := rfl
@[simp] theorem retV_net (s : State) (d : VReg) (v : VWord) : (s.retV d v).net = s.net := rfl
@[simp] theorem retV_mem (s : State) (d : VReg) (v : VWord) : (s.retV d v).mem = s.mem := rfl
@[simp] theorem retV_tags (s : State) (d : VReg) (v : VWord) : (s.retV d v).tags = s.tags := rfl
@[simp] theorem retV_marks (s : State) (d : VReg) (v : VWord) : (s.retV d v).marks = s.marks := rfl
@[simp] theorem retV_made (s : State) (d : VReg) (v : VWord) : (s.retV d v).made = s.made := rfl
@[simp] theorem retV_names (s : State) (d : VReg) (v : VWord) : (s.retV d v).names = s.names := rfl
@[simp] theorem retV_ctxs (s : State) (d : VReg) (v : VWord) : (s.retV d v).ctxs = s.ctxs := rfl
@[simp] theorem retV_fns (s : State) (d : VReg) (v : VWord) : (s.retV d v).fns = s.fns := rfl
@[simp] theorem retV_txns (s : State) (d : VReg) (v : VWord) : (s.retV d v).txns = s.txns := rfl
@[simp] theorem retV_nextTxn (s : State) (d : VReg) (v : VWord) : (s.retV d v).nextTxn = s.nextTxn := rfl
@[simp] theorem retV_nextNode (s : State) (d : VReg) (v : VWord) : (s.retV d v).nextNode = s.nextNode := rfl
@[simp] theorem retV_oldMaps (s : State) (d : VReg) (v : VWord) : (s.retV d v).oldMaps = s.oldMaps := rfl
@[simp] theorem retV_parties (s : State) (d : VReg) (v : VWord) : (s.retV d v).parties = s.parties := rfl
@[simp] theorem retV_nextParty (s : State) (d : VReg) (v : VWord) : (s.retV d v).nextParty = s.nextParty := rfl
@[simp] theorem retV_nextAcc (s : State) (d : VReg) (v : VWord) : (s.retV d v).nextAcc = s.nextAcc := rfl
@[simp] theorem retV_lines (s : State) (d : VReg) (v : VWord) : (s.retV d v).lines = s.lines := rfl
@[simp] theorem retV_vars (s : State) (d : VReg) (v : VWord) : (s.retV d v).vars = s.vars := rfl
@[simp] theorem retV_semCarry (s : State) (d : VReg) (v : VWord) : (s.retV d v).semCarry = s.semCarry := rfl
@[simp] theorem retV_swCarry (s : State) (d : VReg) (v : VWord) : (s.retV d v).swCarry = s.swCarry := rfl
@[simp] theorem retV_joinCarry (s : State) (d : VReg) (v : VWord) : (s.retV d v).joinCarry = s.joinCarry := rfl
@[simp] theorem retV_posted (s : State) (d : VReg) (v : VWord) : (s.retV d v).posted = s.posted := rfl
@[simp] theorem retV_joins (s : State) (d : VReg) (v : VWord) : (s.retV d v).joins = s.joins := rfl
@[simp] theorem retV_semvs (s : State) (d : VReg) (v : VWord) : (s.retV d v).semvs = s.semvs := rfl
@[simp] theorem retV_sems (s : State) (d : VReg) (v : VWord) : (s.retV d v).sems = s.sems := rfl
@[simp] theorem retV_sfu (s : State) (d : VReg) (v : VWord) : (s.retV d v).sfu = s.sfu := rfl
@[simp] theorem retV_copies (s : State) (d : VReg) (v : VWord) : (s.retV d v).copies = s.copies := rfl
@[simp] theorem retV_copyLast (s : State) (d : VReg) (v : VWord) : (s.retV d v).copyLast = s.copyLast := rfl
@[simp] theorem retV_quartos (s : State) (d : VReg) (v : VWord) : (s.retV d v).quartos = s.quartos := rfl
@[simp] theorem retV_port (s : State) (d : VReg) (v : VWord) : (s.retV d v).port = s.port := rfl
@[simp] theorem retV_sheetMem (s : State) (d : VReg) (v : VWord) : (s.retV d v).sheetMem = s.sheetMem := rfl
@[simp] theorem retV_acc (s : State) (d : VReg) (v : VWord) : (s.retV d v).acc = s.acc := rfl
@[simp] theorem retV_launches (s : State) (d : VReg) (v : VWord) : (s.retV d v).launches = s.launches := rfl
@[simp] theorem retV_nextLaunch (s : State) (d : VReg) (v : VWord) : (s.retV d v).nextLaunch = s.nextLaunch := rfl
@[simp] theorem retV_doneMsgs (s : State) (d : VReg) (v : VWord) : (s.retV d v).doneMsgs = s.doneMsgs := rfl
@[simp] theorem retV_lforwards (s : State) (d : VReg) (v : VWord) : (s.retV d v).lforwards = s.lforwards := rfl
@[simp] theorem retV_lastQueue (s : State) (d : VReg) (v : VWord) : (s.retV d v).lastQueue = s.lastQueue := rfl
@[simp] theorem retV_groups (s : State) (d : VReg) (v : VWord) : (s.retV d v).groups = s.groups := rfl
@[simp] theorem retV_slots (s : State) (d : VReg) (v : VWord) : (s.retV d v).slots = s.slots := rfl
@[simp] theorem retV_pushes (s : State) (d : VReg) (v : VWord) : (s.retV d v).pushes = s.pushes := rfl
@[simp] theorem retV_results (s : State) (d : VReg) (v : VWord) : (s.retV d v).results = s.results := rfl
@[simp] theorem retV_portPtr (s : State) (d : VReg) (v : VWord) : (s.retV d v).portPtr = s.portPtr := rfl
@[simp] theorem retV_slotWon (s : State) (d : VReg) (v : VWord) : (s.retV d v).slotWon = s.slotWon := rfl
@[simp] theorem retV_links (s : State) (d : VReg) (v : VWord) : (s.retV d v).links = s.links := rfl
@[simp] theorem retV_mull (s : State) (d : VReg) (v : VWord) : (s.retV d v).mull = s.mull := rfl
@[simp] theorem retV_mullAdds (s : State) (d : VReg) (v : VWord) : (s.retV d v).mullAdds = s.mullAdds := rfl
@[simp] theorem retV_mullX (s : State) (d : VReg) (v : VWord) : (s.retV d v).mullX = s.mullX := rfl
@[simp] theorem retV_mullAcks (s : State) (d : VReg) (v : VWord) : (s.retV d v).mullAcks = s.mullAcks := rfl
@[simp] theorem retV_traces (s : State) (d : VReg) (v : VWord) : (s.retV d v).traces = s.traces := rfl
@[simp] theorem retV_life (s : State) (d : VReg) (v : VWord) : (s.retV d v).life = s.life := rfl
@[simp] theorem retV_unlocked (s : State) (d : VReg) (v : VWord) : (s.retV d v).unlocked = s.unlocked := rfl
@[simp] theorem retV_identityErased (s : State) (d : VReg) (v : VWord) : (s.retV d v).identityErased = s.identityErased := rfl
@[simp] theorem retV_tap (s : State) (d : VReg) (v : VWord) : (s.retV d v).tap = s.tap := rfl
@[simp] theorem retV_frozen (s : State) (d : VReg) (v : VWord) : (s.retV d v).frozen = s.frozen := rfl
@[simp] theorem retV_corrected (s : State) (d : VReg) (v : VWord) : (s.retV d v).corrected = s.corrected := rfl
@[simp] theorem retV_dropped (s : State) (d : VReg) (v : VWord) : (s.retV d v).dropped = s.dropped := rfl
@[simp] theorem retV_afr (s : State) (d : VReg) (v : VWord) : (s.retV d v).afr = s.afr := rfl
@[simp] theorem retV_gate (s : State) (d : VReg) (v : VWord) : (s.retV d v).gate = s.gate := rfl
@[simp] theorem retV_gateNext (s : State) (d : VReg) (v : VWord) : (s.retV d v).gateNext = s.gateNext := rfl
@[simp] theorem retV_mctp (s : State) (d : VReg) (v : VWord) : (s.retV d v).mctp = s.mctp := rfl
@[simp] theorem retV_smvec (s : State) (d : VReg) (v : VWord) : (s.retV d v).smvec = s.smvec := rfl
@[simp] theorem retV_worldctl (s : State) (d : VReg) (v : VWord) : (s.retV d v).worldctl = s.worldctl := rfl
@[simp] theorem retV_worlds (s : State) (d : VReg) (v : VWord) : (s.retV d v).worlds = s.worlds := rfl
@[simp] theorem retV_bootStage (s : State) (d : VReg) (v : VWord) : (s.retV d v).bootStage = s.bootStage := rfl
@[simp] theorem retV_bootCount (s : State) (d : VReg) (v : VWord) : (s.retV d v).bootCount = s.bootCount := rfl
@[simp] theorem retV_bootDies (s : State) (d : VReg) (v : VWord) : (s.retV d v).bootDies = s.bootDies := rfl
@[simp] theorem retM_now (s : State) (d : MReg) (v : MWord) : (s.retM d v).now = s.now := rfl
@[simp] theorem retM_agenda (s : State) (d : MReg) (v : MWord) : (s.retM d v).agenda = s.agenda := rfl
@[simp] theorem retM_cur (s : State) (d : MReg) (v : MWord) : (s.retM d v).cur = s.cur := rfl
@[simp] theorem retM_arg (s : State) (d : MReg) (v : MWord) : (s.retM d v).arg = s.arg := rfl
@[simp] theorem retM_fresh (s : State) (d : MReg) (v : MWord) : (s.retM d v).fresh = s.fresh := rfl
@[simp] theorem retM_cores (s : State) (d : MReg) (v : MWord) : (s.retM d v).cores = s.cores := rfl
@[simp] theorem retM_chans (s : State) (d : MReg) (v : MWord) : (s.retM d v).chans = s.chans := rfl
@[simp] theorem retM_delays (s : State) (d : MReg) (v : MWord) : (s.retM d v).delays = s.delays := rfl
@[simp] theorem retM_net (s : State) (d : MReg) (v : MWord) : (s.retM d v).net = s.net := rfl
@[simp] theorem retM_mem (s : State) (d : MReg) (v : MWord) : (s.retM d v).mem = s.mem := rfl
@[simp] theorem retM_tags (s : State) (d : MReg) (v : MWord) : (s.retM d v).tags = s.tags := rfl
@[simp] theorem retM_marks (s : State) (d : MReg) (v : MWord) : (s.retM d v).marks = s.marks := rfl
@[simp] theorem retM_made (s : State) (d : MReg) (v : MWord) : (s.retM d v).made = s.made := rfl
@[simp] theorem retM_names (s : State) (d : MReg) (v : MWord) : (s.retM d v).names = s.names := rfl
@[simp] theorem retM_ctxs (s : State) (d : MReg) (v : MWord) : (s.retM d v).ctxs = s.ctxs := rfl
@[simp] theorem retM_fns (s : State) (d : MReg) (v : MWord) : (s.retM d v).fns = s.fns := rfl
@[simp] theorem retM_txns (s : State) (d : MReg) (v : MWord) : (s.retM d v).txns = s.txns := rfl
@[simp] theorem retM_nextTxn (s : State) (d : MReg) (v : MWord) : (s.retM d v).nextTxn = s.nextTxn := rfl
@[simp] theorem retM_nextNode (s : State) (d : MReg) (v : MWord) : (s.retM d v).nextNode = s.nextNode := rfl
@[simp] theorem retM_oldMaps (s : State) (d : MReg) (v : MWord) : (s.retM d v).oldMaps = s.oldMaps := rfl
@[simp] theorem retM_parties (s : State) (d : MReg) (v : MWord) : (s.retM d v).parties = s.parties := rfl
@[simp] theorem retM_nextParty (s : State) (d : MReg) (v : MWord) : (s.retM d v).nextParty = s.nextParty := rfl
@[simp] theorem retM_nextAcc (s : State) (d : MReg) (v : MWord) : (s.retM d v).nextAcc = s.nextAcc := rfl
@[simp] theorem retM_lines (s : State) (d : MReg) (v : MWord) : (s.retM d v).lines = s.lines := rfl
@[simp] theorem retM_vars (s : State) (d : MReg) (v : MWord) : (s.retM d v).vars = s.vars := rfl
@[simp] theorem retM_semCarry (s : State) (d : MReg) (v : MWord) : (s.retM d v).semCarry = s.semCarry := rfl
@[simp] theorem retM_swCarry (s : State) (d : MReg) (v : MWord) : (s.retM d v).swCarry = s.swCarry := rfl
@[simp] theorem retM_joinCarry (s : State) (d : MReg) (v : MWord) : (s.retM d v).joinCarry = s.joinCarry := rfl
@[simp] theorem retM_posted (s : State) (d : MReg) (v : MWord) : (s.retM d v).posted = s.posted := rfl
@[simp] theorem retM_joins (s : State) (d : MReg) (v : MWord) : (s.retM d v).joins = s.joins := rfl
@[simp] theorem retM_semvs (s : State) (d : MReg) (v : MWord) : (s.retM d v).semvs = s.semvs := rfl
@[simp] theorem retM_sems (s : State) (d : MReg) (v : MWord) : (s.retM d v).sems = s.sems := rfl
@[simp] theorem retM_sfu (s : State) (d : MReg) (v : MWord) : (s.retM d v).sfu = s.sfu := rfl
@[simp] theorem retM_copies (s : State) (d : MReg) (v : MWord) : (s.retM d v).copies = s.copies := rfl
@[simp] theorem retM_copyLast (s : State) (d : MReg) (v : MWord) : (s.retM d v).copyLast = s.copyLast := rfl
@[simp] theorem retM_quartos (s : State) (d : MReg) (v : MWord) : (s.retM d v).quartos = s.quartos := rfl
@[simp] theorem retM_port (s : State) (d : MReg) (v : MWord) : (s.retM d v).port = s.port := rfl
@[simp] theorem retM_sheetMem (s : State) (d : MReg) (v : MWord) : (s.retM d v).sheetMem = s.sheetMem := rfl
@[simp] theorem retM_acc (s : State) (d : MReg) (v : MWord) : (s.retM d v).acc = s.acc := rfl
@[simp] theorem retM_launches (s : State) (d : MReg) (v : MWord) : (s.retM d v).launches = s.launches := rfl
@[simp] theorem retM_nextLaunch (s : State) (d : MReg) (v : MWord) : (s.retM d v).nextLaunch = s.nextLaunch := rfl
@[simp] theorem retM_doneMsgs (s : State) (d : MReg) (v : MWord) : (s.retM d v).doneMsgs = s.doneMsgs := rfl
@[simp] theorem retM_lforwards (s : State) (d : MReg) (v : MWord) : (s.retM d v).lforwards = s.lforwards := rfl
@[simp] theorem retM_lastQueue (s : State) (d : MReg) (v : MWord) : (s.retM d v).lastQueue = s.lastQueue := rfl
@[simp] theorem retM_groups (s : State) (d : MReg) (v : MWord) : (s.retM d v).groups = s.groups := rfl
@[simp] theorem retM_slots (s : State) (d : MReg) (v : MWord) : (s.retM d v).slots = s.slots := rfl
@[simp] theorem retM_pushes (s : State) (d : MReg) (v : MWord) : (s.retM d v).pushes = s.pushes := rfl
@[simp] theorem retM_results (s : State) (d : MReg) (v : MWord) : (s.retM d v).results = s.results := rfl
@[simp] theorem retM_portPtr (s : State) (d : MReg) (v : MWord) : (s.retM d v).portPtr = s.portPtr := rfl
@[simp] theorem retM_slotWon (s : State) (d : MReg) (v : MWord) : (s.retM d v).slotWon = s.slotWon := rfl
@[simp] theorem retM_links (s : State) (d : MReg) (v : MWord) : (s.retM d v).links = s.links := rfl
@[simp] theorem retM_mull (s : State) (d : MReg) (v : MWord) : (s.retM d v).mull = s.mull := rfl
@[simp] theorem retM_mullAdds (s : State) (d : MReg) (v : MWord) : (s.retM d v).mullAdds = s.mullAdds := rfl
@[simp] theorem retM_mullX (s : State) (d : MReg) (v : MWord) : (s.retM d v).mullX = s.mullX := rfl
@[simp] theorem retM_mullAcks (s : State) (d : MReg) (v : MWord) : (s.retM d v).mullAcks = s.mullAcks := rfl
@[simp] theorem retM_traces (s : State) (d : MReg) (v : MWord) : (s.retM d v).traces = s.traces := rfl
@[simp] theorem retM_life (s : State) (d : MReg) (v : MWord) : (s.retM d v).life = s.life := rfl
@[simp] theorem retM_unlocked (s : State) (d : MReg) (v : MWord) : (s.retM d v).unlocked = s.unlocked := rfl
@[simp] theorem retM_identityErased (s : State) (d : MReg) (v : MWord) : (s.retM d v).identityErased = s.identityErased := rfl
@[simp] theorem retM_tap (s : State) (d : MReg) (v : MWord) : (s.retM d v).tap = s.tap := rfl
@[simp] theorem retM_frozen (s : State) (d : MReg) (v : MWord) : (s.retM d v).frozen = s.frozen := rfl
@[simp] theorem retM_corrected (s : State) (d : MReg) (v : MWord) : (s.retM d v).corrected = s.corrected := rfl
@[simp] theorem retM_dropped (s : State) (d : MReg) (v : MWord) : (s.retM d v).dropped = s.dropped := rfl
@[simp] theorem retM_afr (s : State) (d : MReg) (v : MWord) : (s.retM d v).afr = s.afr := rfl
@[simp] theorem retM_gate (s : State) (d : MReg) (v : MWord) : (s.retM d v).gate = s.gate := rfl
@[simp] theorem retM_gateNext (s : State) (d : MReg) (v : MWord) : (s.retM d v).gateNext = s.gateNext := rfl
@[simp] theorem retM_mctp (s : State) (d : MReg) (v : MWord) : (s.retM d v).mctp = s.mctp := rfl
@[simp] theorem retM_smvec (s : State) (d : MReg) (v : MWord) : (s.retM d v).smvec = s.smvec := rfl
@[simp] theorem retM_worldctl (s : State) (d : MReg) (v : MWord) : (s.retM d v).worldctl = s.worldctl := rfl
@[simp] theorem retM_worlds (s : State) (d : MReg) (v : MWord) : (s.retM d v).worlds = s.worlds := rfl
@[simp] theorem retM_bootStage (s : State) (d : MReg) (v : MWord) : (s.retM d v).bootStage = s.bootStage := rfl
@[simp] theorem retM_bootCount (s : State) (d : MReg) (v : MWord) : (s.retM d v).bootCount = s.bootCount := rfl
@[simp] theorem retM_bootDies (s : State) (d : MReg) (v : MWord) : (s.retM d v).bootDies = s.bootDies := rfl
@[simp] theorem next_now (s : State) : s.next.now = s.now := rfl
@[simp] theorem next_agenda (s : State) : s.next.agenda = s.agenda := rfl
@[simp] theorem next_cur (s : State) : s.next.cur = s.cur := rfl
@[simp] theorem next_arg (s : State) : s.next.arg = s.arg := rfl
@[simp] theorem next_fresh (s : State) : s.next.fresh = s.fresh := rfl
@[simp] theorem next_cores (s : State) : s.next.cores = s.cores := rfl
@[simp] theorem next_chans (s : State) : s.next.chans = s.chans := rfl
@[simp] theorem next_delays (s : State) : s.next.delays = s.delays := rfl
@[simp] theorem next_net (s : State) : s.next.net = s.net := rfl
@[simp] theorem next_mem (s : State) : s.next.mem = s.mem := rfl
@[simp] theorem next_tags (s : State) : s.next.tags = s.tags := rfl
@[simp] theorem next_marks (s : State) : s.next.marks = s.marks := rfl
@[simp] theorem next_made (s : State) : s.next.made = s.made := rfl
@[simp] theorem next_names (s : State) : s.next.names = s.names := rfl
@[simp] theorem next_ctxs (s : State) : s.next.ctxs = s.ctxs := rfl
@[simp] theorem next_fns (s : State) : s.next.fns = s.fns := rfl
@[simp] theorem next_txns (s : State) : s.next.txns = s.txns := rfl
@[simp] theorem next_nextTxn (s : State) : s.next.nextTxn = s.nextTxn := rfl
@[simp] theorem next_nextNode (s : State) : s.next.nextNode = s.nextNode := rfl
@[simp] theorem next_oldMaps (s : State) : s.next.oldMaps = s.oldMaps := rfl
@[simp] theorem next_parties (s : State) : s.next.parties = s.parties := rfl
@[simp] theorem next_nextParty (s : State) : s.next.nextParty = s.nextParty := rfl
@[simp] theorem next_nextAcc (s : State) : s.next.nextAcc = s.nextAcc := rfl
@[simp] theorem next_lines (s : State) : s.next.lines = s.lines := rfl
@[simp] theorem next_vars (s : State) : s.next.vars = s.vars := rfl
@[simp] theorem next_semCarry (s : State) : s.next.semCarry = s.semCarry := rfl
@[simp] theorem next_swCarry (s : State) : s.next.swCarry = s.swCarry := rfl
@[simp] theorem next_joinCarry (s : State) : s.next.joinCarry = s.joinCarry := rfl
@[simp] theorem next_posted (s : State) : s.next.posted = s.posted := rfl
@[simp] theorem next_joins (s : State) : s.next.joins = s.joins := rfl
@[simp] theorem next_semvs (s : State) : s.next.semvs = s.semvs := rfl
@[simp] theorem next_sems (s : State) : s.next.sems = s.sems := rfl
@[simp] theorem next_sfu (s : State) : s.next.sfu = s.sfu := rfl
@[simp] theorem next_copies (s : State) : s.next.copies = s.copies := rfl
@[simp] theorem next_copyLast (s : State) : s.next.copyLast = s.copyLast := rfl
@[simp] theorem next_quartos (s : State) : s.next.quartos = s.quartos := rfl
@[simp] theorem next_port (s : State) : s.next.port = s.port := rfl
@[simp] theorem next_sheetMem (s : State) : s.next.sheetMem = s.sheetMem := rfl
@[simp] theorem next_acc (s : State) : s.next.acc = s.acc := rfl
@[simp] theorem next_launches (s : State) : s.next.launches = s.launches := rfl
@[simp] theorem next_nextLaunch (s : State) : s.next.nextLaunch = s.nextLaunch := rfl
@[simp] theorem next_doneMsgs (s : State) : s.next.doneMsgs = s.doneMsgs := rfl
@[simp] theorem next_lforwards (s : State) : s.next.lforwards = s.lforwards := rfl
@[simp] theorem next_lastQueue (s : State) : s.next.lastQueue = s.lastQueue := rfl
@[simp] theorem next_groups (s : State) : s.next.groups = s.groups := rfl
@[simp] theorem next_slots (s : State) : s.next.slots = s.slots := rfl
@[simp] theorem next_pushes (s : State) : s.next.pushes = s.pushes := rfl
@[simp] theorem next_results (s : State) : s.next.results = s.results := rfl
@[simp] theorem next_portPtr (s : State) : s.next.portPtr = s.portPtr := rfl
@[simp] theorem next_slotWon (s : State) : s.next.slotWon = s.slotWon := rfl
@[simp] theorem next_links (s : State) : s.next.links = s.links := rfl
@[simp] theorem next_mull (s : State) : s.next.mull = s.mull := rfl
@[simp] theorem next_mullAdds (s : State) : s.next.mullAdds = s.mullAdds := rfl
@[simp] theorem next_mullX (s : State) : s.next.mullX = s.mullX := rfl
@[simp] theorem next_mullAcks (s : State) : s.next.mullAcks = s.mullAcks := rfl
@[simp] theorem next_traces (s : State) : s.next.traces = s.traces := rfl
@[simp] theorem next_life (s : State) : s.next.life = s.life := rfl
@[simp] theorem next_unlocked (s : State) : s.next.unlocked = s.unlocked := rfl
@[simp] theorem next_identityErased (s : State) : s.next.identityErased = s.identityErased := rfl
@[simp] theorem next_tap (s : State) : s.next.tap = s.tap := rfl
@[simp] theorem next_frozen (s : State) : s.next.frozen = s.frozen := rfl
@[simp] theorem next_corrected (s : State) : s.next.corrected = s.corrected := rfl
@[simp] theorem next_dropped (s : State) : s.next.dropped = s.dropped := rfl
@[simp] theorem next_afr (s : State) : s.next.afr = s.afr := rfl
@[simp] theorem next_gate (s : State) : s.next.gate = s.gate := rfl
@[simp] theorem next_gateNext (s : State) : s.next.gateNext = s.gateNext := rfl
@[simp] theorem next_mctp (s : State) : s.next.mctp = s.mctp := rfl
@[simp] theorem next_smvec (s : State) : s.next.smvec = s.smvec := rfl
@[simp] theorem next_worldctl (s : State) : s.next.worldctl = s.worldctl := rfl
@[simp] theorem next_worlds (s : State) : s.next.worlds = s.worlds := rfl
@[simp] theorem next_bootStage (s : State) : s.next.bootStage = s.bootStage := rfl
@[simp] theorem next_bootCount (s : State) : s.next.bootCount = s.bootCount := rfl
@[simp] theorem next_bootDies (s : State) : s.next.bootDies = s.bootDies := rfl

/-! ### Posting a record, and writing memory -/

@[simp] theorem post_now (s : State) (r : Rec) : (s.post r).now = s.now := rfl
@[simp] theorem post_agenda (s : State) (r : Rec) : (s.post r).agenda = s.agenda := rfl
@[simp] theorem post_cur (s : State) (r : Rec) : (s.post r).cur = s.cur := rfl
@[simp] theorem post_arg (s : State) (r : Rec) : (s.post r).arg = s.arg := rfl
@[simp] theorem post_fresh (s : State) (r : Rec) : (s.post r).fresh = s.fresh := rfl
@[simp] theorem post_threads (s : State) (r : Rec) : (s.post r).threads = s.threads := rfl
@[simp] theorem post_cores (s : State) (r : Rec) : (s.post r).cores = s.cores := rfl
@[simp] theorem post_chans (s : State) (r : Rec) : (s.post r).chans = s.chans := rfl
@[simp] theorem post_delays (s : State) (r : Rec) : (s.post r).delays = s.delays := rfl
@[simp] theorem post_mem (s : State) (r : Rec) : (s.post r).mem = s.mem := rfl
@[simp] theorem post_tags (s : State) (r : Rec) : (s.post r).tags = s.tags := rfl
@[simp] theorem post_marks (s : State) (r : Rec) : (s.post r).marks = s.marks := rfl
@[simp] theorem post_made (s : State) (r : Rec) : (s.post r).made = s.made := rfl
@[simp] theorem post_names (s : State) (r : Rec) : (s.post r).names = s.names := rfl
@[simp] theorem post_ctxs (s : State) (r : Rec) : (s.post r).ctxs = s.ctxs := rfl
@[simp] theorem post_fns (s : State) (r : Rec) : (s.post r).fns = s.fns := rfl
@[simp] theorem post_txns (s : State) (r : Rec) : (s.post r).txns = s.txns := rfl
@[simp] theorem post_nextTxn (s : State) (r : Rec) : (s.post r).nextTxn = s.nextTxn := rfl
@[simp] theorem post_nextNode (s : State) (r : Rec) : (s.post r).nextNode = s.nextNode := rfl
@[simp] theorem post_oldMaps (s : State) (r : Rec) : (s.post r).oldMaps = s.oldMaps := rfl
@[simp] theorem post_parties (s : State) (r : Rec) : (s.post r).parties = s.parties := rfl
@[simp] theorem post_nextParty (s : State) (r : Rec) : (s.post r).nextParty = s.nextParty := rfl
@[simp] theorem post_nextAcc (s : State) (r : Rec) : (s.post r).nextAcc = s.nextAcc + 1 := rfl
@[simp] theorem post_lines (s : State) (r : Rec) : (s.post r).lines = s.lines := rfl
@[simp] theorem post_vars (s : State) (r : Rec) : (s.post r).vars = s.vars := rfl
@[simp] theorem post_semCarry (s : State) (r : Rec) : (s.post r).semCarry = s.semCarry := rfl
@[simp] theorem post_swCarry (s : State) (r : Rec) : (s.post r).swCarry = s.swCarry := rfl
@[simp] theorem post_joinCarry (s : State) (r : Rec) : (s.post r).joinCarry = s.joinCarry := rfl
@[simp] theorem post_posted (s : State) (r : Rec) : (s.post r).posted = s.posted := rfl
@[simp] theorem post_joins (s : State) (r : Rec) : (s.post r).joins = s.joins := rfl
@[simp] theorem post_semvs (s : State) (r : Rec) : (s.post r).semvs = s.semvs := rfl
@[simp] theorem post_sems (s : State) (r : Rec) : (s.post r).sems = s.sems := rfl
@[simp] theorem post_sfu (s : State) (r : Rec) : (s.post r).sfu = s.sfu := rfl
@[simp] theorem post_copies (s : State) (r : Rec) : (s.post r).copies = s.copies := rfl
@[simp] theorem post_copyLast (s : State) (r : Rec) : (s.post r).copyLast = s.copyLast := rfl
@[simp] theorem post_quartos (s : State) (r : Rec) : (s.post r).quartos = s.quartos := rfl
@[simp] theorem post_port (s : State) (r : Rec) : (s.post r).port = s.port := rfl
@[simp] theorem post_sheetMem (s : State) (r : Rec) : (s.post r).sheetMem = s.sheetMem := rfl
@[simp] theorem post_acc (s : State) (r : Rec) : (s.post r).acc = s.acc := rfl
@[simp] theorem post_launches (s : State) (r : Rec) : (s.post r).launches = s.launches := rfl
@[simp] theorem post_nextLaunch (s : State) (r : Rec) : (s.post r).nextLaunch = s.nextLaunch := rfl
@[simp] theorem post_doneMsgs (s : State) (r : Rec) : (s.post r).doneMsgs = s.doneMsgs := rfl
@[simp] theorem post_lforwards (s : State) (r : Rec) : (s.post r).lforwards = s.lforwards := rfl
@[simp] theorem post_lastQueue (s : State) (r : Rec) : (s.post r).lastQueue = s.lastQueue := rfl
@[simp] theorem post_groups (s : State) (r : Rec) : (s.post r).groups = s.groups := rfl
@[simp] theorem post_slots (s : State) (r : Rec) : (s.post r).slots = s.slots := rfl
@[simp] theorem post_pushes (s : State) (r : Rec) : (s.post r).pushes = s.pushes := rfl
@[simp] theorem post_results (s : State) (r : Rec) : (s.post r).results = s.results := rfl
@[simp] theorem post_portPtr (s : State) (r : Rec) : (s.post r).portPtr = s.portPtr := rfl
@[simp] theorem post_slotWon (s : State) (r : Rec) : (s.post r).slotWon = s.slotWon := rfl
@[simp] theorem post_links (s : State) (r : Rec) : (s.post r).links = s.links := rfl
@[simp] theorem post_mull (s : State) (r : Rec) : (s.post r).mull = s.mull := rfl
@[simp] theorem post_mullAdds (s : State) (r : Rec) : (s.post r).mullAdds = s.mullAdds := rfl
@[simp] theorem post_mullX (s : State) (r : Rec) : (s.post r).mullX = s.mullX := rfl
@[simp] theorem post_mullAcks (s : State) (r : Rec) : (s.post r).mullAcks = s.mullAcks := rfl
@[simp] theorem post_traces (s : State) (r : Rec) : (s.post r).traces = s.traces := rfl
@[simp] theorem post_life (s : State) (r : Rec) : (s.post r).life = s.life := rfl
@[simp] theorem post_unlocked (s : State) (r : Rec) : (s.post r).unlocked = s.unlocked := rfl
@[simp] theorem post_identityErased (s : State) (r : Rec) : (s.post r).identityErased = s.identityErased := rfl
@[simp] theorem post_tap (s : State) (r : Rec) : (s.post r).tap = s.tap := rfl
@[simp] theorem post_frozen (s : State) (r : Rec) : (s.post r).frozen = s.frozen := rfl
@[simp] theorem post_corrected (s : State) (r : Rec) : (s.post r).corrected = s.corrected := rfl
@[simp] theorem post_dropped (s : State) (r : Rec) : (s.post r).dropped = s.dropped := rfl
@[simp] theorem post_afr (s : State) (r : Rec) : (s.post r).afr = s.afr := rfl
@[simp] theorem post_gate (s : State) (r : Rec) : (s.post r).gate = s.gate := rfl
@[simp] theorem post_gateNext (s : State) (r : Rec) : (s.post r).gateNext = s.gateNext := rfl
@[simp] theorem post_mctp (s : State) (r : Rec) : (s.post r).mctp = s.mctp := rfl
@[simp] theorem post_smvec (s : State) (r : Rec) : (s.post r).smvec = s.smvec := rfl
@[simp] theorem post_worldctl (s : State) (r : Rec) : (s.post r).worldctl = s.worldctl := rfl
@[simp] theorem post_worlds (s : State) (r : Rec) : (s.post r).worlds = s.worlds := rfl
@[simp] theorem post_bootStage (s : State) (r : Rec) : (s.post r).bootStage = s.bootStage := rfl
@[simp] theorem post_bootCount (s : State) (r : Rec) : (s.post r).bootCount = s.bootCount := rfl
@[simp] theorem post_bootDies (s : State) (r : Rec) : (s.post r).bootDies = s.bootDies := rfl
@[simp] theorem post_net (s : State) (r : Rec) :
    (s.post r).net = s.net ++ [{ r with flit := if r.flit = 0 then s.nextAcc else r.flit }] := rfl
@[simp] theorem poke_now (s : State) (a : Nat) (bs : List Byte) : (s.poke a bs).now = s.now := by unfold State.poke; split <;> rfl
@[simp] theorem wipe_now (s : State) (a n : Nat) : (s.wipe a n).now = s.now := rfl
@[simp] theorem poke_agenda (s : State) (a : Nat) (bs : List Byte) : (s.poke a bs).agenda = s.agenda := by unfold State.poke; split <;> rfl
@[simp] theorem wipe_agenda (s : State) (a n : Nat) : (s.wipe a n).agenda = s.agenda := rfl
@[simp] theorem poke_cur (s : State) (a : Nat) (bs : List Byte) : (s.poke a bs).cur = s.cur := by unfold State.poke; split <;> rfl
@[simp] theorem wipe_cur (s : State) (a n : Nat) : (s.wipe a n).cur = s.cur := rfl
@[simp] theorem poke_arg (s : State) (a : Nat) (bs : List Byte) : (s.poke a bs).arg = s.arg := by unfold State.poke; split <;> rfl
@[simp] theorem wipe_arg (s : State) (a n : Nat) : (s.wipe a n).arg = s.arg := rfl
@[simp] theorem poke_fresh (s : State) (a : Nat) (bs : List Byte) : (s.poke a bs).fresh = s.fresh := by unfold State.poke; split <;> rfl
@[simp] theorem wipe_fresh (s : State) (a n : Nat) : (s.wipe a n).fresh = s.fresh := rfl
@[simp] theorem poke_threads (s : State) (a : Nat) (bs : List Byte) : (s.poke a bs).threads = s.threads := by unfold State.poke; split <;> rfl
@[simp] theorem wipe_threads (s : State) (a n : Nat) : (s.wipe a n).threads = s.threads := rfl
@[simp] theorem poke_cores (s : State) (a : Nat) (bs : List Byte) : (s.poke a bs).cores = s.cores := by unfold State.poke; split <;> rfl
@[simp] theorem wipe_cores (s : State) (a n : Nat) : (s.wipe a n).cores = s.cores := rfl
@[simp] theorem poke_chans (s : State) (a : Nat) (bs : List Byte) : (s.poke a bs).chans = s.chans := by unfold State.poke; split <;> rfl
@[simp] theorem wipe_chans (s : State) (a n : Nat) : (s.wipe a n).chans = s.chans := rfl
@[simp] theorem poke_delays (s : State) (a : Nat) (bs : List Byte) : (s.poke a bs).delays = s.delays := by unfold State.poke; split <;> rfl
@[simp] theorem wipe_delays (s : State) (a n : Nat) : (s.wipe a n).delays = s.delays := rfl
@[simp] theorem poke_net (s : State) (a : Nat) (bs : List Byte) : (s.poke a bs).net = s.net := by unfold State.poke; split <;> rfl
@[simp] theorem wipe_net (s : State) (a n : Nat) : (s.wipe a n).net = s.net := rfl
@[simp] theorem poke_made (s : State) (a : Nat) (bs : List Byte) : (s.poke a bs).made = s.made := by unfold State.poke; split <;> rfl
@[simp] theorem wipe_made (s : State) (a n : Nat) : (s.wipe a n).made = s.made := rfl
@[simp] theorem poke_names (s : State) (a : Nat) (bs : List Byte) : (s.poke a bs).names = s.names := by unfold State.poke; split <;> rfl
@[simp] theorem wipe_names (s : State) (a n : Nat) : (s.wipe a n).names = s.names := rfl
@[simp] theorem poke_ctxs (s : State) (a : Nat) (bs : List Byte) : (s.poke a bs).ctxs = s.ctxs := by unfold State.poke; split <;> rfl
@[simp] theorem wipe_ctxs (s : State) (a n : Nat) : (s.wipe a n).ctxs = s.ctxs := rfl
@[simp] theorem poke_fns (s : State) (a : Nat) (bs : List Byte) : (s.poke a bs).fns = s.fns := by unfold State.poke; split <;> rfl
@[simp] theorem wipe_fns (s : State) (a n : Nat) : (s.wipe a n).fns = s.fns := rfl
@[simp] theorem poke_txns (s : State) (a : Nat) (bs : List Byte) : (s.poke a bs).txns = s.txns := by unfold State.poke; split <;> rfl
@[simp] theorem wipe_txns (s : State) (a n : Nat) : (s.wipe a n).txns = s.txns := rfl
@[simp] theorem poke_nextTxn (s : State) (a : Nat) (bs : List Byte) : (s.poke a bs).nextTxn = s.nextTxn := by unfold State.poke; split <;> rfl
@[simp] theorem wipe_nextTxn (s : State) (a n : Nat) : (s.wipe a n).nextTxn = s.nextTxn := rfl
@[simp] theorem poke_nextNode (s : State) (a : Nat) (bs : List Byte) : (s.poke a bs).nextNode = s.nextNode := by unfold State.poke; split <;> rfl
@[simp] theorem wipe_nextNode (s : State) (a n : Nat) : (s.wipe a n).nextNode = s.nextNode := rfl
@[simp] theorem poke_oldMaps (s : State) (a : Nat) (bs : List Byte) : (s.poke a bs).oldMaps = s.oldMaps := by unfold State.poke; split <;> rfl
@[simp] theorem wipe_oldMaps (s : State) (a n : Nat) : (s.wipe a n).oldMaps = s.oldMaps := rfl
@[simp] theorem poke_parties (s : State) (a : Nat) (bs : List Byte) : (s.poke a bs).parties = s.parties := by unfold State.poke; split <;> rfl
@[simp] theorem wipe_parties (s : State) (a n : Nat) : (s.wipe a n).parties = s.parties := rfl
@[simp] theorem poke_nextParty (s : State) (a : Nat) (bs : List Byte) : (s.poke a bs).nextParty = s.nextParty := by unfold State.poke; split <;> rfl
@[simp] theorem wipe_nextParty (s : State) (a n : Nat) : (s.wipe a n).nextParty = s.nextParty := rfl
@[simp] theorem poke_nextAcc (s : State) (a : Nat) (bs : List Byte) : (s.poke a bs).nextAcc = s.nextAcc := by unfold State.poke; split <;> rfl
@[simp] theorem wipe_nextAcc (s : State) (a n : Nat) : (s.wipe a n).nextAcc = s.nextAcc := rfl
@[simp] theorem poke_lines (s : State) (a : Nat) (bs : List Byte) : (s.poke a bs).lines = s.lines := by unfold State.poke; split <;> rfl
@[simp] theorem wipe_lines (s : State) (a n : Nat) : (s.wipe a n).lines = s.lines := rfl
@[simp] theorem poke_vars (s : State) (a : Nat) (bs : List Byte) : (s.poke a bs).vars = s.vars := by unfold State.poke; split <;> rfl
@[simp] theorem wipe_vars (s : State) (a n : Nat) : (s.wipe a n).vars = s.vars := rfl
@[simp] theorem poke_semCarry (s : State) (a : Nat) (bs : List Byte) : (s.poke a bs).semCarry = s.semCarry := by unfold State.poke; split <;> rfl
@[simp] theorem wipe_semCarry (s : State) (a n : Nat) : (s.wipe a n).semCarry = s.semCarry := rfl
@[simp] theorem poke_swCarry (s : State) (a : Nat) (bs : List Byte) : (s.poke a bs).swCarry = s.swCarry := by unfold State.poke; split <;> rfl
@[simp] theorem wipe_swCarry (s : State) (a n : Nat) : (s.wipe a n).swCarry = s.swCarry := rfl
@[simp] theorem poke_joinCarry (s : State) (a : Nat) (bs : List Byte) : (s.poke a bs).joinCarry = s.joinCarry := by unfold State.poke; split <;> rfl
@[simp] theorem wipe_joinCarry (s : State) (a n : Nat) : (s.wipe a n).joinCarry = s.joinCarry := rfl
@[simp] theorem poke_posted (s : State) (a : Nat) (bs : List Byte) : (s.poke a bs).posted = s.posted := by unfold State.poke; split <;> rfl
@[simp] theorem wipe_posted (s : State) (a n : Nat) : (s.wipe a n).posted = s.posted := rfl
@[simp] theorem poke_joins (s : State) (a : Nat) (bs : List Byte) : (s.poke a bs).joins = s.joins := by unfold State.poke; split <;> rfl
@[simp] theorem wipe_joins (s : State) (a n : Nat) : (s.wipe a n).joins = s.joins := rfl
@[simp] theorem poke_semvs (s : State) (a : Nat) (bs : List Byte) : (s.poke a bs).semvs = s.semvs := by unfold State.poke; split <;> rfl
@[simp] theorem wipe_semvs (s : State) (a n : Nat) : (s.wipe a n).semvs = s.semvs := rfl
@[simp] theorem poke_sems (s : State) (a : Nat) (bs : List Byte) : (s.poke a bs).sems = s.sems := by unfold State.poke; split <;> rfl
@[simp] theorem wipe_sems (s : State) (a n : Nat) : (s.wipe a n).sems = s.sems := rfl
@[simp] theorem poke_sfu (s : State) (a : Nat) (bs : List Byte) : (s.poke a bs).sfu = s.sfu := by unfold State.poke; split <;> rfl
@[simp] theorem wipe_sfu (s : State) (a n : Nat) : (s.wipe a n).sfu = s.sfu := rfl
@[simp] theorem poke_copies (s : State) (a : Nat) (bs : List Byte) : (s.poke a bs).copies = s.copies := by unfold State.poke; split <;> rfl
@[simp] theorem wipe_copies (s : State) (a n : Nat) : (s.wipe a n).copies = s.copies := rfl
@[simp] theorem poke_copyLast (s : State) (a : Nat) (bs : List Byte) : (s.poke a bs).copyLast = s.copyLast := by unfold State.poke; split <;> rfl
@[simp] theorem wipe_copyLast (s : State) (a n : Nat) : (s.wipe a n).copyLast = s.copyLast := rfl
@[simp] theorem poke_quartos (s : State) (a : Nat) (bs : List Byte) : (s.poke a bs).quartos = s.quartos := by unfold State.poke; split <;> rfl
@[simp] theorem wipe_quartos (s : State) (a n : Nat) : (s.wipe a n).quartos = s.quartos := rfl
@[simp] theorem poke_port (s : State) (a : Nat) (bs : List Byte) : (s.poke a bs).port = s.port := by unfold State.poke; split <;> rfl
@[simp] theorem wipe_port (s : State) (a n : Nat) : (s.wipe a n).port = s.port := rfl
@[simp] theorem poke_sheetMem (s : State) (a : Nat) (bs : List Byte) : (s.poke a bs).sheetMem = s.sheetMem := by unfold State.poke; split <;> rfl
@[simp] theorem wipe_sheetMem (s : State) (a n : Nat) : (s.wipe a n).sheetMem = s.sheetMem := rfl
@[simp] theorem poke_acc (s : State) (a : Nat) (bs : List Byte) : (s.poke a bs).acc = s.acc := by unfold State.poke; split <;> rfl
@[simp] theorem wipe_acc (s : State) (a n : Nat) : (s.wipe a n).acc = s.acc := rfl
@[simp] theorem poke_launches (s : State) (a : Nat) (bs : List Byte) : (s.poke a bs).launches = s.launches := by unfold State.poke; split <;> rfl
@[simp] theorem wipe_launches (s : State) (a n : Nat) : (s.wipe a n).launches = s.launches := rfl
@[simp] theorem poke_nextLaunch (s : State) (a : Nat) (bs : List Byte) : (s.poke a bs).nextLaunch = s.nextLaunch := by unfold State.poke; split <;> rfl
@[simp] theorem wipe_nextLaunch (s : State) (a n : Nat) : (s.wipe a n).nextLaunch = s.nextLaunch := rfl
@[simp] theorem poke_doneMsgs (s : State) (a : Nat) (bs : List Byte) : (s.poke a bs).doneMsgs = s.doneMsgs := by unfold State.poke; split <;> rfl
@[simp] theorem wipe_doneMsgs (s : State) (a n : Nat) : (s.wipe a n).doneMsgs = s.doneMsgs := rfl
@[simp] theorem poke_lforwards (s : State) (a : Nat) (bs : List Byte) : (s.poke a bs).lforwards = s.lforwards := by unfold State.poke; split <;> rfl
@[simp] theorem wipe_lforwards (s : State) (a n : Nat) : (s.wipe a n).lforwards = s.lforwards := rfl
@[simp] theorem poke_lastQueue (s : State) (a : Nat) (bs : List Byte) : (s.poke a bs).lastQueue = s.lastQueue := by unfold State.poke; split <;> rfl
@[simp] theorem wipe_lastQueue (s : State) (a n : Nat) : (s.wipe a n).lastQueue = s.lastQueue := rfl
@[simp] theorem poke_groups (s : State) (a : Nat) (bs : List Byte) : (s.poke a bs).groups = s.groups := by unfold State.poke; split <;> rfl
@[simp] theorem wipe_groups (s : State) (a n : Nat) : (s.wipe a n).groups = s.groups := rfl
@[simp] theorem poke_slots (s : State) (a : Nat) (bs : List Byte) : (s.poke a bs).slots = s.slots := by unfold State.poke; split <;> rfl
@[simp] theorem wipe_slots (s : State) (a n : Nat) : (s.wipe a n).slots = s.slots := rfl
@[simp] theorem poke_pushes (s : State) (a : Nat) (bs : List Byte) : (s.poke a bs).pushes = s.pushes := by unfold State.poke; split <;> rfl
@[simp] theorem wipe_pushes (s : State) (a n : Nat) : (s.wipe a n).pushes = s.pushes := rfl
@[simp] theorem poke_results (s : State) (a : Nat) (bs : List Byte) : (s.poke a bs).results = s.results := by unfold State.poke; split <;> rfl
@[simp] theorem wipe_results (s : State) (a n : Nat) : (s.wipe a n).results = s.results := rfl
@[simp] theorem poke_portPtr (s : State) (a : Nat) (bs : List Byte) : (s.poke a bs).portPtr = s.portPtr := by unfold State.poke; split <;> rfl
@[simp] theorem wipe_portPtr (s : State) (a n : Nat) : (s.wipe a n).portPtr = s.portPtr := rfl
@[simp] theorem poke_slotWon (s : State) (a : Nat) (bs : List Byte) : (s.poke a bs).slotWon = s.slotWon := by unfold State.poke; split <;> rfl
@[simp] theorem wipe_slotWon (s : State) (a n : Nat) : (s.wipe a n).slotWon = s.slotWon := rfl
@[simp] theorem poke_links (s : State) (a : Nat) (bs : List Byte) : (s.poke a bs).links = s.links := by unfold State.poke; split <;> rfl
@[simp] theorem wipe_links (s : State) (a n : Nat) : (s.wipe a n).links = s.links := rfl
@[simp] theorem poke_mull (s : State) (a : Nat) (bs : List Byte) : (s.poke a bs).mull = s.mull := by unfold State.poke; split <;> rfl
@[simp] theorem wipe_mull (s : State) (a n : Nat) : (s.wipe a n).mull = s.mull := rfl
@[simp] theorem poke_mullAdds (s : State) (a : Nat) (bs : List Byte) : (s.poke a bs).mullAdds = s.mullAdds := by unfold State.poke; split <;> rfl
@[simp] theorem wipe_mullAdds (s : State) (a n : Nat) : (s.wipe a n).mullAdds = s.mullAdds := rfl
@[simp] theorem poke_mullX (s : State) (a : Nat) (bs : List Byte) : (s.poke a bs).mullX = s.mullX := by unfold State.poke; split <;> rfl
@[simp] theorem wipe_mullX (s : State) (a n : Nat) : (s.wipe a n).mullX = s.mullX := rfl
@[simp] theorem poke_mullAcks (s : State) (a : Nat) (bs : List Byte) : (s.poke a bs).mullAcks = s.mullAcks := by unfold State.poke; split <;> rfl
@[simp] theorem wipe_mullAcks (s : State) (a n : Nat) : (s.wipe a n).mullAcks = s.mullAcks := rfl
@[simp] theorem poke_traces (s : State) (a : Nat) (bs : List Byte) : (s.poke a bs).traces = s.traces := by unfold State.poke; split <;> rfl
@[simp] theorem wipe_traces (s : State) (a n : Nat) : (s.wipe a n).traces = s.traces := rfl
@[simp] theorem poke_life (s : State) (a : Nat) (bs : List Byte) : (s.poke a bs).life = s.life := by unfold State.poke; split <;> rfl
@[simp] theorem wipe_life (s : State) (a n : Nat) : (s.wipe a n).life = s.life := rfl
@[simp] theorem poke_unlocked (s : State) (a : Nat) (bs : List Byte) : (s.poke a bs).unlocked = s.unlocked := by unfold State.poke; split <;> rfl
@[simp] theorem wipe_unlocked (s : State) (a n : Nat) : (s.wipe a n).unlocked = s.unlocked := rfl
@[simp] theorem poke_identityErased (s : State) (a : Nat) (bs : List Byte) : (s.poke a bs).identityErased = s.identityErased := by unfold State.poke; split <;> rfl
@[simp] theorem wipe_identityErased (s : State) (a n : Nat) : (s.wipe a n).identityErased = s.identityErased := rfl
@[simp] theorem poke_tap (s : State) (a : Nat) (bs : List Byte) : (s.poke a bs).tap = s.tap := by unfold State.poke; split <;> rfl
@[simp] theorem wipe_tap (s : State) (a n : Nat) : (s.wipe a n).tap = s.tap := rfl
@[simp] theorem poke_frozen (s : State) (a : Nat) (bs : List Byte) : (s.poke a bs).frozen = s.frozen := by unfold State.poke; split <;> rfl
@[simp] theorem wipe_frozen (s : State) (a n : Nat) : (s.wipe a n).frozen = s.frozen := rfl
@[simp] theorem poke_corrected (s : State) (a : Nat) (bs : List Byte) : (s.poke a bs).corrected = s.corrected := by unfold State.poke; split <;> rfl
@[simp] theorem wipe_corrected (s : State) (a n : Nat) : (s.wipe a n).corrected = s.corrected := rfl
@[simp] theorem poke_dropped (s : State) (a : Nat) (bs : List Byte) : (s.poke a bs).dropped = s.dropped := by unfold State.poke; split <;> rfl
@[simp] theorem wipe_dropped (s : State) (a n : Nat) : (s.wipe a n).dropped = s.dropped := rfl
@[simp] theorem poke_afr (s : State) (a : Nat) (bs : List Byte) : (s.poke a bs).afr = s.afr := by unfold State.poke; split <;> rfl
@[simp] theorem wipe_afr (s : State) (a n : Nat) : (s.wipe a n).afr = s.afr := rfl
@[simp] theorem poke_gate (s : State) (a : Nat) (bs : List Byte) : (s.poke a bs).gate = s.gate := by unfold State.poke; split <;> rfl
@[simp] theorem wipe_gate (s : State) (a n : Nat) : (s.wipe a n).gate = s.gate := rfl
@[simp] theorem poke_gateNext (s : State) (a : Nat) (bs : List Byte) : (s.poke a bs).gateNext = s.gateNext := by unfold State.poke; split <;> rfl
@[simp] theorem wipe_gateNext (s : State) (a n : Nat) : (s.wipe a n).gateNext = s.gateNext := rfl
@[simp] theorem poke_mctp (s : State) (a : Nat) (bs : List Byte) : (s.poke a bs).mctp = s.mctp := by unfold State.poke; split <;> rfl
@[simp] theorem wipe_mctp (s : State) (a n : Nat) : (s.wipe a n).mctp = s.mctp := rfl
@[simp] theorem poke_smvec (s : State) (a : Nat) (bs : List Byte) : (s.poke a bs).smvec = s.smvec := by unfold State.poke; split <;> rfl
@[simp] theorem wipe_smvec (s : State) (a n : Nat) : (s.wipe a n).smvec = s.smvec := rfl
@[simp] theorem poke_worldctl (s : State) (a : Nat) (bs : List Byte) : (s.poke a bs).worldctl = s.worldctl := by unfold State.poke; split <;> rfl
@[simp] theorem wipe_worldctl (s : State) (a n : Nat) : (s.wipe a n).worldctl = s.worldctl := rfl
@[simp] theorem poke_worlds (s : State) (a : Nat) (bs : List Byte) : (s.poke a bs).worlds = s.worlds := by unfold State.poke; split <;> rfl
@[simp] theorem wipe_worlds (s : State) (a n : Nat) : (s.wipe a n).worlds = s.worlds := rfl
@[simp] theorem poke_bootStage (s : State) (a : Nat) (bs : List Byte) : (s.poke a bs).bootStage = s.bootStage := by unfold State.poke; split <;> rfl
@[simp] theorem wipe_bootStage (s : State) (a n : Nat) : (s.wipe a n).bootStage = s.bootStage := rfl
@[simp] theorem poke_bootCount (s : State) (a : Nat) (bs : List Byte) : (s.poke a bs).bootCount = s.bootCount := by unfold State.poke; split <;> rfl
@[simp] theorem wipe_bootCount (s : State) (a n : Nat) : (s.wipe a n).bootCount = s.bootCount := rfl
@[simp] theorem poke_bootDies (s : State) (a : Nat) (bs : List Byte) : (s.poke a bs).bootDies = s.bootDies := by unfold State.poke; split <;> rfl
@[simp] theorem wipe_bootDies (s : State) (a n : Nat) : (s.wipe a n).bootDies = s.bootDies := rfl

end Sys2Proof.Machine
end

