-- ==== Sys2Proof/Laws/Registers.lean ====
section
/-! SUPPORT. Laws of the register files: what a read gives after a write, and what a write leaves alone (R106). -/

namespace Sys2Proof.Machine

/-! ### Reads after writes -/

@[simp] theorem rdG_zero (t : Thread) : t.rdG 0 = 0 := rfl
@[simp] theorem rdM_zero (t : Thread) : t.rdM 0 = BitVec.allOnes 256 := rfl
@[simp] theorem wrG_zero (t : Thread) (v : Word) : t.wrG 0 v = t := rfl
@[simp] theorem wrM_zero (t : Thread) (v : MWord) : t.wrM 0 v = t := rfl

theorem rdG_wrG_self (t : Thread) {d : GReg} (v : Word) (h : d ≠ 0) : (t.wrG d v).rdG d = v := by
  unfold Thread.wrG Thread.rdG
  rw [if_neg h, if_neg h]
  exact tget_tset_self ..

@[simp] theorem rdG_wrG_of_ne (t : Thread) {d x : GReg} (v : Word) (h : x ≠ d) : (t.wrG d v).rdG x = t.rdG x := by
  have hn : x.toNat ≠ d.toNat := fun e => h (BitVec.eq_of_toNat_eq e)
  unfold Thread.wrG Thread.rdG
  by_cases hx : x = 0
  · rw [if_pos hx, if_pos hx]
  · rw [if_neg hx, if_neg hx]
    split
    · rfl
    · exact tget_tset_of_ne _ _ hn

@[simp] theorem rdB_wrB_self (t : Thread) (d : BReg) (p : Ptr) : (t.wrB d p).rdB d = p := by simp [Thread.rdB, Thread.wrB]

@[simp] theorem rdB_wrB_of_ne (t : Thread) {d x : BReg} (p : Ptr) (h : x ≠ d) : (t.wrB d p).rdB x = t.rdB x := by
  have hn : x.toNat ≠ d.toNat := fun e => h (BitVec.eq_of_toNat_eq e)
  simp [Thread.rdB, Thread.wrB, tget_tset_of_ne, hn]

@[simp] theorem rdV_wrV_self (t : Thread) (d : VReg) (v : VWord) : (t.wrV d v).rdV d = v := by simp [Thread.rdV, Thread.wrV]

@[simp] theorem rdV_wrV_of_ne (t : Thread) {d x : VReg} (v : VWord) (h : x ≠ d) : (t.wrV d v).rdV x = t.rdV x := by
  have hn : x.toNat ≠ d.toNat := fun e => h (BitVec.eq_of_toNat_eq e)
  simp [Thread.rdV, Thread.wrV, tget_tset_of_ne, hn]

theorem rdM_wrM_self (t : Thread) {d : MReg} (v : MWord) (h : d ≠ 0) : (t.wrM d v).rdM d = v := by
  unfold Thread.wrM Thread.rdM
  rw [if_neg h, if_neg h]
  exact tget_tset_self ..

@[simp] theorem rdM_wrM_of_ne (t : Thread) {d x : MReg} (v : MWord) (h : x ≠ d) : (t.wrM d v).rdM x = t.rdM x := by
  have hn : x.toNat ≠ d.toNat := fun e => h (BitVec.eq_of_toNat_eq e)
  unfold Thread.wrM Thread.rdM
  by_cases hx : x = 0
  · rw [if_pos hx, if_pos hx]
  · rw [if_neg hx, if_neg hx]
    split
    · rfl
    · exact tget_tset_of_ne _ _ hn

@[simp] theorem rdQ_wrQ_self (t : Thread) (d : BitVec 4) (q : QReg) : (t.wrQ d q).rdQ d = q := by simp [Thread.rdQ, Thread.wrQ]

/-! ### What a write leaves alone -/

@[simp] theorem wrG_stat (t : Thread) (d : GReg) (x : Word) : (t.wrG d x).stat = t.stat := by unfold Thread.wrG; split <;> rfl
@[simp] theorem wrG_ctx (t : Thread) (d : GReg) (x : Word) : (t.wrG d x).ctx = t.ctx := by unfold Thread.wrG; split <;> rfl
@[simp] theorem wrG_lcore (t : Thread) (d : GReg) (x : Word) : (t.wrG d x).lcore = t.lcore := by unfold Thread.wrG; split <;> rfl
@[simp] theorem wrG_hidx (t : Thread) (d : GReg) (x : Word) : (t.wrG d x).hidx = t.hidx := by unfold Thread.wrG; split <;> rfl
@[simp] theorem wrG_pc (t : Thread) (d : GReg) (x : Word) : (t.wrG d x).pc = t.pc := by unfold Thread.wrG; split <;> rfl
@[simp] theorem wrG_code (t : Thread) (d : GReg) (x : Word) : (t.wrG d x).code = t.code := by unfold Thread.wrG; split <;> rfl
@[simp] theorem wrG_codeGen (t : Thread) (d : GReg) (x : Word) : (t.wrG d x).codeGen = t.codeGen := by unfold Thread.wrG; split <;> rfl
@[simp] theorem wrG_codeH (t : Thread) (d : GReg) (x : Word) : (t.wrG d x).codeH = t.codeH := by unfold Thread.wrG; split <;> rfl
@[simp] theorem wrG_entry (t : Thread) (d : GReg) (x : Word) : (t.wrG d x).entry = t.entry := by unfold Thread.wrG; split <;> rfl
@[simp] theorem wrG_b (t : Thread) (d : GReg) (x : Word) : (t.wrG d x).b = t.b := by unfold Thread.wrG; split <;> rfl
@[simp] theorem wrG_v (t : Thread) (d : GReg) (x : Word) : (t.wrG d x).v = t.v := by unfold Thread.wrG; split <;> rfl
@[simp] theorem wrG_m (t : Thread) (d : GReg) (x : Word) : (t.wrG d x).m = t.m := by unfold Thread.wrG; split <;> rfl
@[simp] theorem wrG_q (t : Thread) (d : GReg) (x : Word) : (t.wrG d x).q = t.q := by unfold Thread.wrG; split <;> rfl
@[simp] theorem wrG_actinfo (t : Thread) (d : GReg) (x : Word) : (t.wrG d x).actinfo = t.actinfo := by unfold Thread.wrG; split <;> rfl
@[simp] theorem wrG_actstart (t : Thread) (d : GReg) (x : Word) : (t.wrG d x).actstart = t.actstart := by unfold Thread.wrG; split <;> rfl
@[simp] theorem wrG_fpflags (t : Thread) (d : GReg) (x : Word) : (t.wrG d x).fpflags = t.fpflags := by unfold Thread.wrG; split <;> rfl
@[simp] theorem wrG_rmode (t : Thread) (d : GReg) (x : Word) : (t.wrG d x).rmode = t.rmode := by unfold Thread.wrG; split <;> rfl
@[simp] theorem wrG_tcause (t : Thread) (d : GReg) (x : Word) : (t.wrG d x).tcause = t.tcause := by unfold Thread.wrG; split <;> rfl
@[simp] theorem wrG_taddr (t : Thread) (d : GReg) (x : Word) : (t.wrG d x).taddr = t.taddr := by unfold Thread.wrG; split <;> rfl
@[simp] theorem wrG_tepc (t : Thread) (d : GReg) (x : Word) : (t.wrG d x).tepc = t.tepc := by unfold Thread.wrG; split <;> rfl
@[simp] theorem wrG_tinfo (t : Thread) (d : GReg) (x : Word) : (t.wrG d x).tinfo = t.tinfo := by unfold Thread.wrG; split <;> rfl
@[simp] theorem wrG_xferid (t : Thread) (d : GReg) (x : Word) : (t.wrG d x).xferid = t.xferid := by unfold Thread.wrG; split <;> rfl
@[simp] theorem wrG_invec (t : Thread) (d : GReg) (x : Word) : (t.wrG d x).invec = t.invec := by unfold Thread.wrG; split <;> rfl
@[simp] theorem wrG_routine (t : Thread) (d : GReg) (x : Word) : (t.wrG d x).routine = t.routine := by unfold Thread.wrG; split <;> rfl
@[simp] theorem wrG_wdEnd (t : Thread) (d : GReg) (x : Word) : (t.wrG d x).wdEnd = t.wdEnd := by unfold Thread.wrG; split <;> rfl
@[simp] theorem wrG_payload (t : Thread) (d : GReg) (x : Word) : (t.wrG d x).payload = t.payload := by unfold Thread.wrG; split <;> rfl
@[simp] theorem wrG_chan (t : Thread) (d : GReg) (x : Word) : (t.wrG d x).chan = t.chan := by unfold Thread.wrG; split <;> rfl
@[simp] theorem wrG_isMsg (t : Thread) (d : GReg) (x : Word) : (t.wrG d x).isMsg = t.isMsg := by unfold Thread.wrG; split <;> rfl
@[simp] theorem wrG_eff (t : Thread) (d : GReg) (x : Word) : (t.wrG d x).eff = t.eff := by unfold Thread.wrG; split <;> rfl
@[simp] theorem wrG_boost (t : Thread) (d : GReg) (x : Word) : (t.wrG d x).boost = t.boost := by unfold Thread.wrG; split <;> rfl
@[simp] theorem wrG_launch (t : Thread) (d : GReg) (x : Word) : (t.wrG d x).launch = t.launch := by unfold Thread.wrG; split <;> rfl
@[simp] theorem wrG_party (t : Thread) (d : GReg) (x : Word) : (t.wrG d x).party = t.party := by unfold Thread.wrG; split <;> rfl
@[simp] theorem wrG_key (t : Thread) (d : GReg) (x : Word) : (t.wrG d x).key = t.key := by unfold Thread.wrG; split <;> rfl
@[simp] theorem wrG_sendTs (t : Thread) (d : GReg) (x : Word) : (t.wrG d x).sendTs = t.sendTs := by unfold Thread.wrG; split <;> rfl
@[simp] theorem wrG_arrTs (t : Thread) (d : GReg) (x : Word) : (t.wrG d x).arrTs = t.arrTs := by unfold Thread.wrG; split <;> rfl
@[simp] theorem wrB_stat (t : Thread) (d : BReg) (x : Ptr) : (t.wrB d x).stat = t.stat := rfl
@[simp] theorem wrB_ctx (t : Thread) (d : BReg) (x : Ptr) : (t.wrB d x).ctx = t.ctx := rfl
@[simp] theorem wrB_lcore (t : Thread) (d : BReg) (x : Ptr) : (t.wrB d x).lcore = t.lcore := rfl
@[simp] theorem wrB_hidx (t : Thread) (d : BReg) (x : Ptr) : (t.wrB d x).hidx = t.hidx := rfl
@[simp] theorem wrB_pc (t : Thread) (d : BReg) (x : Ptr) : (t.wrB d x).pc = t.pc := rfl
@[simp] theorem wrB_code (t : Thread) (d : BReg) (x : Ptr) : (t.wrB d x).code = t.code := rfl
@[simp] theorem wrB_codeGen (t : Thread) (d : BReg) (x : Ptr) : (t.wrB d x).codeGen = t.codeGen := rfl
@[simp] theorem wrB_codeH (t : Thread) (d : BReg) (x : Ptr) : (t.wrB d x).codeH = t.codeH := rfl
@[simp] theorem wrB_entry (t : Thread) (d : BReg) (x : Ptr) : (t.wrB d x).entry = t.entry := rfl
@[simp] theorem wrB_g (t : Thread) (d : BReg) (x : Ptr) : (t.wrB d x).g = t.g := rfl
@[simp] theorem wrB_v (t : Thread) (d : BReg) (x : Ptr) : (t.wrB d x).v = t.v := rfl
@[simp] theorem wrB_m (t : Thread) (d : BReg) (x : Ptr) : (t.wrB d x).m = t.m := rfl
@[simp] theorem wrB_q (t : Thread) (d : BReg) (x : Ptr) : (t.wrB d x).q = t.q := rfl
@[simp] theorem wrB_actinfo (t : Thread) (d : BReg) (x : Ptr) : (t.wrB d x).actinfo = t.actinfo := rfl
@[simp] theorem wrB_actstart (t : Thread) (d : BReg) (x : Ptr) : (t.wrB d x).actstart = t.actstart := rfl
@[simp] theorem wrB_fpflags (t : Thread) (d : BReg) (x : Ptr) : (t.wrB d x).fpflags = t.fpflags := rfl
@[simp] theorem wrB_rmode (t : Thread) (d : BReg) (x : Ptr) : (t.wrB d x).rmode = t.rmode := rfl
@[simp] theorem wrB_tcause (t : Thread) (d : BReg) (x : Ptr) : (t.wrB d x).tcause = t.tcause := rfl
@[simp] theorem wrB_taddr (t : Thread) (d : BReg) (x : Ptr) : (t.wrB d x).taddr = t.taddr := rfl
@[simp] theorem wrB_tepc (t : Thread) (d : BReg) (x : Ptr) : (t.wrB d x).tepc = t.tepc := rfl
@[simp] theorem wrB_tinfo (t : Thread) (d : BReg) (x : Ptr) : (t.wrB d x).tinfo = t.tinfo := rfl
@[simp] theorem wrB_xferid (t : Thread) (d : BReg) (x : Ptr) : (t.wrB d x).xferid = t.xferid := rfl
@[simp] theorem wrB_invec (t : Thread) (d : BReg) (x : Ptr) : (t.wrB d x).invec = t.invec := rfl
@[simp] theorem wrB_routine (t : Thread) (d : BReg) (x : Ptr) : (t.wrB d x).routine = t.routine := rfl
@[simp] theorem wrB_wdEnd (t : Thread) (d : BReg) (x : Ptr) : (t.wrB d x).wdEnd = t.wdEnd := rfl
@[simp] theorem wrB_payload (t : Thread) (d : BReg) (x : Ptr) : (t.wrB d x).payload = t.payload := rfl
@[simp] theorem wrB_chan (t : Thread) (d : BReg) (x : Ptr) : (t.wrB d x).chan = t.chan := rfl
@[simp] theorem wrB_isMsg (t : Thread) (d : BReg) (x : Ptr) : (t.wrB d x).isMsg = t.isMsg := rfl
@[simp] theorem wrB_eff (t : Thread) (d : BReg) (x : Ptr) : (t.wrB d x).eff = t.eff := rfl
@[simp] theorem wrB_boost (t : Thread) (d : BReg) (x : Ptr) : (t.wrB d x).boost = t.boost := rfl
@[simp] theorem wrB_launch (t : Thread) (d : BReg) (x : Ptr) : (t.wrB d x).launch = t.launch := rfl
@[simp] theorem wrB_party (t : Thread) (d : BReg) (x : Ptr) : (t.wrB d x).party = t.party := rfl
@[simp] theorem wrB_key (t : Thread) (d : BReg) (x : Ptr) : (t.wrB d x).key = t.key := rfl
@[simp] theorem wrB_sendTs (t : Thread) (d : BReg) (x : Ptr) : (t.wrB d x).sendTs = t.sendTs := rfl
@[simp] theorem wrB_arrTs (t : Thread) (d : BReg) (x : Ptr) : (t.wrB d x).arrTs = t.arrTs := rfl
@[simp] theorem wrV_stat (t : Thread) (d : VReg) (x : VWord) : (t.wrV d x).stat = t.stat := rfl
@[simp] theorem wrV_ctx (t : Thread) (d : VReg) (x : VWord) : (t.wrV d x).ctx = t.ctx := rfl
@[simp] theorem wrV_lcore (t : Thread) (d : VReg) (x : VWord) : (t.wrV d x).lcore = t.lcore := rfl
@[simp] theorem wrV_hidx (t : Thread) (d : VReg) (x : VWord) : (t.wrV d x).hidx = t.hidx := rfl
@[simp] theorem wrV_pc (t : Thread) (d : VReg) (x : VWord) : (t.wrV d x).pc = t.pc := rfl
@[simp] theorem wrV_code (t : Thread) (d : VReg) (x : VWord) : (t.wrV d x).code = t.code := rfl
@[simp] theorem wrV_codeGen (t : Thread) (d : VReg) (x : VWord) : (t.wrV d x).codeGen = t.codeGen := rfl
@[simp] theorem wrV_codeH (t : Thread) (d : VReg) (x : VWord) : (t.wrV d x).codeH = t.codeH := rfl
@[simp] theorem wrV_entry (t : Thread) (d : VReg) (x : VWord) : (t.wrV d x).entry = t.entry := rfl
@[simp] theorem wrV_g (t : Thread) (d : VReg) (x : VWord) : (t.wrV d x).g = t.g := rfl
@[simp] theorem wrV_b (t : Thread) (d : VReg) (x : VWord) : (t.wrV d x).b = t.b := rfl
@[simp] theorem wrV_m (t : Thread) (d : VReg) (x : VWord) : (t.wrV d x).m = t.m := rfl
@[simp] theorem wrV_q (t : Thread) (d : VReg) (x : VWord) : (t.wrV d x).q = t.q := rfl
@[simp] theorem wrV_actinfo (t : Thread) (d : VReg) (x : VWord) : (t.wrV d x).actinfo = t.actinfo := rfl
@[simp] theorem wrV_actstart (t : Thread) (d : VReg) (x : VWord) : (t.wrV d x).actstart = t.actstart := rfl
@[simp] theorem wrV_fpflags (t : Thread) (d : VReg) (x : VWord) : (t.wrV d x).fpflags = t.fpflags := rfl
@[simp] theorem wrV_rmode (t : Thread) (d : VReg) (x : VWord) : (t.wrV d x).rmode = t.rmode := rfl
@[simp] theorem wrV_tcause (t : Thread) (d : VReg) (x : VWord) : (t.wrV d x).tcause = t.tcause := rfl
@[simp] theorem wrV_taddr (t : Thread) (d : VReg) (x : VWord) : (t.wrV d x).taddr = t.taddr := rfl
@[simp] theorem wrV_tepc (t : Thread) (d : VReg) (x : VWord) : (t.wrV d x).tepc = t.tepc := rfl
@[simp] theorem wrV_tinfo (t : Thread) (d : VReg) (x : VWord) : (t.wrV d x).tinfo = t.tinfo := rfl
@[simp] theorem wrV_xferid (t : Thread) (d : VReg) (x : VWord) : (t.wrV d x).xferid = t.xferid := rfl
@[simp] theorem wrV_invec (t : Thread) (d : VReg) (x : VWord) : (t.wrV d x).invec = t.invec := rfl
@[simp] theorem wrV_routine (t : Thread) (d : VReg) (x : VWord) : (t.wrV d x).routine = t.routine := rfl
@[simp] theorem wrV_wdEnd (t : Thread) (d : VReg) (x : VWord) : (t.wrV d x).wdEnd = t.wdEnd := rfl
@[simp] theorem wrV_payload (t : Thread) (d : VReg) (x : VWord) : (t.wrV d x).payload = t.payload := rfl
@[simp] theorem wrV_chan (t : Thread) (d : VReg) (x : VWord) : (t.wrV d x).chan = t.chan := rfl
@[simp] theorem wrV_isMsg (t : Thread) (d : VReg) (x : VWord) : (t.wrV d x).isMsg = t.isMsg := rfl
@[simp] theorem wrV_eff (t : Thread) (d : VReg) (x : VWord) : (t.wrV d x).eff = t.eff := rfl
@[simp] theorem wrV_boost (t : Thread) (d : VReg) (x : VWord) : (t.wrV d x).boost = t.boost := rfl
@[simp] theorem wrV_launch (t : Thread) (d : VReg) (x : VWord) : (t.wrV d x).launch = t.launch := rfl
@[simp] theorem wrV_party (t : Thread) (d : VReg) (x : VWord) : (t.wrV d x).party = t.party := rfl
@[simp] theorem wrV_key (t : Thread) (d : VReg) (x : VWord) : (t.wrV d x).key = t.key := rfl
@[simp] theorem wrV_sendTs (t : Thread) (d : VReg) (x : VWord) : (t.wrV d x).sendTs = t.sendTs := rfl
@[simp] theorem wrV_arrTs (t : Thread) (d : VReg) (x : VWord) : (t.wrV d x).arrTs = t.arrTs := rfl
@[simp] theorem wrM_stat (t : Thread) (d : MReg) (x : MWord) : (t.wrM d x).stat = t.stat := by unfold Thread.wrM; split <;> rfl
@[simp] theorem wrM_ctx (t : Thread) (d : MReg) (x : MWord) : (t.wrM d x).ctx = t.ctx := by unfold Thread.wrM; split <;> rfl
@[simp] theorem wrM_lcore (t : Thread) (d : MReg) (x : MWord) : (t.wrM d x).lcore = t.lcore := by unfold Thread.wrM; split <;> rfl
@[simp] theorem wrM_hidx (t : Thread) (d : MReg) (x : MWord) : (t.wrM d x).hidx = t.hidx := by unfold Thread.wrM; split <;> rfl
@[simp] theorem wrM_pc (t : Thread) (d : MReg) (x : MWord) : (t.wrM d x).pc = t.pc := by unfold Thread.wrM; split <;> rfl
@[simp] theorem wrM_code (t : Thread) (d : MReg) (x : MWord) : (t.wrM d x).code = t.code := by unfold Thread.wrM; split <;> rfl
@[simp] theorem wrM_codeGen (t : Thread) (d : MReg) (x : MWord) : (t.wrM d x).codeGen = t.codeGen := by unfold Thread.wrM; split <;> rfl
@[simp] theorem wrM_codeH (t : Thread) (d : MReg) (x : MWord) : (t.wrM d x).codeH = t.codeH := by unfold Thread.wrM; split <;> rfl
@[simp] theorem wrM_entry (t : Thread) (d : MReg) (x : MWord) : (t.wrM d x).entry = t.entry := by unfold Thread.wrM; split <;> rfl
@[simp] theorem wrM_g (t : Thread) (d : MReg) (x : MWord) : (t.wrM d x).g = t.g := by unfold Thread.wrM; split <;> rfl
@[simp] theorem wrM_b (t : Thread) (d : MReg) (x : MWord) : (t.wrM d x).b = t.b := by unfold Thread.wrM; split <;> rfl
@[simp] theorem wrM_v (t : Thread) (d : MReg) (x : MWord) : (t.wrM d x).v = t.v := by unfold Thread.wrM; split <;> rfl
@[simp] theorem wrM_q (t : Thread) (d : MReg) (x : MWord) : (t.wrM d x).q = t.q := by unfold Thread.wrM; split <;> rfl
@[simp] theorem wrM_actinfo (t : Thread) (d : MReg) (x : MWord) : (t.wrM d x).actinfo = t.actinfo := by unfold Thread.wrM; split <;> rfl
@[simp] theorem wrM_actstart (t : Thread) (d : MReg) (x : MWord) : (t.wrM d x).actstart = t.actstart := by unfold Thread.wrM; split <;> rfl
@[simp] theorem wrM_fpflags (t : Thread) (d : MReg) (x : MWord) : (t.wrM d x).fpflags = t.fpflags := by unfold Thread.wrM; split <;> rfl
@[simp] theorem wrM_rmode (t : Thread) (d : MReg) (x : MWord) : (t.wrM d x).rmode = t.rmode := by unfold Thread.wrM; split <;> rfl
@[simp] theorem wrM_tcause (t : Thread) (d : MReg) (x : MWord) : (t.wrM d x).tcause = t.tcause := by unfold Thread.wrM; split <;> rfl
@[simp] theorem wrM_taddr (t : Thread) (d : MReg) (x : MWord) : (t.wrM d x).taddr = t.taddr := by unfold Thread.wrM; split <;> rfl
@[simp] theorem wrM_tepc (t : Thread) (d : MReg) (x : MWord) : (t.wrM d x).tepc = t.tepc := by unfold Thread.wrM; split <;> rfl
@[simp] theorem wrM_tinfo (t : Thread) (d : MReg) (x : MWord) : (t.wrM d x).tinfo = t.tinfo := by unfold Thread.wrM; split <;> rfl
@[simp] theorem wrM_xferid (t : Thread) (d : MReg) (x : MWord) : (t.wrM d x).xferid = t.xferid := by unfold Thread.wrM; split <;> rfl
@[simp] theorem wrM_invec (t : Thread) (d : MReg) (x : MWord) : (t.wrM d x).invec = t.invec := by unfold Thread.wrM; split <;> rfl
@[simp] theorem wrM_routine (t : Thread) (d : MReg) (x : MWord) : (t.wrM d x).routine = t.routine := by unfold Thread.wrM; split <;> rfl
@[simp] theorem wrM_wdEnd (t : Thread) (d : MReg) (x : MWord) : (t.wrM d x).wdEnd = t.wdEnd := by unfold Thread.wrM; split <;> rfl
@[simp] theorem wrM_payload (t : Thread) (d : MReg) (x : MWord) : (t.wrM d x).payload = t.payload := by unfold Thread.wrM; split <;> rfl
@[simp] theorem wrM_chan (t : Thread) (d : MReg) (x : MWord) : (t.wrM d x).chan = t.chan := by unfold Thread.wrM; split <;> rfl
@[simp] theorem wrM_isMsg (t : Thread) (d : MReg) (x : MWord) : (t.wrM d x).isMsg = t.isMsg := by unfold Thread.wrM; split <;> rfl
@[simp] theorem wrM_eff (t : Thread) (d : MReg) (x : MWord) : (t.wrM d x).eff = t.eff := by unfold Thread.wrM; split <;> rfl
@[simp] theorem wrM_boost (t : Thread) (d : MReg) (x : MWord) : (t.wrM d x).boost = t.boost := by unfold Thread.wrM; split <;> rfl
@[simp] theorem wrM_launch (t : Thread) (d : MReg) (x : MWord) : (t.wrM d x).launch = t.launch := by unfold Thread.wrM; split <;> rfl
@[simp] theorem wrM_party (t : Thread) (d : MReg) (x : MWord) : (t.wrM d x).party = t.party := by unfold Thread.wrM; split <;> rfl
@[simp] theorem wrM_key (t : Thread) (d : MReg) (x : MWord) : (t.wrM d x).key = t.key := by unfold Thread.wrM; split <;> rfl
@[simp] theorem wrM_sendTs (t : Thread) (d : MReg) (x : MWord) : (t.wrM d x).sendTs = t.sendTs := by unfold Thread.wrM; split <;> rfl
@[simp] theorem wrM_arrTs (t : Thread) (d : MReg) (x : MWord) : (t.wrM d x).arrTs = t.arrTs := by unfold Thread.wrM; split <;> rfl
@[simp] theorem wrQ_stat (t : Thread) (d : BitVec 4) (x : QReg) : (t.wrQ d x).stat = t.stat := rfl
@[simp] theorem wrQ_ctx (t : Thread) (d : BitVec 4) (x : QReg) : (t.wrQ d x).ctx = t.ctx := rfl
@[simp] theorem wrQ_lcore (t : Thread) (d : BitVec 4) (x : QReg) : (t.wrQ d x).lcore = t.lcore := rfl
@[simp] theorem wrQ_hidx (t : Thread) (d : BitVec 4) (x : QReg) : (t.wrQ d x).hidx = t.hidx := rfl
@[simp] theorem wrQ_pc (t : Thread) (d : BitVec 4) (x : QReg) : (t.wrQ d x).pc = t.pc := rfl
@[simp] theorem wrQ_code (t : Thread) (d : BitVec 4) (x : QReg) : (t.wrQ d x).code = t.code := rfl
@[simp] theorem wrQ_codeGen (t : Thread) (d : BitVec 4) (x : QReg) : (t.wrQ d x).codeGen = t.codeGen := rfl
@[simp] theorem wrQ_codeH (t : Thread) (d : BitVec 4) (x : QReg) : (t.wrQ d x).codeH = t.codeH := rfl
@[simp] theorem wrQ_entry (t : Thread) (d : BitVec 4) (x : QReg) : (t.wrQ d x).entry = t.entry := rfl
@[simp] theorem wrQ_g (t : Thread) (d : BitVec 4) (x : QReg) : (t.wrQ d x).g = t.g := rfl
@[simp] theorem wrQ_b (t : Thread) (d : BitVec 4) (x : QReg) : (t.wrQ d x).b = t.b := rfl
@[simp] theorem wrQ_v (t : Thread) (d : BitVec 4) (x : QReg) : (t.wrQ d x).v = t.v := rfl
@[simp] theorem wrQ_m (t : Thread) (d : BitVec 4) (x : QReg) : (t.wrQ d x).m = t.m := rfl
@[simp] theorem wrQ_actinfo (t : Thread) (d : BitVec 4) (x : QReg) : (t.wrQ d x).actinfo = t.actinfo := rfl
@[simp] theorem wrQ_actstart (t : Thread) (d : BitVec 4) (x : QReg) : (t.wrQ d x).actstart = t.actstart := rfl
@[simp] theorem wrQ_fpflags (t : Thread) (d : BitVec 4) (x : QReg) : (t.wrQ d x).fpflags = t.fpflags := rfl
@[simp] theorem wrQ_rmode (t : Thread) (d : BitVec 4) (x : QReg) : (t.wrQ d x).rmode = t.rmode := rfl
@[simp] theorem wrQ_tcause (t : Thread) (d : BitVec 4) (x : QReg) : (t.wrQ d x).tcause = t.tcause := rfl
@[simp] theorem wrQ_taddr (t : Thread) (d : BitVec 4) (x : QReg) : (t.wrQ d x).taddr = t.taddr := rfl
@[simp] theorem wrQ_tepc (t : Thread) (d : BitVec 4) (x : QReg) : (t.wrQ d x).tepc = t.tepc := rfl
@[simp] theorem wrQ_tinfo (t : Thread) (d : BitVec 4) (x : QReg) : (t.wrQ d x).tinfo = t.tinfo := rfl
@[simp] theorem wrQ_xferid (t : Thread) (d : BitVec 4) (x : QReg) : (t.wrQ d x).xferid = t.xferid := rfl
@[simp] theorem wrQ_invec (t : Thread) (d : BitVec 4) (x : QReg) : (t.wrQ d x).invec = t.invec := rfl
@[simp] theorem wrQ_routine (t : Thread) (d : BitVec 4) (x : QReg) : (t.wrQ d x).routine = t.routine := rfl
@[simp] theorem wrQ_wdEnd (t : Thread) (d : BitVec 4) (x : QReg) : (t.wrQ d x).wdEnd = t.wdEnd := rfl
@[simp] theorem wrQ_payload (t : Thread) (d : BitVec 4) (x : QReg) : (t.wrQ d x).payload = t.payload := rfl
@[simp] theorem wrQ_chan (t : Thread) (d : BitVec 4) (x : QReg) : (t.wrQ d x).chan = t.chan := rfl
@[simp] theorem wrQ_isMsg (t : Thread) (d : BitVec 4) (x : QReg) : (t.wrQ d x).isMsg = t.isMsg := rfl
@[simp] theorem wrQ_eff (t : Thread) (d : BitVec 4) (x : QReg) : (t.wrQ d x).eff = t.eff := rfl
@[simp] theorem wrQ_boost (t : Thread) (d : BitVec 4) (x : QReg) : (t.wrQ d x).boost = t.boost := rfl
@[simp] theorem wrQ_launch (t : Thread) (d : BitVec 4) (x : QReg) : (t.wrQ d x).launch = t.launch := rfl
@[simp] theorem wrQ_party (t : Thread) (d : BitVec 4) (x : QReg) : (t.wrQ d x).party = t.party := rfl
@[simp] theorem wrQ_key (t : Thread) (d : BitVec 4) (x : QReg) : (t.wrQ d x).key = t.key := rfl
@[simp] theorem wrQ_sendTs (t : Thread) (d : BitVec 4) (x : QReg) : (t.wrQ d x).sendTs = t.sendTs := rfl
@[simp] theorem wrQ_arrTs (t : Thread) (d : BitVec 4) (x : QReg) : (t.wrQ d x).arrTs = t.arrTs := rfl
@[simp] theorem step_stat (t : Thread) : t.step.stat = t.stat := rfl
@[simp] theorem step_ctx (t : Thread) : t.step.ctx = t.ctx := rfl
@[simp] theorem step_lcore (t : Thread) : t.step.lcore = t.lcore := rfl
@[simp] theorem step_hidx (t : Thread) : t.step.hidx = t.hidx := rfl
@[simp] theorem step_code (t : Thread) : t.step.code = t.code := rfl
@[simp] theorem step_codeGen (t : Thread) : t.step.codeGen = t.codeGen := rfl
@[simp] theorem step_codeH (t : Thread) : t.step.codeH = t.codeH := rfl
@[simp] theorem step_entry (t : Thread) : t.step.entry = t.entry := rfl
@[simp] theorem step_g (t : Thread) : t.step.g = t.g := rfl
@[simp] theorem step_b (t : Thread) : t.step.b = t.b := rfl
@[simp] theorem step_v (t : Thread) : t.step.v = t.v := rfl
@[simp] theorem step_m (t : Thread) : t.step.m = t.m := rfl
@[simp] theorem step_q (t : Thread) : t.step.q = t.q := rfl
@[simp] theorem step_actinfo (t : Thread) : t.step.actinfo = t.actinfo := rfl
@[simp] theorem step_actstart (t : Thread) : t.step.actstart = t.actstart := rfl
@[simp] theorem step_fpflags (t : Thread) : t.step.fpflags = t.fpflags := rfl
@[simp] theorem step_rmode (t : Thread) : t.step.rmode = t.rmode := rfl
@[simp] theorem step_tcause (t : Thread) : t.step.tcause = t.tcause := rfl
@[simp] theorem step_taddr (t : Thread) : t.step.taddr = t.taddr := rfl
@[simp] theorem step_tepc (t : Thread) : t.step.tepc = t.tepc := rfl
@[simp] theorem step_tinfo (t : Thread) : t.step.tinfo = t.tinfo := rfl
@[simp] theorem step_xferid (t : Thread) : t.step.xferid = t.xferid := rfl
@[simp] theorem step_invec (t : Thread) : t.step.invec = t.invec := rfl
@[simp] theorem step_routine (t : Thread) : t.step.routine = t.routine := rfl
@[simp] theorem step_wdEnd (t : Thread) : t.step.wdEnd = t.wdEnd := rfl
@[simp] theorem step_payload (t : Thread) : t.step.payload = t.payload := rfl
@[simp] theorem step_chan (t : Thread) : t.step.chan = t.chan := rfl
@[simp] theorem step_isMsg (t : Thread) : t.step.isMsg = t.isMsg := rfl
@[simp] theorem step_eff (t : Thread) : t.step.eff = t.eff := rfl
@[simp] theorem step_boost (t : Thread) : t.step.boost = t.boost := rfl
@[simp] theorem step_launch (t : Thread) : t.step.launch = t.launch := rfl
@[simp] theorem step_party (t : Thread) : t.step.party = t.party := rfl
@[simp] theorem step_key (t : Thread) : t.step.key = t.key := rfl
@[simp] theorem step_sendTs (t : Thread) : t.step.sendTs = t.sendTs := rfl
@[simp] theorem step_arrTs (t : Thread) : t.step.arrTs = t.arrTs := rfl
@[simp] theorem step_pc (t : Thread) : t.step.pc = t.pc + 12 := rfl
@[simp] theorem rdG_step (t : Thread) (r : GReg) : t.step.rdG r = t.rdG r := rfl
@[simp] theorem rdB_step (t : Thread) (r : BReg) : t.step.rdB r = t.rdB r := rfl
@[simp] theorem rdV_step (t : Thread) (r : VReg) : t.step.rdV r = t.rdV r := rfl
@[simp] theorem rdM_step (t : Thread) (r : MReg) : t.step.rdM r = t.rdM r := rfl

/-! ### Results of an instruction -/

@[simp] theorem retG_t (s : State) (d : GReg) (v : Word) : (s.retG d v).t = (s.t.wrG d v).step := t_setT ..
@[simp] theorem retB_t (s : State) (d : BReg) (p : Ptr) : (s.retB d p).t = (s.t.wrB d p).step := t_setT ..
@[simp] theorem retV_t (s : State) (d : VReg) (v : VWord) : (s.retV d v).t = (s.t.wrV d v).step := t_setT ..
@[simp] theorem retM_t (s : State) (d : MReg) (v : MWord) : (s.retM d v).t = (s.t.wrM d v).step := t_setT ..
@[simp] theorem next_t (s : State) : s.next.t = s.t.step := t_setT ..

end Sys2Proof.Machine
end

