-- ==== Sys2Proof/Laws/Ops.lean ====
section
/-! SUPPORT. What each shared operation can do, said once: the frame of an instruction, the checks of an access, the
parts of a step. Later proofs cite these and do not unfold the operations. -/

namespace Sys2Proof.Machine

/-! ### The frame of an instruction (R93) -/

/-- With a running thread and a true guard an instruction has its effect. -/
theorem run_acts {h : Head} {s : State} (a : s.Acts h) (f : State → State) : run h s f = .next (f s) := by
  rw [run, if_pos a.1, if_pos a.2]

/-- With a false guard it falls through. -/
theorem run_guarded {h : Head} {s : State} (hs : s.t.stat = .running) (hg : s.t.guard h = false) (f : State → State) :
    run h s f = .next s.next := by
  rw [run, if_pos hs, if_neg (by simp [hg])]

/-- All that `run` can answer. -/
theorem run_cases (h : Head) (s : State) (f : State → State) :
    (s.t.stat = .running ∧ s.t.guard h = true ∧ run h s f = .next (f s)) ∨
    (s.t.stat = .running ∧ s.t.guard h = false ∧ run h s f = .next s.next) ∨
    (s.t.stat ≠ .running ∧ run h s f = .fault .noActivation) := by
  by_cases hs : s.t.stat = .running
  · by_cases hg : s.t.guard h = true
    · exact .inl ⟨hs, hg, run_acts ⟨hs, hg⟩ f⟩
    · exact .inr (.inl ⟨hs, by simpa using hg, run_guarded hs (by simpa using hg) f⟩)
  · exact .inr (.inr ⟨hs, by rw [run, if_neg hs]⟩)

/-- A next state of `run` is one of these two. -/
theorem run_next {h : Head} {s t : State} {f : State → State} (e : run h s f = .next t) :
    (s.Acts h ∧ t = f s) ∨ (s.t.stat = .running ∧ s.t.guard h = false ∧ t = s.next) := by
  rcases run_cases h s f with ⟨hs, hg, he⟩ | ⟨hs, hg, he⟩ | ⟨_, he⟩ <;> rw [he] at e <;> cases e
  · exact .inl ⟨⟨hs, hg⟩, rfl⟩
  · exact .inr ⟨hs, hg, rfl⟩

@[simp] theorem event_eq (s : State) (f : State → State) : event s f = .next (f s) := rfl

theorem answers_next {t : State} {P : State → Prop} {o : Host.Outcome State Fault Refusal} (h : o = .next t) (hp : P t) :
    Answers o P := ⟨t, h, hp⟩

@[simp] theorem answers_of_next (t : State) (P : State → Prop) : Answers (.next t) P ↔ P t :=
  ⟨fun ⟨_, h, hp⟩ => by cases h; exact hp, fun hp => ⟨t, rfl, hp⟩⟩

/-! ### Checks -/

@[simp] theorem try_ok {α : Type} (s : State) (a : α) (f : α → State) : s.try_ (.ok a) f = f a := rfl
@[simp] theorem try_error {α : Type} (s : State) (t : Trp) (f : α → State) : s.try_ (.error t) f = s.trapE t := rfl

theorem atLeast_ok {s : State} {level opc : Nat} (h : level ≤ s.priv) (f : State → State) : s.atLeast level opc f = f s := by
  rw [State.atLeast, if_neg (by omega)]

theorem atLeast_low {s : State} {level opc : Nat} (h : s.priv < level) (f : State → State) :
    s.atLeast level opc f = s.trap 0x04 0 opc := by
  rw [State.atLeast, if_pos h]

theorem ofRole_ok {s : State} {roles : List Nat} {opc : Nat} (h : roles.contains s.role = true) (f : State → State) :
    s.ofRole roles opc f = f s := by
  rw [State.ofRole, if_pos h]

theorem ofRole_other {s : State} {roles : List Nat} {opc : Nat} (h : roles.contains s.role = false) (f : State → State) :
    s.ofRole roles opc f = s.trap 0x05 0 opc := by
  rw [State.ofRole, h]; rfl

/-- A handle check that passes: the tag is set and the entry is current (R108). -/
theorem checkHandle_ok {s : State} {c : Nat} {p : Ptr} {bix : Nat} {h : HEntry} (e : s.checkHandle c p bix = .ok h) :
    p.tag = true ∧ s.hlook c p.hidx p.gen = some h := by
  unfold State.checkHandle at e
  split at e
  · cases e
  · next ht =>
    split at e
    · next h' hl => cases e; exact ⟨by simpa using ht, hl⟩
    · cases e

/-- SIZE as it bounds an access is never above the entry's own (R322). -/
theorem entrySize_le (s : State) (c : Nat) (h : HEntry) : s.entrySize c h ≤ h.size := by
  unfold State.entrySize
  split <;> omega

/-- A pointer check that passes (R108): tag, handle, bounds, permission. -/
theorem checkPtr_ok {s : State} {c : Nat} {p : Ptr} {bix : Nat} {disp : Int} {size need : Nat} {req : NodeReq}
    {h : HEntry} {off : Nat} (e : s.checkPtr c p bix disp size need req = .ok (h, off)) :
    p.tag = true ∧ s.hlook c p.hidx p.gen = some h ∧ req h.node = none ∧ (off : Int) = max 0 ((p.cursor : Int) + disp) ∧
    (p.base : Int) ≤ p.cursor + disp ∧ (p.cursor : Int) + disp + size ≤ p.top ∧
    (p.cursor : Int) + disp + size ≤ s.entrySize c h ∧ hasAll p.perms need = true := by
  unfold State.checkPtr at e
  split at e
  · cases e
  split at e
  · cases e
  · next h' hh =>
    split at e
    · cases e
    · next hr =>
      dsimp only at e
      split at e
      · cases e
      · next hb =>
        split at e
        · cases e
        · next hp =>
          cases e
          obtain ⟨ht, hl⟩ := checkHandle_ok hh
          push Not at hb
          refine ⟨ht, hl, hr, ?_, by omega, by omega, by omega, by simpa using hp⟩
          omega

/-- An access that passes every check but RACE (R108, R113): its object, offset and places. -/
theorem reach_ok {s : State} {p : Ptr} {bix : Nat} {disp : Int} {size need : Nat} {a : AccKind} {align : Nat}
    {req : NodeReq} {hit : Hit} (e : s.reach p bix disp size need a align req = .ok hit) :
    ∃ h, s.checkPtr s.t.ctx p bix disp size need req = .ok (h, hit.off) ∧ hit.node = h.node ∧ s.kindOk h.node a = true ∧
      hit.off % align = 0 ∧ isCopy h.node = false ∧
      s.places s.t.ctx h.node (a != .load) false (pieces hit.off size) = .ok hit.places := by
  unfold State.reach at e
  split at e
  · cases e
  · next h off hc =>
    split at e
    · cases e
    · next hk =>
      split at e
      · cases e
      · next ha =>
        push Not at ha
        split at e
        · cases e
        · next l hl =>
          cases e
          exact ⟨h, hc, rfl, by simpa using hk, ha.1, by simpa using ha.2, hl⟩

/-! ### A step -/

/-- What `step` takes: the agenda's first slot, or what moves when it is empty. -/
theorem step_eq (s : State) : step s =
    (match act1 (match s.agenda with
        | [] => { dt := 1, what := idleChoice s }
        | a :: _ => a) (match s.agenda with
        | [] => s
        | _ :: r => { s with agenda := r }) with
      | .next t => .next t.settle
      | .fault r => .fault r
      | .refused r => .refused r) := by
  unfold step
  cases s.agenda <;> rfl

/-- A next state of a step is a settled next state of the slot that it took. -/
theorem step_next {s t : State} (e : step s = .next t) : ∃ a s' u, act1 a s' = .next u ∧ t = u.settle ∧ s'.mem = s.mem := by
  rw [step_eq] at e
  split at e
  · next u hu =>
    cases e
    refine ⟨_, _, u, hu, rfl, ?_⟩
    cases s.agenda <;> rfl
  · cases e
  · cases e

/-- What a slot of the agenda can do: nothing, an instruction's issue, or a step of the machine. -/
theorem act1_cases (a : AgSlot) (s : State) :
    (act1 a s = .next s) ∨ (act1 a s = .next (s.pass a.dt)) ∨
    (∃ k, a.what = .issue k ∧ act1 a s = issue (s.toIssue k a.dt)) ∨
    (∃ i arg, a.what = .event i arg ∧ (act1 a s = exec i { s with arg := arg } ∨
      isMachineStep i = true ∧ act1 a s = exec i { s.pass a.dt with arg := arg })) := by
  obtain ⟨dt, what⟩ := a
  cases what with
  | issue k =>
    by_cases hf : s.frozen = true
    · exact .inl (by simp [act1, hf])
    · exact .inr (.inr (.inl ⟨k, rfl, by simp [act1, hf]⟩))
  | event i arg =>
    by_cases hf : s.frozen = true
    · by_cases hw : act1.worksFrozen i = true
      · exact .inr (.inr (.inr ⟨i, arg, rfl, .inl (by simp [act1, hf, hw])⟩))
      · exact .inl (by simp [act1, hf, hw])
    · by_cases hm : isMachineStep i = true
      · exact .inr (.inr (.inr ⟨i, arg, rfl, .inr ⟨hm, by simp [act1, hf, hm]⟩⟩))
      · exact .inr (.inl (by simp [act1, hf, hm]))

/-- What an issue can do: nothing, an encoding trap or a fetch trap, or the decoded instruction. -/
theorem issue_cases (s : State) :
    (s.t.stat ≠ .running ∧ issue s = .next s) ∨
    (∃ t, s.fetch = .error t ∧ issue s = .next (s.trapE t)) ∨
    (∃ w s' e, s.fetch = .ok (w, s') ∧ decodeAt s'.priv w = .error e ∧ issue s = .next (s'.trap e.cause 0 e.tinfo)) ∨
    (∃ w s' i, s.t.stat = .running ∧ s.fetch = .ok (w, s') ∧ decodeAt s'.priv w = .ok i ∧ issue s = exec i s') := by
  by_cases hs : s.t.stat = .running
  · cases hf : s.fetch with
    | error t => exact .inr (.inl ⟨t, rfl, by simp [issue, hs, hf]⟩)
    | ok p =>
      obtain ⟨w, s'⟩ := p
      cases hd : decodeAt s'.priv w with
      | error e => exact .inr (.inr (.inl ⟨w, s', e, rfl, hd, by simp [issue, hs, hf, hd]⟩))
      | ok i => exact .inr (.inr (.inr ⟨w, s', i, hs, rfl, hd, by simp [issue, hs, hf, hd]⟩))
  · exact .inl ⟨hs, by simp [issue, hs]⟩

end Sys2Proof.Machine
end

