-- ==== Sys2Proof/Laws/PerInstr.lean ====
section
/-! SUPPORT. Per-instruction laws of the encoder: an instruction's word has 96 bits, and its guard and hints stand in it
(R91, R93, R94). -/

namespace Sys2Proof.Laws

open Sys2Proof Sys2Proof.Machine

/-! ### Fields -/

theorem oG_lt (r : GReg) : oG r < 2 ^ 18 := by have := r.isLt; unfold oG; omega
theorem oV_lt (r : VReg) : oV r < 2 ^ 18 := by have := r.isLt; unfold oV; omega
theorem oB_lt (r : BReg) : oB r < 2 ^ 18 := by have := r.isLt; unfold oB; omega
theorem oM_lt (r : MReg) : oM r < 2 ^ 18 := by have := r.isLt; unfold oM; omega
theorem oI_lt (x : Imm) : oI x < 2 ^ 18 := by have := x.isLt; unfold oI; omega
theorem oC_lt (r : CReg) : oC r < 2 ^ 18 := by have := r.isLt; unfold oC; omega
theorem oMem_lt (m : MemOp) : oMem m < 2 ^ 18 := by have := m.b.isLt; have := m.disp.isLt; unfold oMem; omega
theorem oQ_lt (q : QOp) : oQ q < 2 ^ 18 := by
  have := q.q.isLt; have := q.c.isLt; have := q.adv.toNat_le; unfold oQ; omega
theorem oGI_lt (x : GI) : oGI x < 2 ^ 18 := by cases x <;> simp only [oGI, oG_lt, oI_lt]
theorem oVGI_lt (x : VGI) : oVGI x < 2 ^ 18 := by cases x <;> simp only [oVGI, oV_lt, oG_lt, oI_lt]
theorem oVG_lt (x : VG) : oVG x < 2 ^ 18 := by cases x <;> simp only [oVG, oV_lt, oG_lt]
theorem oMQ_lt (x : MQ) : oMQ x < 2 ^ 18 := by cases x <;> simp only [oMQ, oMem_lt, oQ_lt]
theorem oOM_lt : (x : Option MReg) → oOM x < 2 ^ 18
  | none => by decide
  | some r => oM_lt r
theorem oOB_lt : (x : Option BReg) → oOB x < 2 ^ 18
  | none => by decide
  | some r => oB_lt r
theorem oOG_lt : (x : Option GReg) → oOG x < 2 ^ 18
  | none => by decide
  | some r => oG_lt r
theorem oOGI_lt : (x : Option GI) → oOGI x < 2 ^ 18
  | none => by decide
  | some r => oGI_lt r

theorem md_lt {et rnd ord scp m7 : Nat} (h1 : et < 16) (h2 : rnd < 8) (h3 : ord < 8) (h4 : scp < 8) (h5 : m7 < 128) :
    md et rnd ord scp m7 < 2 ^ 20 := by unfold md; omega

/-! ### Words -/

theorem code_le (h : Head) : h.code + 2 ^ 74 ≤ 2 ^ 86 := by
  have := h.gn.toNat_le; have := h.gm.isLt; have := h.stall.isLt; have := h.cache.isLt
  have := h.yld.toNat_le; have := h.ign.toNat_le
  unfold Head.code; omega

/-- The low 74 bits do not reach the head, nor does the opcode. -/
theorem headOf_word (opc : Nat) (h : Head) (r : Nat) (hr : r < 2 ^ 74) : headOf (opc * 2 ^ 86 + h.code + r) = h := by
  obtain ⟨gn, gm, stall, cache, yld, ign⟩ := h
  have h1 := gn.toNat_le
  have h2 := gm.isLt
  have h3 := stall.isLt
  have h4 := cache.isLt
  have h5 := yld.toNat_le
  have h6 := ign.toNat_le
  have e1 : (opc * 2 ^ 86 + Head.code ⟨gn, gm, stall, cache, yld, ign⟩ + r) / 2 ^ 85 % 2 ^ 1 = gn.toNat := by
    simp only [Head.code]; omega
  have e2 : (opc * 2 ^ 86 + Head.code ⟨gn, gm, stall, cache, yld, ign⟩ + r) / 2 ^ 82 % 2 ^ 3 = gm.toNat := by
    simp only [Head.code]; omega
  have e3 : (opc * 2 ^ 86 + Head.code ⟨gn, gm, stall, cache, yld, ign⟩ + r) / 2 ^ 78 % 2 ^ 4 = stall.toNat := by
    simp only [Head.code]; omega
  have e4 : (opc * 2 ^ 86 + Head.code ⟨gn, gm, stall, cache, yld, ign⟩ + r) / 2 ^ 76 % 2 ^ 2 = cache.toNat := by
    simp only [Head.code]; omega
  have e5 : (opc * 2 ^ 86 + Head.code ⟨gn, gm, stall, cache, yld, ign⟩ + r) / 2 ^ 75 % 2 ^ 1 = yld.toNat := by
    simp only [Head.code]; omega
  have e6 : (opc * 2 ^ 86 + Head.code ⟨gn, gm, stall, cache, yld, ign⟩ + r) / 2 ^ 74 % 2 ^ 1 = ign.toNat := by
    simp only [Head.code]; omega
  unfold headOf
  simp only [bits, e1, e2, e3, e4, e5, e6, BitVec.ofNat_toNat, BitVec.setWidth_eq]
  cases gn <;> cases yld <;> cases ign <;> rfl

theorem word_lt {opc c r : Nat} (ho : opc < 1024) (hc : c + 2 ^ 74 ≤ 2 ^ 86) (hr : r < 2 ^ 74) :
    opc * 2 ^ 86 + c + r < 2 ^ 96 := by
  have h : opc * 2 ^ 86 ≤ 1023 * 2 ^ 86 := Nat.mul_le_mul_right _ (by omega)
  have e : (1024 : Nat) * 2 ^ 86 = 2 ^ 96 := by decide
  have f : (1023 : Nat) * 2 ^ 86 + 2 ^ 86 = 1024 * 2 ^ 86 := by decide
  rw [← e, ← f]
  generalize (2 : Nat) ^ 86 = p at *
  generalize (2 : Nat) ^ 74 = q at *
  omega

/-- What the family says of an instruction. -/
def Framed.Statement (i : Instr) : Prop :=
  ∀ w, encode i = some w → w < 2 ^ 96 ∧ ∀ h, headOfInstr i = some h → headOf w = h

theorem framed_T {i : Instr} {h : Head} {opc od oa ob m : Nat} (he : encode i = some (wT opc h od oa ob m))
    (hh : headOfInstr i = some h) (ho : opc < 1024) (h1 : od < 2 ^ 18) (h2 : oa < 2 ^ 18) (h3 : ob < 2 ^ 18)
    (h4 : m < 2 ^ 20) : Framed.Statement i := by
  intro w hw
  rw [he] at hw
  obtain rfl := Option.some.inj hw
  have hr : od * 2 ^ 56 + oa * 2 ^ 38 + ob * 2 ^ 20 + m < 2 ^ 74 := by omega
  have hc := code_le h
  refine ⟨by have := word_lt ho hc hr; simpa only [wT, Nat.add_assoc] using this, fun h' hh' => ?_⟩
  rw [hh] at hh'
  obtain rfl := Option.some.inj hh'
  have := headOf_word opc h _ hr
  simpa only [wT, Nat.add_assoc] using this

theorem framed_L {i : Instr} {h : Head} {opc od imm : Nat} (he : encode i = some (wL opc h od imm))
    (hh : headOfInstr i = some h) (ho : opc < 1024) (h1 : od < 2 ^ 18) (h2 : imm < 2 ^ 56) : Framed.Statement i := by
  intro w hw
  rw [he] at hw
  obtain rfl := Option.some.inj hw
  have hr : od * 2 ^ 56 + imm < 2 ^ 74 := by omega
  have hc := code_le h
  refine ⟨by have := word_lt ho hc hr; simpa only [wL, Nat.add_assoc] using this, fun h' hh' => ?_⟩
  rw [hh] at hh'
  obtain rfl := Option.some.inj hh'
  have := headOf_word opc h _ hr
  simpa only [wL, Nat.add_assoc] using this

theorem framed_none {i : Instr} (he : encode i = none) : Framed.Statement i := by
  intro w hw; rw [he] at hw; cases hw

/-! ### One lemma for each instruction -/

namespace Framed

theorem nop (h : Head) : Statement (.nop h) :=
  framed_T rfl rfl (by decide) (by decide) (by decide) (by decide)
    (md_lt (by decide) (by decide) (by decide) (by decide) (by decide))
theorem trap (h : Head) (imm : Imm) : Statement (.trap h imm) :=
  framed_T rfl rfl (by decide) (oI_lt imm) (by decide) (by decide)
    (md_lt (by decide) (by decide) (by decide) (by decide) (by decide))
theorem eret (h : Head) : Statement (.eret h) :=
  framed_T rfl rfl (by decide) (by decide) (by decide) (by decide)
    (md_lt (by decide) (by decide) (by decide) (by decide) (by decide))
theorem crd (h : Head) (d : GReg) (a : CReg) : Statement (.crd h d a) :=
  framed_T rfl rfl (by decide) (oG_lt d) (oC_lt a) (by decide)
    (md_lt (by decide) (by decide) (by decide) (by decide) (by decide))
theorem cwr (h : Head) (d : CReg) (a : GI) : Statement (.cwr h d a) :=
  framed_T rfl rfl (by decide) (oC_lt d) (oGI_lt a) (by decide)
    (md_lt (by decide) (by decide) (by decide) (by decide) (by decide))
theorem cset (h : Head) (d : CReg) (a : GI) : Statement (.cset h d a) :=
  framed_T rfl rfl (by decide) (oC_lt d) (oGI_lt a) (by decide)
    (md_lt (by decide) (by decide) (by decide) (by decide) (by decide))
theorem cclr (h : Head) (d : CReg) (a : GI) : Statement (.cclr h d a) :=
  framed_T rfl rfl (by decide) (oC_lt d) (oGI_lt a) (by decide)
    (md_lt (by decide) (by decide) (by decide) (by decide) (by decide))
theorem tstamp (h : Head) (d : GReg) : Statement (.tstamp h d) :=
  framed_T rfl rfl (by decide) (oG_lt d) (by decide) (by decide)
    (md_lt (by decide) (by decide) (by decide) (by decide) (by decide))
theorem brk (h : Head) (imm : Imm) : Statement (.brk h imm) :=
  framed_T rfl rfl (by decide) (oI_lt imm) (by decide) (by decide)
    (md_lt (by decide) (by decide) (by decide) (by decide) (by decide))
theorem tmark (h : Head) (a : GI) : Statement (.tmark h a) :=
  framed_T rfl rfl (by decide) (oGI_lt a) (by decide) (by decide)
    (md_lt (by decide) (by decide) (by decide) (by decide) (by decide))
theorem wdog (h : Head) (d : GReg) : Statement (.wdog h d) :=
  framed_T rfl rfl (by decide) (oG_lt d) (by decide) (by decide)
    (md_lt (by decide) (by decide) (by decide) (by decide) (by decide))
theorem halt (h : Head) : Statement (.halt h) :=
  framed_T rfl rfl (by decide) (by decide) (by decide) (by decide)
    (md_lt (by decide) (by decide) (by decide) (by decide) (by decide))
theorem pmint (h : Head) (d : BReg) (a : GReg) (b : GReg) : Statement (.pmint h d a b) :=
  framed_T rfl rfl (by decide) (oB_lt d) (oG_lt a) (oG_lt b)
    (md_lt (by decide) (by decide) (by decide) (by decide) (by decide))
theorem sresume (h : Head) (d : GReg) (a : GReg) : Statement (.sresume h d a) :=
  framed_T rfl rfl (by decide) (oG_lt d) (oG_lt a) (by decide)
    (md_lt (by decide) (by decide) (by decide) (by decide) (by decide))
theorem sresumeSkip (h : Head) (d : GReg) (a : GReg) : Statement (.sresumeSkip h d a) :=
  framed_T rfl rfl (by decide) (oG_lt d) (oG_lt a) (by decide)
    (md_lt (by decide) (by decide) (by decide) (by decide) (by decide))
theorem tkill (h : Head) (d : GReg) (a : GReg) : Statement (.tkill h d a) :=
  framed_T rfl rfl (by decide) (oG_lt d) (oG_lt a) (by decide)
    (md_lt (by decide) (by decide) (by decide) (by decide) (by decide))
theorem icsync (h : Head) (a : GReg) : Statement (.icsync h a) :=
  framed_T rfl rfl (by decide) (oG_lt a) (by decide) (by decide)
    (md_lt (by decide) (by decide) (by decide) (by decide) (by decide))
theorem br (h : Head) (imm : Imm56) : Statement (.br h imm) :=
  framed_L rfl rfl (by decide) (by decide) (by have := imm.isLt; omega)
theorem bri (h : Head) (a : GReg) : Statement (.bri h a) :=
  framed_T rfl rfl (by decide) (oG_lt a) (by decide) (by decide)
    (md_lt (by decide) (by decide) (by decide) (by decide) (by decide))
theorem call (h : Head) (d : GReg) (imm : Imm56) : Statement (.call h d imm) :=
  framed_L rfl rfl (by decide) (oG_lt d) (by have := imm.isLt; omega)
theorem calli (h : Head) (d : GReg) (a : GReg) : Statement (.calli h d a) :=
  framed_T rfl rfl (by decide) (oG_lt d) (oG_lt a) (by decide)
    (md_lt (by decide) (by decide) (by decide) (by decide) (by decide))
theorem ret (h : Head) (a : GReg) : Statement (.ret h a) :=
  framed_T rfl rfl (by decide) (oG_lt a) (by decide) (by decide)
    (md_lt (by decide) (by decide) (by decide) (by decide) (by decide))
theorem endAct (h : Head) : Statement (.endAct h) :=
  framed_T rfl rfl (by decide) (by decide) (by decide) (by decide)
    (md_lt (by decide) (by decide) (by decide) (by decide) (by decide))
theorem endDone (h : Head) (a : Option GReg) : Statement (.endDone h a) :=
  framed_T rfl rfl (by decide) (oOG_lt a) (by decide) (by decide)
    (md_lt (by decide) (by decide) (by decide) (by decide) (by decide))
theorem loop (h : Head) (d : GReg) (imm : Imm56) : Statement (.loop h d imm) :=
  framed_L rfl rfl (by decide) (oG_lt d) (by have := imm.isLt; omega)
theorem add (h : Head) (et : EType) (d : GReg) (a : GReg) (b : GI) : Statement (.add h et d a b) :=
  framed_T rfl rfl (by decide) (oG_lt d) (oG_lt a) (oGI_lt b)
    (md_lt (by have := et.isLt; omega) (by decide) (by decide) (by decide) (by decide))
theorem sub (h : Head) (et : EType) (d : GReg) (a : GReg) (b : GI) : Statement (.sub h et d a b) :=
  framed_T rfl rfl (by decide) (oG_lt d) (oG_lt a) (oGI_lt b)
    (md_lt (by have := et.isLt; omega) (by decide) (by decide) (by decide) (by decide))
theorem mul (h : Head) (et : EType) (d : GReg) (a : GReg) (b : GI) : Statement (.mul h et d a b) :=
  framed_T rfl rfl (by decide) (oG_lt d) (oG_lt a) (oGI_lt b)
    (md_lt (by have := et.isLt; omega) (by decide) (by decide) (by decide) (by decide))
theorem mulh (h : Head) (et : EType) (d : GReg) (a : GReg) (b : GI) : Statement (.mulh h et d a b) :=
  framed_T rfl rfl (by decide) (oG_lt d) (oG_lt a) (oGI_lt b)
    (md_lt (by have := et.isLt; omega) (by decide) (by decide) (by decide) (by decide))
theorem mulhu (h : Head) (et : EType) (d : GReg) (a : GReg) (b : GI) : Statement (.mulhu h et d a b) :=
  framed_T rfl rfl (by decide) (oG_lt d) (oG_lt a) (oGI_lt b)
    (md_lt (by have := et.isLt; omega) (by decide) (by decide) (by decide) (by decide))
theorem div (h : Head) (et : EType) (d : GReg) (a : GReg) (b : GI) : Statement (.div h et d a b) :=
  framed_T rfl rfl (by decide) (oG_lt d) (oG_lt a) (oGI_lt b)
    (md_lt (by have := et.isLt; omega) (by decide) (by decide) (by decide) (by decide))
theorem divu (h : Head) (et : EType) (d : GReg) (a : GReg) (b : GI) : Statement (.divu h et d a b) :=
  framed_T rfl rfl (by decide) (oG_lt d) (oG_lt a) (oGI_lt b)
    (md_lt (by have := et.isLt; omega) (by decide) (by decide) (by decide) (by decide))
theorem rem (h : Head) (et : EType) (d : GReg) (a : GReg) (b : GI) : Statement (.rem h et d a b) :=
  framed_T rfl rfl (by decide) (oG_lt d) (oG_lt a) (oGI_lt b)
    (md_lt (by have := et.isLt; omega) (by decide) (by decide) (by decide) (by decide))
theorem remu (h : Head) (et : EType) (d : GReg) (a : GReg) (b : GI) : Statement (.remu h et d a b) :=
  framed_T rfl rfl (by decide) (oG_lt d) (oG_lt a) (oGI_lt b)
    (md_lt (by have := et.isLt; omega) (by decide) (by decide) (by decide) (by decide))
theorem and (h : Head) (et : EType) (d : GReg) (a : GReg) (b : GI) : Statement (.and h et d a b) :=
  framed_T rfl rfl (by decide) (oG_lt d) (oG_lt a) (oGI_lt b)
    (md_lt (by have := et.isLt; omega) (by decide) (by decide) (by decide) (by decide))
theorem or (h : Head) (et : EType) (d : GReg) (a : GReg) (b : GI) : Statement (.or h et d a b) :=
  framed_T rfl rfl (by decide) (oG_lt d) (oG_lt a) (oGI_lt b)
    (md_lt (by have := et.isLt; omega) (by decide) (by decide) (by decide) (by decide))
theorem xor (h : Head) (et : EType) (d : GReg) (a : GReg) (b : GI) : Statement (.xor h et d a b) :=
  framed_T rfl rfl (by decide) (oG_lt d) (oG_lt a) (oGI_lt b)
    (md_lt (by have := et.isLt; omega) (by decide) (by decide) (by decide) (by decide))
theorem andn (h : Head) (et : EType) (d : GReg) (a : GReg) (b : GI) : Statement (.andn h et d a b) :=
  framed_T rfl rfl (by decide) (oG_lt d) (oG_lt a) (oGI_lt b)
    (md_lt (by have := et.isLt; omega) (by decide) (by decide) (by decide) (by decide))
theorem shl (h : Head) (et : EType) (d : GReg) (a : GReg) (b : GI) : Statement (.shl h et d a b) :=
  framed_T rfl rfl (by decide) (oG_lt d) (oG_lt a) (oGI_lt b)
    (md_lt (by have := et.isLt; omega) (by decide) (by decide) (by decide) (by decide))
theorem shr (h : Head) (et : EType) (d : GReg) (a : GReg) (b : GI) : Statement (.shr h et d a b) :=
  framed_T rfl rfl (by decide) (oG_lt d) (oG_lt a) (oGI_lt b)
    (md_lt (by have := et.isLt; omega) (by decide) (by decide) (by decide) (by decide))
theorem sra (h : Head) (et : EType) (d : GReg) (a : GReg) (b : GI) : Statement (.sra h et d a b) :=
  framed_T rfl rfl (by decide) (oG_lt d) (oG_lt a) (oGI_lt b)
    (md_lt (by have := et.isLt; omega) (by decide) (by decide) (by decide) (by decide))
theorem rot (h : Head) (et : EType) (d : GReg) (a : GReg) (b : GI) : Statement (.rot h et d a b) :=
  framed_T rfl rfl (by decide) (oG_lt d) (oG_lt a) (oGI_lt b)
    (md_lt (by have := et.isLt; omega) (by decide) (by decide) (by decide) (by decide))
theorem min (h : Head) (et : EType) (d : GReg) (a : GReg) (b : GI) : Statement (.min h et d a b) :=
  framed_T rfl rfl (by decide) (oG_lt d) (oG_lt a) (oGI_lt b)
    (md_lt (by have := et.isLt; omega) (by decide) (by decide) (by decide) (by decide))
theorem max (h : Head) (et : EType) (d : GReg) (a : GReg) (b : GI) : Statement (.max h et d a b) :=
  framed_T rfl rfl (by decide) (oG_lt d) (oG_lt a) (oGI_lt b)
    (md_lt (by have := et.isLt; omega) (by decide) (by decide) (by decide) (by decide))
theorem minu (h : Head) (et : EType) (d : GReg) (a : GReg) (b : GI) : Statement (.minu h et d a b) :=
  framed_T rfl rfl (by decide) (oG_lt d) (oG_lt a) (oGI_lt b)
    (md_lt (by have := et.isLt; omega) (by decide) (by decide) (by decide) (by decide))
theorem maxu (h : Head) (et : EType) (d : GReg) (a : GReg) (b : GI) : Statement (.maxu h et d a b) :=
  framed_T rfl rfl (by decide) (oG_lt d) (oG_lt a) (oGI_lt b)
    (md_lt (by have := et.isLt; omega) (by decide) (by decide) (by decide) (by decide))
theorem cmp (h : Head) (et : EType) (cond : BitVec 3) (d : GReg) (a : GReg) (b : GI) : Statement (.cmp h et cond d a b) :=
  framed_T rfl rfl (by decide) (oG_lt d) (oG_lt a) (oGI_lt b)
    (md_lt (by have := et.isLt; omega) (by decide) (by decide) (by decide) (by have := cond.isLt; omega))
theorem sel (h : Head) (d : GReg) (a : GI) (b : GI) : Statement (.sel h d a b) :=
  framed_T rfl rfl (by decide) (oG_lt d) (oGI_lt a) (oGI_lt b)
    (md_lt (by decide) (by decide) (by decide) (by decide) (by decide))
theorem clz (h : Head) (et : EType) (d : GReg) (a : GReg) : Statement (.clz h et d a) :=
  framed_T rfl rfl (by decide) (oG_lt d) (oG_lt a) (by decide)
    (md_lt (by have := et.isLt; omega) (by decide) (by decide) (by decide) (by decide))
theorem ctz (h : Head) (et : EType) (d : GReg) (a : GReg) : Statement (.ctz h et d a) :=
  framed_T rfl rfl (by decide) (oG_lt d) (oG_lt a) (by decide)
    (md_lt (by have := et.isLt; omega) (by decide) (by decide) (by decide) (by decide))
theorem popc (h : Head) (et : EType) (d : GReg) (a : GReg) : Statement (.popc h et d a) :=
  framed_T rfl rfl (by decide) (oG_lt d) (oG_lt a) (by decide)
    (md_lt (by have := et.isLt; omega) (by decide) (by decide) (by decide) (by decide))
theorem bfx (h : Head) (et : EType) (d : GReg) (a : GReg) (b : GI) : Statement (.bfx h et d a b) :=
  framed_T rfl rfl (by decide) (oG_lt d) (oG_lt a) (oGI_lt b)
    (md_lt (by have := et.isLt; omega) (by decide) (by decide) (by decide) (by decide))
theorem bfi (h : Head) (et : EType) (d : GReg) (a : GReg) (b : GI) : Statement (.bfi h et d a b) :=
  framed_T rfl rfl (by decide) (oG_lt d) (oG_lt a) (oGI_lt b)
    (md_lt (by have := et.isLt; omega) (by decide) (by decide) (by decide) (by decide))
theorem sext (h : Head) (et : EType) (d : GReg) (a : GReg) : Statement (.sext h et d a) :=
  framed_T rfl rfl (by decide) (oG_lt d) (oG_lt a) (by decide)
    (md_lt (by have := et.isLt; omega) (by decide) (by decide) (by decide) (by decide))
theorem zext (h : Head) (et : EType) (d : GReg) (a : GReg) : Statement (.zext h et d a) :=
  framed_T rfl rfl (by decide) (oG_lt d) (oG_lt a) (by decide)
    (md_lt (by have := et.isLt; omega) (by decide) (by decide) (by decide) (by decide))
theorem li (h : Head) (d : GReg) (imm : Imm56) : Statement (.li h d imm) :=
  framed_L rfl rfl (by decide) (oG_lt d) (by have := imm.isLt; omega)
theorem lih (h : Head) (d : GReg) (imm : BitVec 8) : Statement (.lih h d imm) :=
  framed_L rfl rfl (by decide) (oG_lt d) (by have := imm.isLt; omega)
theorem mov (h : Head) (d : GReg) (a : GI) : Statement (.mov h d a) :=
  framed_T rfl rfl (by decide) (oG_lt d) (oGI_lt a) (by decide)
    (md_lt (by decide) (by decide) (by decide) (by decide) (by decide))
theorem padd (h : Head) (d : BReg) (a : BReg) (b : GI) : Statement (.padd h d a b) :=
  framed_T rfl rfl (by decide) (oB_lt d) (oB_lt a) (oGI_lt b)
    (md_lt (by decide) (by decide) (by decide) (by decide) (by decide))
theorem pset (h : Head) (d : BReg) (a : BReg) (b : GI) : Statement (.pset h d a b) :=
  framed_T rfl rfl (by decide) (oB_lt d) (oB_lt a) (oGI_lt b)
    (md_lt (by decide) (by decide) (by decide) (by decide) (by decide))
theorem pget (h : Head) (sel : BitVec 3) (d : GReg) (a : BReg) : Statement (.pget h sel d a) :=
  framed_T rfl rfl (by decide) (oG_lt d) (oB_lt a) (by decide)
    (md_lt (by decide) (by decide) (by decide) (by decide) (by have := sel.isLt; omega))
theorem pnarrow (h : Head) (d : BReg) (a : BReg) (b : GI) : Statement (.pnarrow h d a b) :=
  framed_T rfl rfl (by decide) (oB_lt d) (oB_lt a) (oGI_lt b)
    (md_lt (by decide) (by decide) (by decide) (by decide) (by decide))
theorem pperm (h : Head) (d : BReg) (a : BReg) (b : GI) : Statement (.pperm h d a b) :=
  framed_T rfl rfl (by decide) (oB_lt d) (oB_lt a) (oGI_lt b)
    (md_lt (by decide) (by decide) (by decide) (by decide) (by decide))
theorem pchk (h : Head) (d : GReg) (a : BReg) (b : GReg) : Statement (.pchk h d a b) :=
  framed_T rfl rfl (by decide) (oG_lt d) (oB_lt a) (oG_lt b)
    (md_lt (by decide) (by decide) (by decide) (by decide) (by decide))
theorem psub (h : Head) (d : GReg) (a : BReg) (b : BReg) : Statement (.psub h d a b) :=
  framed_T rfl rfl (by decide) (oG_lt d) (oB_lt a) (oB_lt b)
    (md_lt (by decide) (by decide) (by decide) (by decide) (by decide))
theorem pmov (h : Head) (d : BReg) (a : BReg) : Statement (.pmov h d a) :=
  framed_T rfl rfl (by decide) (oB_lt d) (oB_lt a) (by decide)
    (md_lt (by decide) (by decide) (by decide) (by decide) (by decide))
theorem ptag (h : Head) (d : GReg) (a : BReg) : Statement (.ptag h d a) :=
  framed_T rfl rfl (by decide) (oG_lt d) (oB_lt a) (by decide)
    (md_lt (by decide) (by decide) (by decide) (by decide) (by decide))
theorem ld (h : Head) (et : EType) (od : Ord3) (sc : Scope3) (d : GReg) (a : MQ) : Statement (.ld h et od sc d a) :=
  framed_T rfl rfl (by decide) (oG_lt d) (oMQ_lt a) (by decide)
    (md_lt (by have := et.isLt; omega) (by decide) (by have := od.isLt; omega) (by have := sc.isLt; omega) (by decide))
theorem st (h : Head) (et : EType) (od : Ord3) (sc : Scope3) (d : MQ) (a : GI) : Statement (.st h et od sc d a) :=
  framed_T rfl rfl (by decide) (oMQ_lt d) (oGI_lt a) (by decide)
    (md_lt (by have := et.isLt; omega) (by decide) (by have := od.isLt; omega) (by have := sc.isLt; omega) (by decide))
theorem atom (h : Head) (et : EType) (od : Ord3) (sc : Scope3) (op : BitVec 3) (d : GReg) (a : MemOp) (b : GI) : Statement (.atom h et od sc op d a b) :=
  framed_T rfl rfl (by decide) (oG_lt d) (oMem_lt a) (oGI_lt b)
    (md_lt (by have := et.isLt; omega) (by decide) (by have := od.isLt; omega) (by have := sc.isLt; omega) (by have := op.isLt; omega))
theorem cas (h : Head) (et : EType) (od : Ord3) (sc : Scope3) (d : GReg) (a : MemOp) (b : GReg) : Statement (.cas h et od sc d a b) :=
  framed_T rfl rfl (by decide) (oG_lt d) (oMem_lt a) (oG_lt b)
    (md_lt (by have := et.isLt; omega) (by decide) (by have := od.isLt; omega) (by have := sc.isLt; omega) (by decide))
theorem fence (h : Head) (od : Ord3) (sc : Scope3) : Statement (.fence h od sc) :=
  framed_T rfl rfl (by decide) (by decide) (by decide) (by decide)
    (md_lt (by decide) (by decide) (by have := od.isLt; omega) (by have := sc.isLt; omega) (by decide))
theorem fflag (h : Head) (et : EType) (sc : Scope3) (d : MemOp) (a : GI) : Statement (.fflag h et sc d a) :=
  framed_T rfl rfl (by decide) (oMem_lt d) (oGI_lt a) (by decide)
    (md_lt (by have := et.isLt; omega) (by decide) (by decide) (by have := sc.isLt; omega) (by decide))
theorem pld (h : Head) (d : BReg) (a : MemOp) : Statement (.pld h d a) :=
  framed_T rfl rfl (by decide) (oB_lt d) (oMem_lt a) (by decide)
    (md_lt (by decide) (by decide) (by decide) (by decide) (by decide))
theorem pst (h : Head) (d : MemOp) (a : BReg) : Statement (.pst h d a) :=
  framed_T rfl rfl (by decide) (oMem_lt d) (oB_lt a) (by decide)
    (md_lt (by decide) (by decide) (by decide) (by decide) (by decide))
theorem pref (h : Head) (wr : Bool) (d : MemOp) : Statement (.pref h wr d) :=
  framed_T rfl rfl (by decide) (oMem_lt d) (by decide) (by decide)
    (md_lt (by decide) (by decide) (by decide) (by decide) (by have := wr.toNat_le; omega))
theorem vadd (h : Head) (et : EType) (sat : Bool) (d : VReg) (a : VGI) (m : Option MReg) : Statement (.vadd h et sat d a m) :=
  framed_T rfl rfl (by decide) (oV_lt d) (oVGI_lt a) (oOM_lt m)
    (md_lt (by have := et.isLt; omega) (by decide) (by decide) (by decide) (by have := sat.toNat_le; omega))
theorem vsub (h : Head) (et : EType) (sat : Bool) (d : VReg) (a : VGI) (m : Option MReg) : Statement (.vsub h et sat d a m) :=
  framed_T rfl rfl (by decide) (oV_lt d) (oVGI_lt a) (oOM_lt m)
    (md_lt (by have := et.isLt; omega) (by decide) (by decide) (by decide) (by have := sat.toNat_le; omega))
theorem vmul (h : Head) (et : EType) (d : VReg) (a : VGI) (m : Option MReg) : Statement (.vmul h et d a m) :=
  framed_T rfl rfl (by decide) (oV_lt d) (oVGI_lt a) (oOM_lt m)
    (md_lt (by have := et.isLt; omega) (by decide) (by decide) (by decide) (by decide))
theorem vmulh (h : Head) (et : EType) (d : VReg) (a : VGI) (m : Option MReg) : Statement (.vmulh h et d a m) :=
  framed_T rfl rfl (by decide) (oV_lt d) (oVGI_lt a) (oOM_lt m)
    (md_lt (by have := et.isLt; omega) (by decide) (by decide) (by decide) (by decide))
theorem vmad (h : Head) (et : EType) (d : VReg) (a : VReg) (b : VGI) : Statement (.vmad h et d a b) :=
  framed_T rfl rfl (by decide) (oV_lt d) (oV_lt a) (oVGI_lt b)
    (md_lt (by have := et.isLt; omega) (by decide) (by decide) (by decide) (by decide))
theorem vmin (h : Head) (et : EType) (d : VReg) (a : VGI) (m : Option MReg) : Statement (.vmin h et d a m) :=
  framed_T rfl rfl (by decide) (oV_lt d) (oVGI_lt a) (oOM_lt m)
    (md_lt (by have := et.isLt; omega) (by decide) (by decide) (by decide) (by decide))
theorem vmax (h : Head) (et : EType) (d : VReg) (a : VGI) (m : Option MReg) : Statement (.vmax h et d a m) :=
  framed_T rfl rfl (by decide) (oV_lt d) (oVGI_lt a) (oOM_lt m)
    (md_lt (by have := et.isLt; omega) (by decide) (by decide) (by decide) (by decide))
theorem vabs (h : Head) (et : EType) (sat : Bool) (d : VReg) (a : VReg) (m : Option MReg) : Statement (.vabs h et sat d a m) :=
  framed_T rfl rfl (by decide) (oV_lt d) (oV_lt a) (oOM_lt m)
    (md_lt (by have := et.isLt; omega) (by decide) (by decide) (by decide) (by have := sat.toNat_le; omega))
theorem vneg (h : Head) (et : EType) (sat : Bool) (d : VReg) (a : VReg) (m : Option MReg) : Statement (.vneg h et sat d a m) :=
  framed_T rfl rfl (by decide) (oV_lt d) (oV_lt a) (oOM_lt m)
    (md_lt (by have := et.isLt; omega) (by decide) (by decide) (by decide) (by have := sat.toNat_le; omega))
theorem vand (h : Head) (et : EType) (d : VReg) (a : VGI) (m : Option MReg) : Statement (.vand h et d a m) :=
  framed_T rfl rfl (by decide) (oV_lt d) (oVGI_lt a) (oOM_lt m)
    (md_lt (by have := et.isLt; omega) (by decide) (by decide) (by decide) (by decide))
theorem vor (h : Head) (et : EType) (d : VReg) (a : VGI) (m : Option MReg) : Statement (.vor h et d a m) :=
  framed_T rfl rfl (by decide) (oV_lt d) (oVGI_lt a) (oOM_lt m)
    (md_lt (by have := et.isLt; omega) (by decide) (by decide) (by decide) (by decide))
theorem vxor (h : Head) (et : EType) (d : VReg) (a : VGI) (m : Option MReg) : Statement (.vxor h et d a m) :=
  framed_T rfl rfl (by decide) (oV_lt d) (oVGI_lt a) (oOM_lt m)
    (md_lt (by have := et.isLt; omega) (by decide) (by decide) (by decide) (by decide))
theorem vnot (h : Head) (et : EType) (d : VReg) (a : VReg) (m : Option MReg) : Statement (.vnot h et d a m) :=
  framed_T rfl rfl (by decide) (oV_lt d) (oV_lt a) (oOM_lt m)
    (md_lt (by have := et.isLt; omega) (by decide) (by decide) (by decide) (by decide))
theorem vshl (h : Head) (et : EType) (d : VReg) (a : VGI) (m : Option MReg) : Statement (.vshl h et d a m) :=
  framed_T rfl rfl (by decide) (oV_lt d) (oVGI_lt a) (oOM_lt m)
    (md_lt (by have := et.isLt; omega) (by decide) (by decide) (by decide) (by decide))
theorem vshr (h : Head) (et : EType) (d : VReg) (a : VGI) (m : Option MReg) : Statement (.vshr h et d a m) :=
  framed_T rfl rfl (by decide) (oV_lt d) (oVGI_lt a) (oOM_lt m)
    (md_lt (by have := et.isLt; omega) (by decide) (by decide) (by decide) (by decide))
theorem vsra (h : Head) (et : EType) (d : VReg) (a : VGI) (m : Option MReg) : Statement (.vsra h et d a m) :=
  framed_T rfl rfl (by decide) (oV_lt d) (oVGI_lt a) (oOM_lt m)
    (md_lt (by have := et.isLt; omega) (by decide) (by decide) (by decide) (by decide))
theorem vcmp (h : Head) (et : EType) (cond : BitVec 3) (d : MReg) (a : VReg) (b : VGI) : Statement (.vcmp h et cond d a b) :=
  framed_T rfl rfl (by decide) (oM_lt d) (oV_lt a) (oVGI_lt b)
    (md_lt (by have := et.isLt; omega) (by decide) (by decide) (by decide) (by have := cond.isLt; omega))
theorem vsel (h : Head) (et : EType) (d : VReg) (a : VGI) (m : MReg) : Statement (.vsel h et d a m) :=
  framed_T rfl rfl (by decide) (oV_lt d) (oVGI_lt a) (oM_lt m)
    (md_lt (by have := et.isLt; omega) (by decide) (by decide) (by decide) (by decide))
theorem vmov (h : Head) (d : VReg) (a : VReg) : Statement (.vmov h d a) :=
  framed_T rfl rfl (by decide) (oV_lt d) (oV_lt a) (by decide)
    (md_lt (by decide) (by decide) (by decide) (by decide) (by decide))
theorem vbcast (h : Head) (et : EType) (d : VReg) (a : VReg) (b : GI) : Statement (.vbcast h et d a b) :=
  framed_T rfl rfl (by decide) (oV_lt d) (oV_lt a) (oGI_lt b)
    (md_lt (by have := et.isLt; omega) (by decide) (by decide) (by decide) (by decide))
theorem vextr (h : Head) (et : EType) (d : GReg) (a : VReg) (b : GI) : Statement (.vextr h et d a b) :=
  framed_T rfl rfl (by decide) (oG_lt d) (oV_lt a) (oGI_lt b)
    (md_lt (by have := et.isLt; omega) (by decide) (by decide) (by decide) (by decide))
theorem vins (h : Head) (et : EType) (d : VReg) (a : GI) (b : GI) : Statement (.vins h et d a b) :=
  framed_T rfl rfl (by decide) (oV_lt d) (oGI_lt a) (oGI_lt b)
    (md_lt (by have := et.isLt; omega) (by decide) (by decide) (by decide) (by decide))
theorem viota (h : Head) (et : EType) (d : VReg) (a : GI) (b : GI) : Statement (.viota h et d a b) :=
  framed_T rfl rfl (by decide) (oV_lt d) (oGI_lt a) (oGI_lt b)
    (md_lt (by have := et.isLt; omega) (by decide) (by decide) (by decide) (by decide))
theorem lbc (h : Head) (et : EType) (d : MReg) (a : GReg) (b : GI) : Statement (.lbc h et d a b) :=
  framed_T rfl rfl (by decide) (oM_lt d) (oG_lt a) (oGI_lt b)
    (md_lt (by have := et.isLt; omega) (by decide) (by decide) (by decide) (by decide))
theorem vwid (h : Head) (d : GReg) : Statement (.vwid h d) :=
  framed_T rfl rfl (by decide) (oG_lt d) (by decide) (by decide)
    (md_lt (by decide) (by decide) (by decide) (by decide) (by decide))
theorem kand (h : Head) (d : MReg) (a : MReg) (b : MReg) : Statement (.kand h d a b) :=
  framed_T rfl rfl (by decide) (oM_lt d) (oM_lt a) (oM_lt b)
    (md_lt (by decide) (by decide) (by decide) (by decide) (by decide))
theorem kor (h : Head) (d : MReg) (a : MReg) (b : MReg) : Statement (.kor h d a b) :=
  framed_T rfl rfl (by decide) (oM_lt d) (oM_lt a) (oM_lt b)
    (md_lt (by decide) (by decide) (by decide) (by decide) (by decide))
theorem knot (h : Head) (d : MReg) (a : MReg) : Statement (.knot h d a) :=
  framed_T rfl rfl (by decide) (oM_lt d) (oM_lt a) (by decide)
    (md_lt (by decide) (by decide) (by decide) (by decide) (by decide))
theorem kpopc (h : Head) (et : EType) (d : GReg) (a : MReg) : Statement (.kpopc h et d a) :=
  framed_T rfl rfl (by decide) (oG_lt d) (oM_lt a) (by decide)
    (md_lt (by have := et.isLt; omega) (by decide) (by decide) (by decide) (by decide))
theorem kfirst (h : Head) (et : EType) (d : GReg) (a : MReg) : Statement (.kfirst h et d a) :=
  framed_T rfl rfl (by decide) (oG_lt d) (oM_lt a) (by decide)
    (md_lt (by have := et.isLt; omega) (by decide) (by decide) (by decide) (by decide))
theorem vfadd (h : Head) (et : EType) (rnd : Rnd) (d : VReg) (a : VG) (m : Option MReg) : Statement (.vfadd h et rnd d a m) :=
  framed_T rfl rfl (by decide) (oV_lt d) (oVG_lt a) (oOM_lt m)
    (md_lt (by have := et.isLt; omega) (by have := rnd.isLt; omega) (by decide) (by decide) (by decide))
theorem vfsub (h : Head) (et : EType) (rnd : Rnd) (d : VReg) (a : VG) (m : Option MReg) : Statement (.vfsub h et rnd d a m) :=
  framed_T rfl rfl (by decide) (oV_lt d) (oVG_lt a) (oOM_lt m)
    (md_lt (by have := et.isLt; omega) (by have := rnd.isLt; omega) (by decide) (by decide) (by decide))
theorem vfmul (h : Head) (et : EType) (rnd : Rnd) (d : VReg) (a : VG) (m : Option MReg) : Statement (.vfmul h et rnd d a m) :=
  framed_T rfl rfl (by decide) (oV_lt d) (oVG_lt a) (oOM_lt m)
    (md_lt (by have := et.isLt; omega) (by have := rnd.isLt; omega) (by decide) (by decide) (by decide))
theorem vfma (h : Head) (et : EType) (rnd : Rnd) (d : VReg) (a : VReg) (b : VG) : Statement (.vfma h et rnd d a b) :=
  framed_T rfl rfl (by decide) (oV_lt d) (oV_lt a) (oVG_lt b)
    (md_lt (by have := et.isLt; omega) (by have := rnd.isLt; omega) (by decide) (by decide) (by decide))
theorem vfms (h : Head) (et : EType) (rnd : Rnd) (d : VReg) (a : VReg) (b : VG) : Statement (.vfms h et rnd d a b) :=
  framed_T rfl rfl (by decide) (oV_lt d) (oV_lt a) (oVG_lt b)
    (md_lt (by have := et.isLt; omega) (by have := rnd.isLt; omega) (by decide) (by decide) (by decide))
theorem vfnma (h : Head) (et : EType) (rnd : Rnd) (d : VReg) (a : VReg) (b : VG) : Statement (.vfnma h et rnd d a b) :=
  framed_T rfl rfl (by decide) (oV_lt d) (oV_lt a) (oVG_lt b)
    (md_lt (by have := et.isLt; omega) (by have := rnd.isLt; omega) (by decide) (by decide) (by decide))
theorem vfmin (h : Head) (et : EType) (d : VReg) (a : VG) (m : Option MReg) : Statement (.vfmin h et d a m) :=
  framed_T rfl rfl (by decide) (oV_lt d) (oVG_lt a) (oOM_lt m)
    (md_lt (by have := et.isLt; omega) (by decide) (by decide) (by decide) (by decide))
theorem vfmax (h : Head) (et : EType) (d : VReg) (a : VG) (m : Option MReg) : Statement (.vfmax h et d a m) :=
  framed_T rfl rfl (by decide) (oV_lt d) (oVG_lt a) (oOM_lt m)
    (md_lt (by have := et.isLt; omega) (by decide) (by decide) (by decide) (by decide))
theorem vfabs (h : Head) (et : EType) (d : VReg) (a : VReg) (m : Option MReg) : Statement (.vfabs h et d a m) :=
  framed_T rfl rfl (by decide) (oV_lt d) (oV_lt a) (oOM_lt m)
    (md_lt (by have := et.isLt; omega) (by decide) (by decide) (by decide) (by decide))
theorem vfneg (h : Head) (et : EType) (d : VReg) (a : VReg) (m : Option MReg) : Statement (.vfneg h et d a m) :=
  framed_T rfl rfl (by decide) (oV_lt d) (oV_lt a) (oOM_lt m)
    (md_lt (by have := et.isLt; omega) (by decide) (by decide) (by decide) (by decide))
theorem vfcmp (h : Head) (et : EType) (cond : BitVec 3) (d : MReg) (a : VReg) (b : VG) : Statement (.vfcmp h et cond d a b) :=
  framed_T rfl rfl (by decide) (oM_lt d) (oV_lt a) (oVG_lt b)
    (md_lt (by have := et.isLt; omega) (by decide) (by decide) (by decide) (by have := cond.isLt; omega))
theorem vred (h : Head) (et : EType) (rnd : Rnd) (op : BitVec 2) (d : GReg) (a : VReg) (m : Option MReg) : Statement (.vred h et rnd op d a m) :=
  framed_T rfl rfl (by decide) (oG_lt d) (oV_lt a) (oOM_lt m)
    (md_lt (by have := et.isLt; omega) (by have := rnd.isLt; omega) (by decide) (by decide) (by have := op.isLt; omega))
theorem vfclass (h : Head) (et : EType) (d : VReg) (a : VReg) (m : Option MReg) : Statement (.vfclass h et d a m) :=
  framed_T rfl rfl (by decide) (oV_lt d) (oV_lt a) (oOM_lt m)
    (md_lt (by have := et.isLt; omega) (by decide) (by decide) (by decide) (by decide))
theorem vcvt (h : Head) (et : EType) (src : EType) (rnd : Rnd) (sat : Bool) (part : BitVec 2) (d : VReg) (a : VReg) (m : Option MReg) : Statement (.vcvt h et src rnd sat part d a m) :=
  framed_T rfl rfl (by decide) (oV_lt d) (oV_lt a) (oOM_lt m)
    (md_lt (by have := et.isLt; omega) (by have := rnd.isLt; omega) (by decide) (by decide) (by have := src.isLt; have := sat.toNat_le; have := part.isLt; omega))
theorem vpack2 (h : Head) (et : EType) (rnd : Rnd) (sat : Bool) (d : VReg) (a : VReg) (b : VReg) : Statement (.vpack2 h et rnd sat d a b) :=
  framed_T rfl rfl (by decide) (oV_lt d) (oV_lt a) (oV_lt b)
    (md_lt (by have := et.isLt; omega) (by have := rnd.isLt; omega) (by decide) (by decide) (by have := sat.toNat_le; omega))
theorem vpack4 (h : Head) (et : EType) (rnd : Rnd) (sat : Bool) (half : Bool) (d : VReg) (a : VReg) : Statement (.vpack4 h et rnd sat half d a) :=
  framed_T rfl rfl (by decide) (oV_lt d) (oV_lt a) (by decide)
    (md_lt (by have := et.isLt; omega) (by have := rnd.isLt; omega) (by decide) (by decide) (by have := sat.toNat_le; have := half.toNat_le; omega))
theorem vunpk (h : Head) (et : EType) (part : BitVec 3) (d : VReg) (a : VReg) (b : Option GReg) : Statement (.vunpk h et part d a b) :=
  framed_T rfl rfl (by decide) (oV_lt d) (oV_lt a) (oOG_lt b)
    (md_lt (by have := et.isLt; omega) (by decide) (by decide) (by decide) (by have := part.isLt; omega))
theorem vperm (h : Head) (et : EType) (d : VReg) (a : VReg) (b : VReg) : Statement (.vperm h et d a b) :=
  framed_T rfl rfl (by decide) (oV_lt d) (oV_lt a) (oV_lt b)
    (md_lt (by have := et.isLt; omega) (by decide) (by decide) (by decide) (by decide))
theorem vslide (h : Head) (et : EType) (d : VReg) (a : VReg) (b : GI) : Statement (.vslide h et d a b) :=
  framed_T rfl rfl (by decide) (oV_lt d) (oV_lt a) (oGI_lt b)
    (md_lt (by have := et.isLt; omega) (by decide) (by decide) (by decide) (by decide))
theorem vzip (h : Head) (et : EType) (hi : Bool) (d : VReg) (a : VReg) (b : VReg) : Statement (.vzip h et hi d a b) :=
  framed_T rfl rfl (by decide) (oV_lt d) (oV_lt a) (oV_lt b)
    (md_lt (by have := et.isLt; omega) (by decide) (by decide) (by decide) (by have := hi.toNat_le; omega))
theorem vuzp (h : Head) (et : EType) (hi : Bool) (d : VReg) (a : VReg) (b : VReg) : Statement (.vuzp h et hi d a b) :=
  framed_T rfl rfl (by decide) (oV_lt d) (oV_lt a) (oV_lt b)
    (md_lt (by have := et.isLt; omega) (by decide) (by decide) (by decide) (by have := hi.toNat_le; omega))
theorem vexp2 (h : Head) (d : VReg) (a : VReg) (m : Option MReg) : Statement (.vexp2 h d a m) :=
  framed_T rfl rfl (by decide) (oV_lt d) (oV_lt a) (oOM_lt m)
    (md_lt (by decide) (by decide) (by decide) (by decide) (by decide))
theorem vlog2 (h : Head) (d : VReg) (a : VReg) (m : Option MReg) : Statement (.vlog2 h d a m) :=
  framed_T rfl rfl (by decide) (oV_lt d) (oV_lt a) (oOM_lt m)
    (md_lt (by decide) (by decide) (by decide) (by decide) (by decide))
theorem vrcp (h : Head) (rnd : Rnd) (d : VReg) (a : VReg) (m : Option MReg) : Statement (.vrcp h rnd d a m) :=
  framed_T rfl rfl (by decide) (oV_lt d) (oV_lt a) (oOM_lt m)
    (md_lt (by decide) (by have := rnd.isLt; omega) (by decide) (by decide) (by decide))
theorem vrsq (h : Head) (rnd : Rnd) (d : VReg) (a : VReg) (m : Option MReg) : Statement (.vrsq h rnd d a m) :=
  framed_T rfl rfl (by decide) (oV_lt d) (oV_lt a) (oOM_lt m)
    (md_lt (by decide) (by have := rnd.isLt; omega) (by decide) (by decide) (by decide))
theorem vsin (h : Head) (d : VReg) (a : VReg) (m : Option MReg) : Statement (.vsin h d a m) :=
  framed_T rfl rfl (by decide) (oV_lt d) (oV_lt a) (oOM_lt m)
    (md_lt (by decide) (by decide) (by decide) (by decide) (by decide))
theorem vcos (h : Head) (d : VReg) (a : VReg) (m : Option MReg) : Statement (.vcos h d a m) :=
  framed_T rfl rfl (by decide) (oV_lt d) (oV_lt a) (oOM_lt m)
    (md_lt (by decide) (by decide) (by decide) (by decide) (by decide))
theorem vtanh (h : Head) (d : VReg) (a : VReg) (m : Option MReg) : Statement (.vtanh h d a m) :=
  framed_T rfl rfl (by decide) (oV_lt d) (oV_lt a) (oOM_lt m)
    (md_lt (by decide) (by decide) (by decide) (by decide) (by decide))
theorem vld (h : Head) (et : EType) (d : VReg) (a : MQ) (m : Option MReg) : Statement (.vld h et d a m) :=
  framed_T rfl rfl (by decide) (oV_lt d) (oMQ_lt a) (oOM_lt m)
    (md_lt (by have := et.isLt; omega) (by decide) (by decide) (by decide) (by decide))
theorem vst (h : Head) (et : EType) (d : MQ) (a : VReg) (m : Option MReg) : Statement (.vst h et d a m) :=
  framed_T rfl rfl (by decide) (oMQ_lt d) (oV_lt a) (oOM_lt m)
    (md_lt (by have := et.isLt; omega) (by decide) (by decide) (by decide) (by decide))
theorem vlds (h : Head) (et : EType) (d : VReg) (a : MemOp) (b : GReg) : Statement (.vlds h et d a b) :=
  framed_T rfl rfl (by decide) (oV_lt d) (oMem_lt a) (oG_lt b)
    (md_lt (by have := et.isLt; omega) (by decide) (by decide) (by decide) (by decide))
theorem vsts (h : Head) (et : EType) (d : MemOp) (a : VReg) (b : GReg) : Statement (.vsts h et d a b) :=
  framed_T rfl rfl (by decide) (oMem_lt d) (oV_lt a) (oG_lt b)
    (md_lt (by have := et.isLt; omega) (by decide) (by decide) (by decide) (by decide))
theorem vgath (h : Head) (et : EType) (d : VReg) (a : MemOp) (b : VReg) : Statement (.vgath h et d a b) :=
  framed_T rfl rfl (by decide) (oV_lt d) (oMem_lt a) (oV_lt b)
    (md_lt (by have := et.isLt; omega) (by decide) (by decide) (by decide) (by decide))
theorem vscat (h : Head) (et : EType) (d : MemOp) (a : VReg) (b : VReg) : Statement (.vscat h et d a b) :=
  framed_T rfl rfl (by decide) (oMem_lt d) (oV_lt a) (oV_lt b)
    (md_lt (by have := et.isLt; omega) (by decide) (by decide) (by decide) (by decide))
theorem vldb (h : Head) (et : EType) (d : VReg) (a : MemOp) (m : Option MReg) : Statement (.vldb h et d a m) :=
  framed_T rfl rfl (by decide) (oV_lt d) (oMem_lt a) (oOM_lt m)
    (md_lt (by have := et.isLt; omega) (by decide) (by decide) (by decide) (by decide))
theorem send (h : Head) (len : BitVec 6) (noinh : Bool) (d : GReg) (a : GI) (b : Option BReg) : Statement (.send h len noinh d a b) :=
  framed_T rfl rfl (by decide) (oG_lt d) (oGI_lt a) (oOB_lt b)
    (md_lt (by decide) (by decide) (by decide) (by decide) (by have := len.isLt; have := noinh.toNat_le; omega))
theorem sendm (h : Head) (len : BitVec 6) (noinh : Bool) (d : BReg) (a : GI) (b : Option BReg) : Statement (.sendm h len noinh d a b) :=
  framed_T rfl rfl (by decide) (oB_lt d) (oGI_lt a) (oOB_lt b)
    (md_lt (by decide) (by decide) (by decide) (by decide) (by have := len.isLt; have := noinh.toNat_le; omega))
theorem post (h : Head) (d : Option BReg) (a : GReg) (b : Option BReg) : Statement (.post h d a b) :=
  framed_T rfl rfl (by decide) (oOB_lt d) (oG_lt a) (oOB_lt b)
    (md_lt (by decide) (by decide) (by decide) (by decide) (by decide))
theorem join (h : Head) (d : BReg) (a : GI) : Statement (.join h d a) :=
  framed_T rfl rfl (by decide) (oB_lt d) (oGI_lt a) (by decide)
    (md_lt (by decide) (by decide) (by decide) (by decide) (by decide))
theorem qadv (h : Head) (d : QOp) : Statement (.qadv h d) :=
  framed_T rfl rfl (by decide) (oQ_lt d) (by decide) (by decide)
    (md_lt (by decide) (by decide) (by decide) (by decide) (by decide))
theorem qstat (h : Head) (d : GReg) (a : QOp) : Statement (.qstat h d a) :=
  framed_T rfl rfl (by decide) (oG_lt d) (oQ_lt a) (by decide)
    (md_lt (by decide) (by decide) (by decide) (by decide) (by decide))
theorem qbind (h : Head) (d : QOp) (a : GI) : Statement (.qbind h d a) :=
  framed_T rfl rfl (by decide) (oQ_lt d) (oGI_lt a) (by decide)
    (md_lt (by decide) (by decide) (by decide) (by decide) (by decide))
theorem qbindInit (h : Head) (d : QOp) (a : GI) (b : GReg) : Statement (.qbindInit h d a b) :=
  framed_T rfl rfl (by decide) (oQ_lt d) (oGI_lt a) (oG_lt b)
    (md_lt (by decide) (by decide) (by decide) (by decide) (by decide))
theorem semv (h : Head) (d : GI) (a : GI) (b : Option BReg) : Statement (.semv h d a b) :=
  framed_T rfl rfl (by decide) (oGI_lt d) (oGI_lt a) (oOB_lt b)
    (md_lt (by decide) (by decide) (by decide) (by decide) (by decide))
theorem semq (h : Head) (d : GReg) (a : GI) (b : Option BReg) : Statement (.semq h d a b) :=
  framed_T rfl rfl (by decide) (oG_lt d) (oGI_lt a) (oOB_lt b)
    (md_lt (by decide) (by decide) (by decide) (by decide) (by decide))
theorem swset (h : Head) (keep : Bool) (bump : Bool) (d : GI) (a : GReg) (b : GI) : Statement (.swset h keep bump d a b) :=
  framed_T rfl rfl (by decide) (oGI_lt d) (oG_lt a) (oGI_lt b)
    (md_lt (by decide) (by decide) (by decide) (by decide) (by have := keep.toNat_le; have := bump.toNat_le; omega))
theorem swread (h : Head) (hi : Bool) (d : GReg) (a : GI) : Statement (.swread h hi d a) :=
  framed_T rfl rfl (by decide) (oG_lt d) (oGI_lt a) (by decide)
    (md_lt (by decide) (by decide) (by decide) (by decide) (by have := hi.toNat_le; omega))
theorem sclaim (h : Head) (d : GReg) (a : GI) : Statement (.sclaim h d a) :=
  framed_T rfl rfl (by decide) (oG_lt d) (oGI_lt a) (by decide)
    (md_lt (by decide) (by decide) (by decide) (by decide) (by decide))
theorem srel (h : Head) (d : GI) (a : GI) : Statement (.srel h d a) :=
  framed_T rfl rfl (by decide) (oGI_lt d) (oGI_lt a) (by decide)
    (md_lt (by decide) (by decide) (by decide) (by decide) (by decide))
theorem sload (h : Head) (od : Ord3) (sc : Scope3) (d : GI) (a : MemOp) (b : GReg) : Statement (.sload h od sc d a b) :=
  framed_T rfl rfl (by decide) (oGI_lt d) (oMem_lt a) (oG_lt b)
    (md_lt (by decide) (by decide) (by have := od.isLt; omega) (by have := sc.isLt; omega) (by decide))
theorem ssave (h : Head) (od : Ord3) (sc : Scope3) (d : MemOp) (a : GI) (b : GReg) : Statement (.ssave h od sc d a b) :=
  framed_T rfl rfl (by decide) (oMem_lt d) (oGI_lt a) (oG_lt b)
    (md_lt (by decide) (by decide) (by have := od.isLt; omega) (by have := sc.isLt; omega) (by decide))
theorem mwld (h : Head) (et : EType) (nib : Bool) (d : GI) : Statement (.mwld h et nib d) :=
  framed_T rfl rfl (by decide) (oGI_lt d) (by decide) (by decide)
    (md_lt (by have := et.isLt; omega) (by decide) (by decide) (by decide) (by have := nib.toNat_le; omega))
theorem mgang (h : Head) (et : EType) (nib : Bool) (d : GReg) (a : GI) : Statement (.mgang h et nib d a) :=
  framed_T rfl rfl (by decide) (oG_lt d) (oGI_lt a) (by decide)
    (md_lt (by have := et.isLt; omega) (by decide) (by decide) (by decide) (by have := nib.toNat_le; omega))
theorem mzero (h : Head) (d : GReg) : Statement (.mzero h d) :=
  framed_T rfl rfl (by decide) (oG_lt d) (by decide) (by decide)
    (md_lt (by decide) (by decide) (by decide) (by decide) (by decide))
theorem maccld (h : Head) (et : EType) (d : GReg) (a : MemOp) : Statement (.maccld h et d a) :=
  framed_T rfl rfl (by decide) (oG_lt d) (oMem_lt a) (by decide)
    (md_lt (by have := et.isLt; omega) (by decide) (by decide) (by decide) (by decide))
theorem mdrain (h : Head) (et : EType) (rnd : Rnd) (od : Ord3) (sc : Scope3) (d : GReg) (a : BReg) (b : GReg) : Statement (.mdrain h et rnd od sc d a b) :=
  framed_T rfl rfl (by decide) (oG_lt d) (oB_lt a) (oG_lt b)
    (md_lt (by have := et.isLt; omega) (by have := rnd.isLt; omega) (by have := od.isLt; omega) (by have := sc.isLt; omega) (by decide))
theorem mdrainRq (h : Head) (et : EType) (rnd : Rnd) (od : Ord3) (sc : Scope3) (d : GReg) (a : BReg) (b : GReg) : Statement (.mdrainRq h et rnd od sc d a b) :=
  framed_T rfl rfl (by decide) (oG_lt d) (oB_lt a) (oG_lt b)
    (md_lt (by have := et.isLt; omega) (by have := rnd.isLt; omega) (by have := od.isLt; omega) (by have := sc.isLt; omega) (by decide))
theorem mstat (h : Head) (d : GReg) (a : GI) : Statement (.mstat h d a) :=
  framed_T rfl rfl (by decide) (oG_lt d) (oGI_lt a) (by decide)
    (md_lt (by decide) (by decide) (by decide) (by decide) (by decide))
theorem mstatClr (h : Head) (d : GReg) (a : GI) : Statement (.mstatClr h d a) :=
  framed_T rfl rfl (by decide) (oG_lt d) (oGI_lt a) (by decide)
    (md_lt (by decide) (by decide) (by decide) (by decide) (by decide))
theorem mtwid (h : Head) (d : GReg) (a : GReg) : Statement (.mtwid h d a) :=
  framed_T rfl rfl (by decide) (oG_lt d) (oG_lt a) (by decide)
    (md_lt (by decide) (by decide) (by decide) (by decide) (by decide))
theorem mdrev (h : Head) (d : GI) (a : GI) : Statement (.mdrev h d a) :=
  framed_T rfl rfl (by decide) (oGI_lt d) (oGI_lt a) (by decide)
    (md_lt (by decide) (by decide) (by decide) (by decide) (by decide))
theorem mbfly (h : Head) (scale : BitVec 3) (d : GI) (a : GI) (b : GReg) : Statement (.mbfly h scale d a b) :=
  framed_T rfl rfl (by decide) (oGI_lt d) (oGI_lt a) (oG_lt b)
    (md_lt (by decide) (by decide) (by decide) (by decide) (by have := scale.isLt; omega))
theorem mbexp (h : Head) (d : GReg) (a : GI) : Statement (.mbexp h d a) :=
  framed_T rfl rfl (by decide) (oG_lt d) (oGI_lt a) (by decide)
    (md_lt (by decide) (by decide) (by decide) (by decide) (by decide))
theorem mbexpSet (h : Head) (d : GReg) (a : GI) (b : GI) : Statement (.mbexpSet h d a b) :=
  framed_T rfl rfl (by decide) (oG_lt d) (oGI_lt a) (oGI_lt b)
    (md_lt (by decide) (by decide) (by decide) (by decide) (by decide))
theorem mcmul (h : Head) (scale : BitVec 3) (conj : Bool) (d : GI) (a : GI) (b : GReg) : Statement (.mcmul h scale conj d a b) :=
  framed_T rfl rfl (by decide) (oGI_lt d) (oGI_lt a) (oG_lt b)
    (md_lt (by decide) (by decide) (by decide) (by decide) (by have := scale.isLt; have := conj.toNat_le; omega))
theorem nwalk (h : Head) (d : GReg) (a : BReg) (b : Option BReg) : Statement (.nwalk h d a b) :=
  framed_T rfl rfl (by decide) (oG_lt d) (oB_lt a) (oOB_lt b)
    (md_lt (by decide) (by decide) (by decide) (by decide) (by decide))
theorem nopen (h : Head) (d : GReg) (a : BReg) : Statement (.nopen h d a) :=
  framed_T rfl rfl (by decide) (oG_lt d) (oB_lt a) (by decide)
    (md_lt (by decide) (by decide) (by decide) (by decide) (by decide))
theorem nclose (h : Head) (d : GReg) (a : BReg) : Statement (.nclose h d a) :=
  framed_T rfl rfl (by decide) (oG_lt d) (oB_lt a) (by decide)
    (md_lt (by decide) (by decide) (by decide) (by decide) (by decide))
theorem nread (h : Head) (d : GReg) (a : BReg) (b : BReg) : Statement (.nread h d a b) :=
  framed_T rfl rfl (by decide) (oG_lt d) (oB_lt a) (oB_lt b)
    (md_lt (by decide) (by decide) (by decide) (by decide) (by decide))
theorem nwrite (h : Head) (d : GReg) (a : BReg) (b : BReg) : Statement (.nwrite h d a b) :=
  framed_T rfl rfl (by decide) (oG_lt d) (oB_lt a) (oB_lt b)
    (md_lt (by decide) (by decide) (by decide) (by decide) (by decide))
theorem nbind (h : Head) (d : GReg) (a : BReg) (b : BReg) : Statement (.nbind h d a b) :=
  framed_T rfl rfl (by decide) (oG_lt d) (oB_lt a) (oB_lt b)
    (md_lt (by decide) (by decide) (by decide) (by decide) (by decide))
theorem nunbind (h : Head) (d : GReg) (a : BReg) (b : Option BReg) : Statement (.nunbind h d a b) :=
  framed_T rfl rfl (by decide) (oG_lt d) (oB_lt a) (oOB_lt b)
    (md_lt (by decide) (by decide) (by decide) (by decide) (by decide))
theorem nstat (h : Head) (d : GReg) (a : BReg) : Statement (.nstat h d a) :=
  framed_T rfl rfl (by decide) (oG_lt d) (oB_lt a) (by decide)
    (md_lt (by decide) (by decide) (by decide) (by decide) (by decide))
theorem nrevoke (h : Head) (d : GReg) (a : BReg) : Statement (.nrevoke h d a) :=
  framed_T rfl rfl (by decide) (oG_lt d) (oB_lt a) (by decide)
    (md_lt (by decide) (by decide) (by decide) (by decide) (by decide))
theorem ncreate (h : Head) (d : GReg) (a : BReg) (b : GReg) : Statement (.ncreate h d a b) :=
  framed_T rfl rfl (by decide) (oG_lt d) (oB_lt a) (oG_lt b)
    (md_lt (by decide) (by decide) (by decide) (by decide) (by decide))
theorem nremove (h : Head) (d : GReg) (a : BReg) : Statement (.nremove h d a) :=
  framed_T rfl rfl (by decide) (oG_lt d) (oB_lt a) (by decide)
    (md_lt (by decide) (by decide) (by decide) (by decide) (by decide))
theorem rslot (h : Head) (d : GReg) (a : BReg) (b : GI) : Statement (.rslot h d a b) :=
  framed_T rfl rfl (by decide) (oG_lt d) (oB_lt a) (oGI_lt b)
    (md_lt (by decide) (by decide) (by decide) (by decide) (by decide))
theorem rfree (h : Head) (d : BReg) (a : GI) : Statement (.rfree h d a) :=
  framed_T rfl rfl (by decide) (oB_lt d) (oGI_lt a) (by decide)
    (md_lt (by decide) (by decide) (by decide) (by decide) (by decide))
theorem rpush (h : Head) (od : Ord3) (sc : Scope3) (d : BReg) (a : VReg) (b : GReg) : Statement (.rpush h od sc d a b) :=
  framed_T rfl rfl (by decide) (oB_lt d) (oV_lt a) (oG_lt b)
    (md_lt (by decide) (by decide) (by have := od.isLt; omega) (by have := sc.isLt; omega) (by decide))
theorem rstat (h : Head) (d : GReg) (a : BReg) : Statement (.rstat h d a) :=
  framed_T rfl rfl (by decide) (oG_lt d) (oB_lt a) (by decide)
    (md_lt (by decide) (by decide) (by decide) (by decide) (by decide))
theorem mladd (h : Head) (mass : Bool) (rnd : Rnd) (d : MemOp) (a : VReg) (b : GI) : Statement (.mladd h mass rnd d a b) :=
  framed_T rfl rfl (by decide) (oMem_lt d) (oV_lt a) (oGI_lt b)
    (md_lt (by cases mass <;> decide) (by have := rnd.isLt; omega) (by decide) (by decide) (by have := mass.toNat_le; omega))
theorem mlread (h : Head) (et : EType) (rnd : Rnd) (d : VReg) (a : MemOp) (b : Option GI) : Statement (.mlread h et rnd d a b) :=
  framed_T rfl rfl (by decide) (oV_lt d) (oMem_lt a) (oOGI_lt b)
    (md_lt (by have := et.isLt; omega) (by have := rnd.isLt; omega) (by decide) (by decide) (by decide))
theorem mspread (h : Head) (d : GReg) (a : BReg) (b : GI) : Statement (.mspread h d a b) :=
  framed_T rfl rfl (by decide) (oG_lt d) (oB_lt a) (oGI_lt b)
    (md_lt (by decide) (by decide) (by decide) (by decide) (by decide))
theorem mlfence (h : Head) : Statement (.mlfence h) :=
  framed_T rfl rfl (by decide) (by decide) (by decide) (by decide)
    (md_lt (by decide) (by decide) (by decide) (by decide) (by decide))
theorem mlcfgCreate (h : Head) (d : GReg) (a : BReg) (b : GI) : Statement (.mlcfgCreate h d a b) :=
  framed_T rfl rfl (by decide) (oG_lt d) (oB_lt a) (oGI_lt b)
    (md_lt (by decide) (by decide) (by decide) (by decide) (by decide))
theorem mlcfgCadence (h : Head) (d : GReg) (a : BReg) (b : GI) : Statement (.mlcfgCadence h d a b) :=
  framed_T rfl rfl (by decide) (oG_lt d) (oB_lt a) (oGI_lt b)
    (md_lt (by decide) (by decide) (by decide) (by decide) (by decide))
theorem mlcfgReset (h : Head) (d : GReg) (a : BReg) (b : GI) : Statement (.mlcfgReset h d a b) :=
  framed_T rfl rfl (by decide) (oG_lt d) (oB_lt a) (oGI_lt b)
    (md_lt (by decide) (by decide) (by decide) (by decide) (by decide))
theorem mlcfgDestroy (h : Head) (d : GReg) (a : BReg) (b : GI) : Statement (.mlcfgDestroy h d a b) :=
  framed_T rfl rfl (by decide) (oG_lt d) (oB_lt a) (oGI_lt b)
    (md_lt (by decide) (by decide) (by decide) (by decide) (by decide))
theorem recordArrival : Statement .recordArrival := framed_none rfl
theorem headCheck : Statement .headCheck := framed_none rfl
theorem fire : Statement .fire := framed_none rfl
theorem watchdog : Statement .watchdog := framed_none rfl
theorem parityError : Statement .parityError := framed_none rfl
theorem specialFunctionResult : Statement .specialFunctionResult := framed_none rfl
theorem launchServe : Statement .launchServe := framed_none rfl
theorem launchForward : Statement .launchForward := framed_none rfl
theorem patchComplete : Statement .patchComplete := framed_none rfl
theorem doneWord : Statement .doneWord := framed_none rfl
theorem doneqRetry : Statement .doneqRetry := framed_none rfl
theorem doneDeadline : Statement .doneDeadline := framed_none rfl
theorem dupdoneWord : Statement .dupdoneWord := framed_none rfl
theorem remoteAccess : Statement .remoteAccess := framed_none rfl
theorem queueAppend : Statement .queueAppend := framed_none rfl
theorem joinPerform : Statement .joinPerform := framed_none rfl
theorem remoteSemv : Statement .remoteSemv := framed_none rfl
theorem gangComplete : Statement .gangComplete := framed_none rfl
theorem gangStale : Statement .gangStale := framed_none rfl
theorem sheetMoveBeat : Statement .sheetMoveBeat := framed_none rfl
theorem drainBeat : Statement .drainBeat := framed_none rfl
theorem butterflyComplete : Statement .butterflyComplete := framed_none rfl
theorem copyStart : Statement .copyStart := framed_none rfl
theorem copyRefused : Statement .copyRefused := framed_none rfl
theorem copyTtabWrite : Statement .copyTtabWrite := framed_none rfl
theorem copyWindowWrite : Statement .copyWindowWrite := framed_none rfl
theorem copyFaultResume : Statement .copyFaultResume := framed_none rfl
theorem copyFaultAbort : Statement .copyFaultAbort := framed_none rfl
theorem copyHeadCheck : Statement .copyHeadCheck := framed_none rfl
theorem copyBeat : Statement .copyBeat := framed_none rfl
theorem nameMove : Statement .nameMove := framed_none rfl
theorem nameResult : Statement .nameResult := framed_none rfl
theorem pageMap : Statement .pageMap := framed_none rfl
theorem pageUnmap : Statement .pageUnmap := framed_none rfl
theorem pageCompress : Statement .pageCompress := framed_none rfl
theorem pageExpand : Statement .pageExpand := framed_none rfl
theorem pageDemote : Statement .pageDemote := framed_none rfl
theorem pageMap2 : Statement .pageMap2 := framed_none rfl
theorem pageUnmap2 : Statement .pageUnmap2 := framed_none rfl
theorem pageMove : Statement .pageMove := framed_none rfl
theorem pageQuery : Statement .pageQuery := framed_none rfl
theorem pageAbort : Statement .pageAbort := framed_none rfl
theorem pageBadop : Statement .pageBadop := framed_none rfl
theorem pageCommandDone : Statement .pageCommandDone := framed_none rfl
theorem functionRecord : Statement .functionRecord := framed_none rfl
theorem l2Split : Statement .l2Split := framed_none rfl
theorem launchQueueConfig : Statement .launchQueueConfig := framed_none rfl
theorem contextCreate : Statement .contextCreate := framed_none rfl
theorem contextDestroy : Statement .contextDestroy := framed_none rfl
theorem contextHalves : Statement .contextHalves := framed_none rfl
theorem makeq : Statement .makeq := framed_none rfl
theorem makepeer : Statement .makepeer := framed_none rfl
theorem slotBind : Statement .slotBind := framed_none rfl
theorem slotUnbind : Statement .slotUnbind := framed_none rfl
theorem cxlWindowMap : Statement .cxlWindowMap := framed_none rfl
theorem containerLoad : Statement .containerLoad := framed_none rfl
theorem loadComplete : Statement .loadComplete := framed_none rfl
theorem controlWrite : Statement .controlWrite := framed_none rfl
theorem worldctlWrite : Statement .worldctlWrite := framed_none rfl
theorem sliceYield : Statement .sliceYield := framed_none rfl
theorem sliceEnd : Statement .sliceEnd := framed_none rfl
theorem sliceIdle : Statement .sliceIdle := framed_none rfl
theorem saveRoutines : Statement .saveRoutines := framed_none rfl
theorem contextSave : Statement .contextSave := framed_none rfl
theorem restoreRoutines : Statement .restoreRoutines := framed_none rfl
theorem tickReady : Statement .tickReady := framed_none rfl
theorem tickDeadline : Statement .tickDeadline := framed_none rfl
theorem migratePrecopy : Statement .migratePrecopy := framed_none rfl
theorem migrateCancel : Statement .migrateCancel := framed_none rfl
theorem migrateStop : Statement .migrateStop := framed_none rfl
theorem migrateStopped : Statement .migrateStopped := framed_none rfl
theorem migrateStopTimeout : Statement .migrateStopTimeout := framed_none rfl
theorem migrateAbort : Statement .migrateAbort := framed_none rfl
theorem migrateResuming : Statement .migrateResuming := framed_none rfl
theorem migrateCommit : Statement .migrateCommit := framed_none rfl
theorem migrateWindowAdvance : Statement .migrateWindowAdvance := framed_none rfl
theorem migrateWindowRead : Statement .migrateWindowRead := framed_none rfl
theorem migrateWindowWrite : Statement .migrateWindowWrite := framed_none rfl
theorem groupConfig : Statement .groupConfig := framed_none rfl
theorem chunkArrival : Statement .chunkArrival := framed_none rfl
theorem slotEmit : Statement .slotEmit := framed_none rfl
theorem slotTimeout : Statement .slotTimeout := framed_none rfl
theorem slotMarkerExpiry : Statement .slotMarkerExpiry := framed_none rfl
theorem resultDelivery : Statement .resultDelivery := framed_none rfl
theorem linkFlit : Statement .linkFlit := framed_none rfl
theorem linkResend : Statement .linkResend := framed_none rfl
theorem mullExchangeSend : Statement .mullExchangeSend := framed_none rfl
theorem mullExchangeApply : Statement .mullExchangeApply := framed_none rfl
theorem mullAck : Statement .mullAck := framed_none rfl
theorem traceSample : Statement .traceSample := framed_none rfl
theorem traceStopRequest : Statement .traceStopRequest := framed_none rfl
theorem stopComplete : Statement .stopComplete := framed_none rfl
theorem traceResume : Statement .traceResume := framed_none rfl
theorem traceReplay : Statement .traceReplay := framed_none rfl
theorem tokenVerify : Statement .tokenVerify := framed_none rfl
theorem verifyDone : Statement .verifyDone := framed_none rfl
theorem delayClear : Statement .delayClear := framed_none rfl
theorem freeze : Statement .freeze := framed_none rfl
theorem freezeread : Statement .freezeread := framed_none rfl
theorem tapBypass : Statement .tapBypass := framed_none rfl
theorem tapIdcode : Statement .tapIdcode := framed_none rfl
theorem tapSamplePreload : Statement .tapSamplePreload := framed_none rfl
theorem tapExtest : Statement .tapExtest := framed_none rfl
theorem forecastUpdate : Statement .forecastUpdate := framed_none rfl
theorem reqtailWrite : Statement .reqtailWrite := framed_none rfl
theorem hostRequestTake : Statement .hostRequestTake := framed_none rfl
theorem rspheadWrite : Statement .rspheadWrite := framed_none rfl
theorem cxlMemRead : Statement .cxlMemRead := framed_none rfl
theorem cxlMemWrite : Statement .cxlMemWrite := framed_none rfl
theorem mctpMessage : Statement .mctpMessage := framed_none rfl
theorem moduleReset : Statement .moduleReset := framed_none rfl
theorem bootStage : Statement .bootStage := framed_none rfl
theorem deviceError : Statement .deviceError := framed_none rfl
theorem functionLevelReset : Statement .functionLevelReset := framed_none rfl
theorem illegalOpcode (w : BitVec 96) : Statement (.illegalOpcode w) := by
  intro x hx
  obtain rfl := Option.some.inj hx
  exact ⟨w.isLt, fun h hh => by cases hh⟩
theorem correctableError : Statement .correctableError := framed_none rfl
theorem lifeCycleChange : Statement .lifeCycleChange := framed_none rfl

end Framed

end Sys2Proof.Laws
end

