-- ==== Sys2Proof/Tests/Slice0.lean ====
section
/-! SUPPORT. Tests of the model: ill-formed terms that the check refuses, the words of every form, one step on small
states, and for every statement a state and operands that meet its hypotheses, with what the step then does. Words
are written out from R91 to R97; expected values come from the manual's tables and examples, or are worked by hand
from its rules. -/

namespace Sys2Proof.Tests

open Sys2Proof.Machine

set_option Elab.async false

/-! ### Helpers -/

/-- No guard and no hints. -/
def h0 : Head := ⟨false, 0, 0, 0, false, false⟩

/-- What an outcome is tested by: a next state that passes. -/
def nxt (o : Host.Outcome State Fault Refusal) (p : State → Bool) : Bool :=
  match o with
  | .next t => p t
  | _ => false

/-- A checked value that passes. -/
def oks {ε α : Type} (x : Except ε α) (p : α → Bool) : Bool :=
  match x with
  | .ok a => p a
  | .error _ => false

def good {ε α : Type} (x : Except ε α) : Bool := oks x fun _ => true

/-- Context 1 (privilege `priv`) of function 0 with thread 0 of the press core of tile 0 running; pad 0 behind handle 1, its code behind
handle 1000. -/
def base (priv : Nat := 0) : State :=
  let s := State.reset.withFetchWord 96 0
  let s := s.updCtx 1 fun x => { x with priv := priv, govern := 3, tvec := 0x7000000000C }
  let s := s.setHent 1 1000 (s.hent 1 1)
  let s := s.setCtx 3 { live := true, hlog := 10, htent := 1, slot := 1, priv := 1, tvec := 0x7000000000C }
  let s := s.setHent 1 1 { state := 2, gen := 1, node := .pad 0 0, rights := 0xFF, grant := 0xFF, size := 2 ^ 21 }
  s.updT fun t => { t.wrB 2 (mintPtr 0xFF 1 1 4096) with codeH := 1000 }

/-- g5 and g6 as given. -/
def gs (x y : Word) (priv : Nat := 0) : State := (base priv).updT fun t => (t.wrG 5 x).wrG 6 y

/-- The issuing core moved to physical core `c`, its logical word `w`. -/
def onCore (s : State) (c w : Nat) : State :=
  let t := s.t
  ({ s.setThread s.cur {} with cur := 8 * c } : State).setT { t with lcore := w }

/-- A made node `i` of the kind behind handle `h`, at guest frame `f`. -/
def obj (s : State) (i h size f : Nat) (kind : Nat := kMemo) : State :=
  (s.setMade i { kind := kind, tier := 2, grant := 0xFF, size := size, base := f }).setHent 1 h
    { state := 2, gen := 1, node := .made i, rights := 0xFF, grant := 0xFF, size := size }

/-- Writes n bytes of an object through its translation. -/
def put (s : State) (i off n v : Nat) : State :=
  match s.place 1 (.made i) off true false with
  | .ok p => s.pokeN p.addr n v
  | .error _ => s

/-- `base` with core, route and handler tables: logical cores 2048 and 3072 name the press core of tile 0 and service
core 0 of die 0. -/
def mapped (priv : Nat := 0) : State :=
  let s := obj (obj (obj (base priv) 20 20 8192 512) 21 21 32 516) 22 22 1024 517
  let s := s.updCtx 1 fun x => { x with coretab := 20, routetab := 21, hbase := 22, htsize := 16 }
  put (put (put s 21 0 1 0x80) 20 4096 2 0x8040) 20 6144 2 0x8060

/-! ### Decoding: one word for each form, written out from R91 to R97 and the class's table -/

/-- Class 0x0: a word for each form, written out from R91 to R97 and the class's table. -/
def wordsSystem : List (Nat × Instr) := [
  (0x000000000000000000000000, .nop h0), -- NOP
  (0x004003000C00000000000000, .trap h0 12), -- TRAP 12
  (0x008000000000000000000000, .eret h0), -- ERET
  (0x00C0008005E0124000000000, .crd h0 5 0x049), -- CRD g5, cr(0x049)
  (0x0100038003C0004000000000, .cwr h0 3 (.i 1)), -- CWR rmode, 1
  (0x014003800220008000000000, .cset h0 2 (.g 2)), -- CSET fpflags, g2
  (0x0180038002C007C000000000, .cclr h0 2 (.i 31)), -- CCLR fpflags, 31
  (0x01C000800800000000000000, .tstamp h0 8), -- TSTAMP g8
  (0x020003000300000000000000, .brk h0 3), -- BRK 3
  (0x024000800400000000000000, .tmark h0 (.g 4)), -- TMARK g4
  (0x028000800900000000000000, .wdog h0 9), -- WDOG g9
  (0x02C000000000000000000000, .halt h0), -- HALT
  (0x030001800420028800B00000, .pmint h0 4 10 11), -- PMINT b4, g10, g11
  (0x034000800720050000000000, .sresume h0 7 20), -- SRESUME g7, g20
  (0x034000800320008000000001, .sresumeSkip h0 3 2), -- SRESUME.skip g3, g2
  (0x038000800320008000000000, .tkill h0 3 2), -- TKILL g3, g2
  (0x03C000800600000000000000, .icsync h0 6) ] -- ICSYNC g6
theorem test_decode_system : ∀ p ∈ wordsSystem, decodeTableWord 96 p.1 = some p.2 := by decide +kernel

/-- Class 0x1: a word for each form, written out from R91 to R97 and the class's table. -/
def wordsControl : List (Nat × Instr) := [
  (0x1000000000FFFFFFFFFFFFFE, .br h0 (-2)), -- BR top
  (0x104000800700000000000000, .bri h0 7), -- BRI g7
  (0x108000803F00000000000007, .call h0 63 7), -- CALL g63, sub
  (0x10C000803F2001C000000000, .calli h0 63 7), -- CALLI g63, g7
  (0x110000803F00000000000000, .ret h0 63), -- RET g63
  (0x114000000000000000000000, .endAct h0), -- END
  (0x114000800700000000000001, .endDone h0 (some 7)), -- END.done g7
  (0x1180008014FFFFFFFFFFFFFB, .loop h0 20 (-5)) ] -- LOOP g20, top
theorem test_decode_control : ∀ p ∈ wordsControl, decodeTableWord 96 p.1 = some p.2 := by decide +kernel

/-- Class 0x2: a word for each form, written out from R91 to R97 and the class's table. -/
def wordsScalar : List (Nat × Instr) := [
  (0x2028008003200137FFD60000, .add ⟨true, 2, 0, 0, false, false⟩ 6 3 4 (.i (-3))), -- (!m2) ADD.i64 g3, g4, -3
  (0x2040008003200137FFD10000, .sub h0 1 3 4 (.i (-3))), -- SUB.u8 g3, g4, -3
  (0x2080008003200137FFD20000, .mul h0 2 3 4 (.i (-3))), -- MUL.i16 g3, g4, -3
  (0x20C0008003200137FFD40000, .mulh h0 4 3 4 (.i (-3))), -- MULH.i32 g3, g4, -3
  (0x2100008003200137FFD70000, .mulhu h0 7 3 4 (.i (-3))), -- MULHU.u64 g3, g4, -3
  (0x2140008003200137FFD00000, .div h0 0 3 4 (.i (-3))), -- DIV.i8 g3, g4, -3
  (0x2180008003200137FFD10000, .divu h0 1 3 4 (.i (-3))), -- DIVU.u8 g3, g4, -3
  (0x21C0008003200137FFD20000, .rem h0 2 3 4 (.i (-3))), -- REM.i16 g3, g4, -3
  (0x2200008003200137FFD50000, .remu h0 5 3 4 (.i (-3))), -- REMU.u32 g3, g4, -3
  (0x2240008003200137FFD70000, .and h0 7 3 4 (.i (-3))), -- AND.u64 g3, g4, -3
  (0x2280008003200137FFD30000, .or h0 3 3 4 (.i (-3))), -- OR.u16 g3, g4, -3
  (0x22C0008003200137FFD70000, .xor h0 7 3 4 (.i (-3))), -- XOR.u64 g3, g4, -3
  (0x2300008003200137FFD40000, .andn h0 4 3 4 (.i (-3))), -- ANDN.i32 g3, g4, -3
  (0x2340008003200137FFD50000, .shl h0 5 3 4 (.i (-3))), -- SHL.u32 g3, g4, -3
  (0x2380008003200137FFD60000, .shr h0 6 3 4 (.i (-3))), -- SHR.i64 g3, g4, -3
  (0x23C0008003200137FFD00000, .sra h0 0 3 4 (.i (-3))), -- SRA.i8 g3, g4, -3
  (0x2400008003200137FFD30000, .rot h0 3 3 4 (.i (-3))), -- ROT.u16 g3, g4, -3
  (0x2440008003200137FFD60000, .min h0 6 3 4 (.i (-3))), -- MIN.i64 g3, g4, -3
  (0x2480008003200137FFD40000, .max h0 4 3 4 (.i (-3))), -- MAX.i32 g3, g4, -3
  (0x24C0008003200137FFD50000, .minu h0 5 3 4 (.i (-3))), -- MINU.u32 g3, g4, -3
  (0x2500008003200137FFD10000, .maxu h0 1 3 4 (.i (-3))), -- MAXU.u8 g3, g4, -3
  (0x254000800320010800550003, .cmp h0 5 3 3 4 (.g 5)), -- CMP.u32.le g3, g4, g5
  (0x258400800320013000900000, .sel ⟨false, 1, 0, 0, false, false⟩ 3 (.g 4) (.i 9)), -- (m1) SEL g3, g4, 9
  (0x25C000800920028000000000, .clz h0 0 9 10), -- CLZ.i8 g9, g10
  (0x260000800920028000030000, .ctz h0 3 9 10), -- CTZ.u16 g9, g10
  (0x264000800920028000060000, .popc h0 6 9 10), -- POPC.i64 g9, g10
  (0x270000800920028000020000, .sext h0 2 9 10), -- SEXT.i16 g9, g10
  (0x274000800920028000050000, .zext h0 5 9 10), -- ZEXT.u32 g9, g10
  (0x2680008003200137FFD50000, .bfx h0 5 3 4 (.i (-3))), -- BFX.u32 g3, g4, -3
  (0x26C0008003200137FFD70000, .bfi h0 7 3 4 (.i (-3))), -- BFI.u64 g3, g4, -3
  (0x2780008005FFFFFFFFFFFFF7, .li h0 5 (-9)), -- LI g5, -9
  (0x27C000800500000000000081, .lih h0 5 0x81), -- LIH g5, 0x81
  (0x280000800520018000000000, .mov h0 5 (.g 6)) ] -- MOV g5, g6
theorem test_decode_scalar : ∀ p ∈ wordsScalar, decodeTableWord 96 p.1 = some p.2 := by decide +kernel

/-- Class 0x3: a word for each form, written out from R91 to R97 and the class's table. -/
def wordsPointer : List (Nat × Instr) := [
  (0x30000180036000F004000000, .padd h0 3 3 (.i 64)), -- PADD b3, b3, 64
  (0x304001800360008800400000, .pset h0 3 2 (.g 4)), -- PSET b3, b2, g4
  (0x30800080056000C000000002, .pget h0 2 5 3), -- PGET.top g5, b3
  (0x30C00180046000F006400000, .pnarrow h0 4 3 (.i 100)), -- PNARROW b4, b3, 100
  (0x31000180046000F000100000, .pperm h0 4 3 (.i 1)), -- PPERM b4, b3, 0x01
  (0x31400080066000C800700000, .pchk h0 6 3 7), -- PCHK g6, b3, g7
  (0x31800080066000D800200000, .psub h0 6 3 2), -- PSUB g6, b3, b2
  (0x31C00180056000C000000000, .pmov h0 5 3), -- PMOV b5, b3
  (0x32000080066000C000000000, .ptag h0 6 3) ] -- PTAG g6, b3
theorem test_decode_pointer : ∀ p ∈ wordsPointer, decodeTableWord 96 p.1 = some p.2 := by decide +kernel

/-- Class 0x4: a word for each form, written out from R91 to R97 and the class's table. -/
def wordsScalarMemory : List (Nat × Instr) := [
  (0x4000008004600C4000030000, .ld h0 3 0 0 4 (.mem ⟨1, 3⟩)), -- LD.u16 g4, [b1+6]
  (0x404001800520008000040900, .st h0 4 2 2 (.mem ⟨5, 0⟩) (.g 2)), -- ST.i32.rel.die [b5], g2
  (0x40800080046008C800560D00, .atom h0 6 3 2 0 4 ⟨3, 2⟩ (.g 5)), -- ATOM.i64.add.ar.die g4, [b3+16], g5
  (0x40C000800460008800971180, .cas h0 7 4 3 4 ⟨2, 0⟩ 9), -- CAS.u64.sc.mod g4, [b2], g9
  (0x410000000000000000000900, .fence h0 2 2), -- FENCE.rel.die
  (0x4140018006C0004000040180, .fflag h0 4 3 ⟨6, 0⟩ (.i 1)), -- FFLAG.i32.mod [b6], 1
  (0x418001800760080000000000, .pld h0 7 ⟨0, 2⟩), -- PLD b7, [b0+32]
  (0x41C00180206001C000000000, .pst h0 ⟨0, 2⟩ 7), -- PST [b0+32], b7
  (0x420001802200000000000001, .pref h0 true ⟨2, 2⟩) ] -- PREF.wr [b2+128]
theorem test_decode_scalar_memory : ∀ p ∈ wordsScalarMemory, decodeTableWord 96 p.1 = some p.2 := by decide +kernel

/-- Class 0x5: a word for each form, written out from R91 to R97 and the class's table. -/
def wordsVectorInteger : List (Nat × Instr) := [
  (0x50000100014000A800320001, .vadd h0 2 true 1 (.v 2) (some 3)), -- VADD.i16.sat v1, v2, m3
  (0x504001000120008000010000, .vsub h0 1 false 1 (.g 2) none), -- VSUB.u8 v1, g2
  (0x5080010001DFFF8000060000, .vmul h0 6 1 (.i (-2)) none), -- VMUL.i64 v1, -2
  (0x50C001000140008000050000, .vmulh h0 5 1 (.v 2) none), -- VMULH.u32 v1, v2
  (0x510001000140008800540000, .vmad h0 4 1 2 (.g 5)), -- VMAD.i32 v1, v2, g5
  (0x514001001F40008000030000, .vmin h0 3 31 (.v 2) none), -- VMIN.u16 v31, v2
  (0x5180010004C0002800200000, .vmax h0 0 4 (.i 0) (some 2)), -- VMAX.i8 v4, 0, m2
  (0x51C001000140004000040001, .vabs h0 4 true 1 1 none), -- VABS.i32.sat v1, v1
  (0x52000100024000E800160000, .vneg h0 6 false 2 3 (some 1)), -- VNEG.i64 v2, v3, m1
  (0x5240010001C003C000010000, .vand h0 1 1 (.i 15) none), -- VAND.u8 v1, 15
  (0x52800100012003C000010000, .vor h0 1 1 (.g 15) none), -- VOR.u8 v1, g15
  (0x52C001000140026800720000, .vxor h0 2 1 (.v 9) (some 7)), -- VXOR.i16 v1, v9, m7
  (0x530001000140008000070000, .vnot h0 7 1 2 none), -- VNOT.u64 v1, v2
  (0x5340010001C000C000040000, .vshl h0 4 1 (.i 3) none), -- VSHL.i32 v1, 3
  (0x538001000140012800150000, .vshr h0 5 1 (.v 4) (some 1)), -- VSHR.u32 v1, v4, m1
  (0x53C001000120010000040000, .vsra h0 4 1 (.g 4) none), -- VSRA.i32 v1, g4
  (0x540002800240005000330002, .vcmp h0 3 2 2 1 (.v 3)), -- VCMP.u16.lt m2, v1, v3
  (0x54400100012001A8002A0000, .vsel h0 10 1 (.g 6) 2), -- VSEL.f32 v1, g6, m2
  (0x548001000140008000000000, .vmov h0 1 2), -- VMOV v1, v2
  (0x54C00100014000B000590000, .vbcast h0 9 1 2 (.i 5)), -- VBCAST.bf16 v1, v2, 5
  (0x550000800340004800220000, .vextr h0 2 3 1 (.g 2)), -- VEXTR.i16 g3, v1, g2
  (0x55400100012000F000750000, .vins h0 5 1 (.g 3) (.i 7)), -- VINS.u32 v1, g3, 7
  (0x5580010001C0003000140000, .viota h0 4 1 (.i 0) (.i 1)), -- VIOTA.i32 v1, 0, 1
  (0x55C002800120008800350000, .lbc h0 5 1 2 (.g 3)), -- LBC.u32 m1, g2, g3
  (0x560000800400000000000000, .vwid h0 4), -- VWID g4
  (0x5640028001A000A800300000, .kand h0 1 2 3), -- KAND m1, m2, m3
  (0x5680028001A000A800300000, .kor h0 1 2 3), -- KOR m1, m2, m3
  (0x56C0028001A0008000000000, .knot h0 1 2), -- KNOT m1, m2
  (0x5700008005A0004000040000, .kpopc h0 4 5 1), -- KPOPC.i32 g5, m1
  (0x5740008005A0018000010000, .kfirst h0 1 5 6) ] -- KFIRST.u8 g5, m6
theorem test_decode_vector_integer : ∀ p ∈ wordsVectorInteger, decodeTableWord 96 p.1 = some p.2 := by decide +kernel

/-- Class 0x6: a word for each form, written out from R91 to R97 and the class's table. -/
def wordsVectorFloat : List (Nat × Instr) := [
  (0x60000100014000A8001A2000, .vfadd h0 10 1 1 (.v 2) (some 1)), -- VFADD.f32.rtz v1, v2, m1
  (0x60400100012000800008E000, .vfsub h0 8 7 1 (.g 2) none), -- VFSUB.f16.dyn v1, g2
  (0x608001000140008000096000, .vfmul h0 9 3 1 (.v 2) none), -- VFMUL.bf16.rup v1, v2
  (0x60C0010005400108009A0000, .vfma h0 10 0 5 4 (.g 9)), -- VFMA.f32.rne v5, v4, g9
  (0x6100010005400110003A8000, .vfms h0 10 4 5 4 (.v 3)), -- VFMS.f32.rna v5, v4, v3
  (0x614001000540011000384000, .vfnma h0 8 2 5 4 (.v 3)), -- VFNMA.f16.rdn v5, v4, v3
  (0x618001000140008000090000, .vfmin h0 9 1 (.v 2) none), -- VFMIN.bf16 v1, v2
  (0x61C00100012000A8005A0000, .vfmax h0 10 1 (.g 2) (some 5)), -- VFMAX.f32 v1, g2, m5
  (0x62000100014000A800480000, .vfabs h0 8 1 2 (some 4)), -- VFABS.f16 v1, v2, m4
  (0x6240010001400080000A0000, .vfneg h0 10 1 2 none), -- VFNEG.f32 v1, v2
  (0x6280028003400050001A0006, .vfcmp h0 10 6 3 1 (.v 1)), -- VFCMP.f32.un m3, v1, v1
  (0x62C0008003400068001A0000, .vred h0 10 0 0 3 1 (some 1)), -- VRED.f32.sum g3, v1, m1
  (0x6300010002400040000A0000, .vfclass h0 10 2 1 none) ] -- VFCLASS.f32 v2, v1
theorem test_decode_vector_float : ∀ p ∈ wordsVectorFloat, decodeTableWord 96 p.1 = some p.2 := by decide +kernel

/-- Class 0x7: a word for each form, written out from R91 to R97 and the class's table. -/
def wordsConversion : List (Nat × Instr) := [
  (0x7000010001400080000B0056, .vcvt h0 11 10 0 true 2 1 2 none), -- VCVT.e4m3.sf32.sat.p2 v1, v2
  (0x704001000140009000390000, .vpack2 h0 9 0 false 1 2 3), -- VPACK2.bf16.rne v1, v2, v3
  (0x7080010001400100000D0002, .vpack4 h0 13 0 false true 1 4), -- VPACK4.e2m1.h1 v1, v4
  (0x70C0010001400088006E0003, .vunpk h0 14 3 1 2 (some 6)), -- VUNPK.b4.p3 v1, v2, g6
  (0x710001000140009000330000, .vperm h0 3 1 2 3), -- VPERM.u16 v1, v2, v3
  (0x71400100014000B7FFFA0000, .vslide h0 10 1 2 (.i (-1))), -- VSLIDE.f32 v1, v2, -1
  (0x718001000140009000310001, .vzip h0 1 true 1 2 3), -- VZIP.u8.hi v1, v2, v3
  (0x71C001000140009000360000, .vuzp h0 6 false 1 2 3), -- VUZP.i64 v1, v2, v3
  (0x72000100014000A8001A0000, .vexp2 h0 1 2 (some 1)), -- VEXP2.f32 v1, v2, m1
  (0x7240010003400080000A0000, .vlog2 h0 3 2 none), -- VLOG2.f32 v3, v2
  (0x7300010003400080000A0000, .vsin h0 3 2 none), -- VSIN.f32 v3, v2
  (0x7340010003400080000A0000, .vcos h0 3 2 none), -- VCOS.f32 v3, v2
  (0x7380010003400080000A0000, .vtanh h0 3 2 none), -- VTANH.f32 v3, v2
  (0x7280010001400080000A2000, .vrcp h0 1 1 2 none), -- VRCP.f32.rtz v1, v2
  (0x72C0010001400080000A4000, .vrsq h0 2 1 2 none) ] -- VRSQ.f32.rdn v1, v2
theorem test_decode_conversion : ∀ p ∈ wordsConversion, decodeTableWord 96 p.1 = some p.2 := by decide +kernel

/-- Class 0x8: a word for each form, written out from R91 to R97 and the class's table. -/
def wordsVectorMemory : List (Nat × Instr) := [
  (0x80000100016000A8001A0000, .vld h0 10 1 (.mem ⟨2, 0⟩) (some 1)), -- VLD.f32 v1, [b2], m1
  (0x804001801340008000010000, .vst h0 1 (.mem ⟨3, 1⟩) 2 none), -- VST.u8 [b3+256], v2
  (0x808001000160108800420000, .vlds h0 2 1 ⟨2, 4⟩ 4), -- VLDS.i16 v1, [b2+8], g4
  (0x80C0018002400048004A0000, .vsts h0 10 ⟨2, 0⟩ 1 4), -- VSTS.f32 [b2], v1, g4
  (0x810001000160009000340000, .vgath h0 4 1 ⟨2, 0⟩ 3), -- VGATH.i32 v1, [b2], v3
  (0x814001800240005000370000, .vscat h0 7 ⟨2, 0⟩ 1 3), -- VSCAT.u64 [b2], v1, v3
  (0x818001000160054000090000, .vldb h0 9 1 ⟨5, 1⟩ none) ] -- VLDB.bf16 v1, [b5+2]
theorem test_decode_vector_memory : ∀ p ∈ wordsVectorMemory, decodeTableWord 96 p.1 = some p.2 := by decide +kernel

/-- Class 0x9: a word for each form, written out from R91 to R97 and the class's table. -/
def wordsMessaging : List (Nat × Instr) := [
  (0x9000008005C001D800200004, .send h0 4 false 5 (.i 7) (some 2)), -- SEND.w4 g5, 7, b2
  (0x90400180062000D800200042, .sendm h0 2 true 6 (.g 3) (some 2)), -- SENDM.w2.noinh b6, g3, b2
  (0x908001800320029800400000, .post h0 (some 3) 10 (some 4)), -- POST b3, g10, b4
  (0x90C0018003C0004000000000, .join h0 3 (.i 1)), -- JOIN b3, 1
  (0x910002003200000000000000, .qadv h0 ⟨2, 3, false⟩), -- QADV q2:3
  (0x914000800480004000000000, .qstat h0 4 ⟨1, 0, false⟩), -- QSTAT g4, q1
  (0x9180020005C0400000000000, .qbind h0 ⟨5, 0, false⟩ (.i 256)), -- QBIND q5, 256
  (0x9180020005C0400800700001, .qbindInit h0 ⟨5, 0, false⟩ (.i 256) 7), -- QBIND.init q5, 256, g7
  (0x91C0030004C0004000000000, .semv h0 (.i 4) (.i 1) none), -- SEMV 4, 1
  (0x9200008006C0010000000000, .semq h0 6 (.i 4) none), -- SEMQ g6, 4
  (0x92400302002000F000300001, .swset h0 true false (.i 512) 3 (.i 3)), -- SWSET.keep 512, g3, 3
  (0x9280008004C0800000000001, .swread h0 true 4 (.i 512)) ] -- SWREAD.hi g4, 512
theorem test_decode_messaging : ∀ p ∈ wordsMessaging, decodeTableWord 96 p.1 = some p.2 := by decide +kernel

/-- Class 0xA: a word for each form, written out from R91 to R97 and the class's table. -/
def wordsMatrix : List (Nat × Instr) := [
  (0xA000008004C0008000000000, .sclaim h0 4 (.i 2)), -- SCLAIM g4, 2
  (0xA040008004C0008000000000, .srel h0 (.g 4) (.i 2)), -- SREL g4, 2
  (0xA08003000560008800700480, .sload h0 1 1 (.i 5) ⟨2, 0⟩ 7), -- SLOAD.acq.clu 5, [b2], g7
  (0xA0C0018002C0014800700880, .ssave h0 2 1 ⟨2, 0⟩ (.i 5) 7), -- SSAVE.rel.clu [b2], 5, g7
  (0xA10003000300000000000000, .mwld h0 0 false (.i 3)), -- MWLD.i8 3
  (0xA14000800A2002C000010000, .mgang h0 1 false 10 (.g 11)), -- MGANG.u8 g10, g11
  (0xA18000800C00000000000000, .mzero h0 12), -- MZERO g12
  (0xA1C000800D6000C000040000, .maccld h0 4 13 ⟨3, 0⟩), -- MACCLD.i32 g13, [b3]
  (0xA20000800560010800640900, .mdrain h0 4 0 2 2 5 4 6), -- MDRAIN.i32.rel.die g5, b4, g6
  (0xA20000800560010800610901, .mdrainRq h0 1 0 2 2 5 4 6), -- MDRAIN.u8.rq.rel.die g5, b4, g6
  (0xA240008007C0000000000000, .mstat h0 7 (.i 0)), -- MSTAT g7, 0
  (0xA240008007C0000000000001, .mstatClr h0 7 (.i 0)) ] -- MSTAT.clr g7, 0
theorem test_decode_matrix : ∀ p ∈ wordsMatrix, decodeTableWord 96 p.1 = some p.2 := by decide +kernel

/-- Class 0xB: a word for each form, written out from R91 to R97 and the class's table. -/
def wordsButterfly : List (Nat × Instr) := [
  (0xB00000800420014000000000, .mtwid h0 4 5), -- MTWID g4, g5
  (0xB04003000AC0008000000000, .mdrev h0 (.i 10) (.i 2)), -- MDREV 10, 2
  (0xB08003000CC0028800600007, .mbfly h0 7 (.i 12) (.i 10) 6), -- MBFLY.auto 12, 10, g6
  (0xB0C0008007C0030000000000, .mbexp h0 7 (.i 12)), -- MBEXP g7, 12
  (0xB0C0008007C00337FFD00001, .mbexpSet h0 7 (.i 12) (.i (-3))), -- MBEXP.set g7, 12, -3
  (0xB100030014C0030800800009, .mcmul h0 1 true (.i 20) (.i 12) 8) ] -- MCMUL.conj.s1 20, 12, g8
theorem test_decode_butterfly : ∀ p ∈ wordsButterfly, decodeTableWord 96 p.1 = some p.2 := by decide +kernel

/-- Class 0xC: a word for each form, written out from R91 to R97 and the class's table. -/
def wordsNames : List (Nat × Instr) := [
  (0xC00000800460009800300000, .nwalk h0 4 2 (some 3)), -- NWALK g4, b2, b3
  (0xC0400080046000C000000000, .nopen h0 4 3), -- NOPEN g4, b3
  (0xC0800080046000C000000000, .nclose h0 4 3), -- NCLOSE g4, b3
  (0xC0C000800460015800600000, .nread h0 4 5 6), -- NREAD g4, b5, b6
  (0xC10000800460015800600000, .nwrite h0 4 5 6), -- NWRITE g4, b5, b6
  (0xC1400080046000D800700000, .nbind h0 4 3 7), -- NBIND g4, b3, b7
  (0xC1800080046000C000000000, .nunbind h0 4 3 none), -- NUNBIND g4, b3
  (0xC1C00080046000C000000000, .nstat h0 4 3), -- NSTAT g4, b3
  (0xC2000080046000C000000000, .nrevoke h0 4 3), -- NREVOKE g4, b3
  (0xC2400080046000C800900000, .ncreate h0 4 3 9), -- NCREATE g4, b3, g9
  (0xC2800080046000C000000000, .nremove h0 4 3) ] -- NREMOVE g4, b3
theorem test_decode_names : ∀ p ∈ wordsNames, decodeTableWord 96 p.1 = some p.2 := by decide +kernel

/-- Class 0xD: a word for each form, written out from R91 to R97 and the class's table. -/
def wordsFabric : List (Nat × Instr) := [
  (0xD0000080046001B000400000, .rslot h0 4 6 (.i 4)), -- RSLOT g4, b6, 4
  (0xD04001800620010000000000, .rfree h0 6 (.g 4)), -- RFREE b6, g4
  (0xD0800180064000C800500580, .rpush h0 1 3 6 3 5), -- RPUSH.acq.mod b6, v3, g5
  (0xD0C000800760018000000000, .rstat h0 7 6), -- RSTAT g7, b6
  (0xD1000180834000B0040A0000, .mladd h0 false 0 ⟨3, 8⟩ 2 (.i 64)), -- MLADD.f32.est [b3+64], v2, 64
  (0xD1400100016000C8004A0000, .mlread h0 10 0 1 ⟨3, 0⟩ (some (.g 4))), -- MLREAD.f32 v1, [b3], g4
  (0xD1800080056000F001000000, .mspread h0 5 3 (.i 16)), -- MSPREAD g5, b3, 16
  (0xD1C000000000000000000000, .mlfence h0), -- MLFENCE
  (0xD20000800460017000000000, .mlcfgCreate h0 4 5 (.i 0)), -- MLCFG.create g4, b5, 0
  (0xD20000800460017000000001, .mlcfgCadence h0 4 5 (.i 0)), -- MLCFG.cadence g4, b5, 0
  (0xD20000800460017000000002, .mlcfgReset h0 4 5 (.i 0)), -- MLCFG.reset g4, b5, 0
  (0xD20000800460017000000003, .mlcfgDestroy h0 4 5 (.i 0)) ] -- MLCFG.destroy g4, b5, 0
theorem test_decode_fabric : ∀ p ∈ wordsFabric, decodeTableWord 96 p.1 = some p.2 := by decide +kernel

/-- Words that are refused, each by its own name: an unassigned opcode, a KIND that the entry does not take, a set bit
in a must-be-zero column, an ETYPE outside the row, a reserved ORDER, LEN 61, a bit of LIH's IMM56. -/
theorem test_decode_refuses :
    decodeTableWord 96 0xE00000000000000000000000 = some (.illegalOpcode 0xE00000000000000000000000) ∧
    decodeTableWord 96 0x200002000320013000060000 = none ∧ decodeTableWord 96 0x200000804320013000060000 = none ∧
    decodeTableWord 96 0x2000008003200130009A0000 = none ∧ decodeTableWord 96 0x400000800460004000001400 = none ∧
    decodeTableWord 96 0x9000008005C001D80020003D = none ∧ decodeTableWord 96 0x27C000800500000000000181 = none := by
  decide +kernel

/-- witness: DecodeOfEncode, EncodeOfDecode: a well-formed instruction with a word, and a word of 96 bits that decodes. -/
theorem witness_encode : (Instr.add h0 6 3 4 (.i (-3))).wf = true ∧ encode (.add h0 6 3 4 (.i (-3))) = some 0x2000008003200137FFD60000 ∧
    decodeWord 0x2000008003200137FFD60000 = .ok (.add h0 6 3 4 (.i (-3))) := ⟨by decide +kernel, by decide +kernel, by rfl⟩

/-- RECORD_ARRIVAL is the first of the machine's own steps, and a word that is no instruction is none of them. -/
theorem test_machine_steps : isMachineStep .recordArrival = true ∧ isMachineStep (.illegalOpcode 0) = false ∧
    isMachineStep (.mlcfgDestroy h0 1 1 (.i 0)) = false ∧ isMachineStep .lifeCycleChange = true := by decide +kernel

/-! ### Well-formedness: an ill-formed term for each check -/

theorem test_wf_integer : (Instr.add h0 8 1 2 (.i 0)).wf = false ∧ (Instr.mulh h0 1 1 2 (.i 0)).wf = false ∧
    (Instr.divu h0 0 1 2 (.i 0)).wf = false ∧ (Instr.cmp h0 0 6 1 2 (.i 0)).wf = false ∧ (Instr.clz h0 10 1 2).wf = false ∧
    (Instr.pget h0 5 1 2).wf = false := by decide
theorem test_wf_memory : (Instr.ld h0 13 0 0 1 (.mem ⟨1, 0⟩)).wf = false ∧ (Instr.ld h0 4 2 0 1 (.mem ⟨1, 0⟩)).wf = false ∧
    (Instr.ld h0 0 1 0 1 (.mem ⟨1, 0⟩)).wf = false ∧ (Instr.ld h0 4 0 1 1 (.mem ⟨1, 0⟩)).wf = false ∧
    (Instr.st h0 4 1 0 (.mem ⟨1, 0⟩) (.i 0)).wf = false ∧ (Instr.atom h0 3 0 0 0 1 ⟨1, 0⟩ (.i 0)).wf = false ∧
    (Instr.atom h0 4 0 0 7 1 ⟨1, 0⟩ (.i 0)).wf = false ∧ (Instr.cas h0 4 5 0 1 ⟨1, 0⟩ 1).wf = false ∧
    (Instr.fence h0 0 0).wf = false ∧ (Instr.fflag h0 4 5 ⟨1, 0⟩ (.i 0)).wf = false := by decide
theorem test_wf_vector : (Instr.vadd h0 8 false 1 (.v 2) none).wf = false ∧ (Instr.vabs h0 1 false 1 2 none).wf = false ∧
    (Instr.vneg h0 1 true 1 2 none).wf = false ∧ (Instr.vcmp h0 0 6 1 2 (.v 3)).wf = false ∧ (Instr.vsel h0 13 1 (.v 2) 1).wf = false ∧
    (Instr.vfadd h0 4 0 1 (.v 2) none).wf = false ∧ (Instr.vfma h0 10 5 1 2 (.v 3)).wf = false ∧
    (Instr.vfmin h0 11 1 (.v 2) none).wf = false ∧ (Instr.vred h0 10 0 3 1 2 none).wf = false ∧
    (Instr.vred h0 10 1 1 1 2 none).wf = false ∧ (Instr.vrcp h0 6 1 2 none).wf = false := by decide
theorem test_wf_convert : (Instr.vcvt h0 13 0 0 false 0 1 2 none).wf = false ∧ (Instr.vcvt h0 4 13 0 false 0 1 2 none).wf = false ∧
    (Instr.vpack2 h0 10 0 false 1 2 3).wf = false ∧ (Instr.vpack4 h0 11 0 false true 1 4).wf = false ∧
    (Instr.vunpk h0 10 0 1 2 none).wf = false ∧ (Instr.vunpk h0 14 0 1 2 none).wf = false ∧ (Instr.vunpk h0 8 0 1 2 (some 3)).wf = false ∧
    (Instr.vgath h0 8 1 ⟨1, 0⟩ 2).wf = false := by decide
theorem test_wf_engines : (Instr.send h0 61 false 1 (.i 0) none).wf = false ∧ (Instr.sload h0 2 0 (.i 1) ⟨1, 0⟩ 1).wf = false ∧
    (Instr.ssave h0 1 0 ⟨1, 0⟩ (.i 1) 1).wf = false ∧ (Instr.mwld h0 2 false (.i 1)).wf = false ∧ (Instr.mgang h0 8 true 1 (.i 1)).wf = false ∧
    (Instr.maccld h0 0 1 ⟨1, 0⟩).wf = false ∧ (Instr.mdrain h0 0 0 0 0 1 2 3).wf = false ∧ (Instr.mdrain h0 7 1 0 0 1 2 3).wf = false ∧
    (Instr.mdrainRq h0 7 0 0 0 1 2 3).wf = false ∧ (Instr.mbfly h0 5 (.i 0) (.i 0) 1).wf = false ∧
    (Instr.mcmul h0 6 false (.i 0) (.i 0) 1).wf = false := by decide
theorem test_wf_fabric : (Instr.rpush h0 1 0 1 2 3).wf = false ∧ (Instr.rpush h0 0 3 1 2 3).wf = false ∧
    (Instr.mladd h0 true 1 ⟨1, 0⟩ 1 (.i 0)).wf = false ∧ (Instr.mlread h0 4 0 1 ⟨1, 0⟩ none).wf = false ∧
    (Instr.mlread h0 7 0 1 ⟨1, 0⟩ (some (.i 1))).wf = false ∧ (Instr.illegalOpcode 0).wf = false ∧
    (Instr.rpush h0 1 3 1 2 3).wf = true := by decide

/-! ### Steps and reset -/

/-- A word placed where the machine fetches is what the next step runs: `ADD.i64 g3, g4, -3`. -/
theorem test_step_add : nxt (step (State.reset.withFetchWord 96 0x2000008003200137FFD60000)) (fun t => t.t.rdG 3 == -3 && t.t.pc == 12) = true := by
  decide +kernel

/-- witness: MachineSteps and UndecodedWords. The agenda's slot issues thread 0 and the word decodes; an ADD with an FP
ETYPE does not; an unassigned OPC traps with no FIELD. -/
theorem witness_step : (base.agenda == [{ dt := 0, what := .issue base.cur }] && base.frozen == false &&
    decide (base.t.stat = .running) && oks base.fetch (fun p => oks (decodeAt p.2.priv p.1) fun i => i == .nop h0) &&
    oks (State.reset.withFetchWord 96 0x200002000320013000060000).fetch (fun p => !good (decodeAt p.2.priv p.1)) &&
    nxt (exec (.illegalOpcode 0xE00000000000000000000000) base) (fun t => t.t.tcause == 1 && t.t.tinfo == 0)) = true := by
  decide +kernel

/-- witness: FetchReadsCode: a stale CODEH, a pc past the object, an entry without X, a page that is hashed and translates,
and an older generation's image. -/
theorem witness_fetch : let e (s : State) (p : Trp → Bool) : Bool := match s.fetch with
      | .error x => p x
      | .ok _ => false
    (e (base.updT fun t => { t with codeHGen := 9 }) (fun x => x == ⟨0x12, 1000 * 2 ^ 44, 0⟩) &&
      e (base.updT fun t => { t with pc := 12 }) (fun x => x == ⟨0x10, 1000 * 2 ^ 44 + 12, 12⟩) &&
      e (base.setHent 1 1000 { base.hent 1 1000 with rights := 1 }) (fun x => x == ⟨0x11, 1000 * 2 ^ 44, 4⟩) &&
      decide (base.t.code = .made 0) && (base.hlook 1 1000 0 == some (base.hent 1 1000)) && (base.madeN 0).hashed.contains (0, 0, 0) &&
      (base.codeImage 0 0).isNone && oks (base.places 1 (.made 0) false true (pieces 0 12)) (fun l => l.length == 1) &&
      (let s := base.updMade 0 fun m => { m with codeGen := 1, oldCode := [(0, List.replicate 12 7)] }
       s.codeImage 0 0 == some (List.replicate 12 7) && oks s.fetch fun p => p.1 == 0x070707070707070707070707)) = true := by decide +kernel

/-- witness: a step of the machine from the agenda, in a state that is not frozen. -/
theorem witness_machine_step : let s : State := { base with agenda := [{ dt := 3, what := .event .watchdog { a := 16384 } }] }
    s.frozen = false ∧ isMachineStep .watchdog = true ∧ nxt (step s) (fun t => t.now == 3 && t.agenda == []) = true := by
  decide +kernel

/-- witness: StepKeepsMemory, StepKeepsAging, StepAlwaysGoesOn. -/
theorem witness_keeps : Memory.wf base.mem = true ∧ nxt (step base) (fun t => Memory.wf t.mem) = true := by decide +kernel

/-- witness: FalseGuardFallsThrough, with m2 zero and an access that would trap. -/
theorem witness_false_guard : let h : Head := ⟨false, 2, 0, 0, false, false⟩
    headOfInstr (.ld h 4 0 0 3 (.mem ⟨9, 0⟩)) = some h ∧ base.t.stat = .running ∧ base.t.guard h = false ∧
    nxt (exec (.ld h 4 0 0 3 (.mem ⟨9, 0⟩)) base) (fun t => t.t.pc == 12 && t.t.tcause == 0) = true := by decide +kernel

/-- witness: RegisterWrites; g0 and m0 keep their values. -/
theorem witness_registers : (base.retG 5 7).t.rdG 5 = 7 ∧ (base.retG 0 7).t.rdG 0 = 0 ∧ (base.retM 0 7).t.rdM 0 = BitVec.allOnes 256 ∧
    ((base.retG 5 7).t.rdG 63 = 0) := by decide +kernel

/-! ### Scalar integers (R127 to R130) -/

/-- The operands' hypotheses, then the result in g3. -/
def scal (i : Instr) (x y r : Word) : Bool :=
  let s := gs x y
  decide (s.t.stat = .running) && s.t.guard h0 && nxt (exec i s) fun t => t.t.rdG 3 == r && t.t.pc == 12 && t.t.rdG 5 == x

/-- witness: ScalarDivision, and R129's table. -/
theorem test_division :
    scal (.div h0 4 3 5 (.g 6)) 7 (-2) (-3) ∧ scal (.rem h0 4 3 5 (.g 6)) (-7) 2 (-1) ∧
    scal (.div h0 4 3 5 (.g 6)) 5 0 (-1) ∧ scal (.rem h0 4 3 5 (.g 6)) 5 0 5 ∧ scal (.divu h0 5 3 5 (.g 6)) 5 0 0xFFFFFFFF ∧
    scal (.div h0 4 3 5 (.g 6)) 0x80000000 (-1) 0xFFFFFFFF80000000 ∧ scal (.div h0 0 3 5 (.g 6)) 0x180 (-1) 0xFFFFFFFFFFFFFF80 ∧
    scal (.remu h0 5 3 5 (.g 6)) 5 0 5 ∧ scal (.rem h0 0 3 5 (.g 6)) 0x80 (-1) 0 := by decide +kernel

/-- witness: ScalarArithmetic. -/
theorem test_arithmetic : scal (.add h0 2 3 5 (.i 1)) 0x7FFF 0 0xFFFFFFFFFFFF8000 ∧ scal (.add h0 3 3 5 (.i 1)) 0xFFFF 0 0 ∧
    scal (.sub h0 1 3 5 (.g 6)) 1 2 255 ∧ scal (.mul h0 4 3 5 (.g 6)) 0x10000 0x10000 0 ∧
    scal (.mulh h0 0 3 5 (.g 6)) 0x80 0x80 0x40 ∧ scal (.mulhu h0 1 3 5 (.g 6)) 0xFF 0xFF 0xFE ∧
    scal (.mulh h0 6 3 5 (.g 6)) (-1) 1 (-1) := by decide +kernel
/-- witness: ScalarBitwise. -/
theorem test_bitwise : scal (.and h0 7 3 5 (.i (-4))) 0xFF 0 0xFC ∧ scal (.or h0 0 3 5 (.i 1)) 0x80 0 0xFFFFFFFFFFFFFF81 ∧
    scal (.xor h0 7 3 5 (.g 6)) 0xF0 0xFF 0x0F ∧ scal (.andn h0 7 3 5 (.g 6)) 0xFF 0x0F 0xF0 := by decide +kernel
/-- witness: ScalarShifts; the low byte of 81H shifted once is 2. -/
theorem test_shifts : scal (.shl h0 1 3 5 (.i 9)) 0x81 0 2 ∧ scal (.shr h0 7 3 5 (.i 64)) 5 0 5 ∧
    scal (.sra h0 0 3 5 (.i 7)) 0x80 0 (-1) ∧ scal (.rot h0 1 3 5 (.i 4)) 0x12 0 0x21 ∧ scal (.rot h0 1 3 5 (.i 0)) 0x12 0 0x12 := by
  decide +kernel
/-- witness: ScalarCompare. -/
theorem test_compare : scal (.min h0 0 3 5 (.g 6)) 0x80 1 (-128) ∧ scal (.max h0 0 3 5 (.g 6)) 0x80 1 1 ∧
    scal (.minu h0 1 3 5 (.g 6)) 0x80 1 1 ∧ scal (.maxu h0 1 3 5 (.g 6)) 0x80 1 0x80 ∧ scal (.cmp h0 0 2 3 5 (.g 6)) 0x80 1 1 ∧
    scal (.cmp h0 1 2 3 5 (.g 6)) 0x80 1 0 ∧ scal (.cmp h0 0 0 3 5 (.g 6)) 0x101 1 1 ∧ scal (.cmp h0 7 5 3 5 (.g 6)) 1 1 1 := by
  decide +kernel
/-- witness: ScalarCounts. -/
theorem test_counts : scal (.clz h0 1 3 5) 1 0 7 ∧ scal (.clz h0 1 3 5) 0x100 0 8 ∧ scal (.ctz h0 7 3 5) 0 0 64 ∧
    scal (.ctz h0 7 3 5) 8 0 3 ∧ scal (.popc h0 3 3 5) 0x1FFFF 0 16 ∧ scal (.sext h0 0 3 5) 0x180 0 (-128) ∧
    scal (.zext h0 1 3 5) 0x1FF 0 0xFF := by decide +kernel
/-- witness: ScalarMoves. -/
theorem test_moves : scal (.li h0 3 (-9)) 1 1 (-9) ∧ scal (.lih h0 3 0x81) 1 1 0x8100000000000000 ∧ scal (.mov h0 3 (.i (-1))) 1 1 (-1) ∧
    scal (.sel h0 3 (.g 5) (.g 6)) 1 2 2 := by decide +kernel
/-- witness: BitFields. A field of 4 bits at bit 4, signed and not, its insertion, and a field past the width. -/
theorem test_fields : scal (.bfx h0 4 3 5 (.i 0x104)) 0x1F0 0 (-1) ∧ scal (.bfx h0 5 3 5 (.i 0x104)) 0x1F0 0 15 ∧
    scal (.bfi h0 5 3 5 (.i 0x104)) 0x5 0 0x50 ∧ nxt (exec (.bfx h0 1 3 5 (.i 0x247)) (gs 1 1)) (fun t =>
      t.t.tcause == 2 && t.t.tinfo == 0x60003 && decide (t.t.stat ≠ .running)) = true := by decide +kernel

/-! ### Pointers and control flow (R124 to R134) -/

/-- witness: PointerMoves. b2 of `base` is a pointer to the first 4096 bytes of pad 0. -/
theorem test_pointers :
    nxt (exec (.padd h0 3 2 (.i (-1))) base) (fun t => (t.t.rdB 3).cursor == 2 ^ 64 - 1 && (t.t.rdB 3).tag) ∧
    nxt (exec (.pset h0 3 2 (.i 77)) base) (fun t => (t.t.rdB 3).cursor == 77 && (t.t.rdB 3).top == 4096) ∧
    nxt (exec (.pget h0 2 5 2) base) (fun t => t.t.rdG 5 == 4096) ∧
    nxt (exec (.pget h0 4 5 2) base) (fun t => t.t.rdG 5 == 1 + 2 ^ 20) ∧
    nxt (exec (.pperm h0 3 2 (.i 5)) base) (fun t => (t.t.rdB 3).perms == 5) ∧
    nxt (exec (.ptag h0 5 9) base) (fun t => t.t.rdG 5 == 0 && t.t.pc == 12) ∧
    nxt (exec (.pmov h0 7 2) base) (fun t => t.t.rdB 7 == t.t.rdB 2) ∧
    nxt (exec (.psub h0 5 2 9) base) (fun t => t.t.tcause == 0x10) ∧
    nxt (exec (.psub h0 5 2 2) base) (fun t => t.t.rdG 5 == 0 && t.t.pc == 12) := by decide +kernel

/-- witness: PointerNarrow: inside the bounds, past them, without D and without a tag. -/
theorem test_pnarrow :
    nxt (exec (.pnarrow h0 3 2 (.i 100)) base) (fun t => (t.t.rdB 3).top == 100 && (t.t.rdB 3).base == 0) ∧
    nxt (exec (.pnarrow h0 3 2 (.i 5000)) base) (fun t => t.t.tcause == 0x10 && t.t.tinfo == 5000) ∧
    nxt (exec (.pnarrow h0 3 3 (.i 100)) (base.updT fun t => t.wrB 3 (mintPtr 0xEF 1 1 4096))) (fun t => t.t.tcause == 0x11 && t.t.tinfo == 16) ∧
    nxt (exec (.pnarrow h0 3 9 (.i 100)) base) (fun t => t.t.tcause == 0x13 && t.t.tinfo == 9) := by decide +kernel

/-- witness: PointerCheck, PCHK of 8 bytes with R; of 4097 bytes. -/
theorem test_pchk : ((base.t.rdB 2).pay == false && nxt (exec (.pchk h0 3 2 5) (gs 0x801 0)) (fun t => t.t.rdG 3 == 0) &&
    nxt (exec (.pchk h0 3 2 5) (gs 0x100101 0)) (fun t => t.t.rdG 3 == 0x10)) = true := by decide +kernel

/-- witness: Branches. Jumps from pc 24: back two, a register target, one that is no multiple of 12, and LOOP's last and other turns. -/
theorem test_branches : let at24 (x : Word) : State := (gs x 0).updT fun t => { t with pc := 24 }
    nxt (exec (.br h0 (-2)) (at24 0)) (fun t => t.t.pc == 0) ∧ nxt (exec (.bri h0 5) (at24 36)) (fun t => t.t.pc == 36) ∧
    nxt (exec (.bri h0 5) (at24 37)) (fun t => t.t.tcause == 0x14 && t.t.tinfo == 12) ∧
    nxt (exec (.call h0 63 3) (at24 0)) (fun t => t.t.pc == 60 && t.t.rdG 63 == 36) ∧
    nxt (exec (.calli h0 5 5) (at24 48)) (fun t => t.t.pc == 48 && t.t.rdG 5 == 36) ∧
    nxt (exec (.ret h0 5) (at24 48)) (fun t => t.t.pc == 48) ∧ nxt (exec (.loop h0 5 (-1)) (at24 1)) (fun t => t.t.pc == 36 && t.t.rdG 5 == 0) ∧
    nxt (exec (.loop h0 5 (-1)) (at24 0)) (fun t => t.t.pc == 12 && t.t.rdG 5 == -1) ∧
    nxt (exec (.loop h0 0 (-1)) (at24 0)) (fun t => t.t.pc == 36) := by decide +kernel

/-- witness: EndFreesThread. -/
theorem test_end : nxt (exec (.endAct h0) base) (fun t => t.thread base.cur == {}) ∧
    nxt (exec (.endDone h0 (some 5)) base) (fun t => t.thread base.cur == {}) := by decide +kernel

/-- Thread 0 of core 2048 belongs to launch 4 of these cores and root. -/
def ofLaunch (cores : List (Nat × Nat)) (root : Nat) (f : Launch → Launch := id) : State :=
  ((gs 0x30007 0).setLaunch 4 (f { cores := cores, root := root })).updT fun t => { t with launch := some 4, lcore := 2048 }

/-- witness: EndFreesThread. ERR 3 names the core; at the root, below it, a second time, and on no participant. -/
theorem test_end_done : (nxt (exec (.endDone h0 (some 5)) (ofLaunch [(2048, 2048)] 2048)) (fun t => t.thread t.cur == {} && (t.launch 4).closed &&
      tget (0, 0) (t.launch 4).words 2048 == (w64 (2 ^ 48 + 2048 * 2 ^ 32 + 3 * 2 ^ 16 + 7), 1)) &&
    doneParent 2080 [2080, 2048] 2048 == some 2080 && nxt (exec (.endDone h0 (some 5)) (ofLaunch [(2080, 2080), (2048, 2048)] 2080)) (fun t =>
      (t.launch 4).contributed == [2048] && t.doneMsgs.map (fun m => (m.dst, m.dup)) == [(2080, false)]) &&
    nxt (exec (.endDone h0 none) (ofLaunch [(2080, 2080), (2048, 2048)] 2048)) (fun t => t.doneMsgs == [] && !(t.launch 4).closed &&
      (t.launch 4).contributed == [2048]) &&
    nxt (exec (.endDone h0 (some 5)) (ofLaunch [(2048, 2048)] 2048 fun l => { l with contributed := [2048] })) (fun t =>
      t.doneMsgs.map (fun m => (m.dst, m.dup, m.word)) == [(2048, true, 4096)]) &&
    nxt (exec (.endDone h0 (some 5)) (ofLaunch [(9, 2080)] 2080)) (fun t => t.doneMsgs == [] && (t.launch 4).contributed == [])) = true := by decide +kernel

/-! ### Traps, control registers and system instructions (R109 to R123) -/

/-- witness: TrapEntersVector, at level 1 with a vector. -/
theorem witness_trap_enters_vector : ((base 1).ctxPriv (base 1).t.ctx == 1 && (base 1).t.invec == false &&
    nxt (exec (.trap h0 5) (base 1)) (fun t => t.t.tcause == 0x30 && t.t.tinfo == 5 && t.t.tepc == 0 && t.t.invec && t.t.pc == 12)) = true := by
  decide +kernel

/-- witness: TrapParksUser; the record goes to handler 0x700 of supervisor 3. -/
theorem witness_trap_parks_user : ((base.ctx (base.ctx base.t.ctx).govern).live && base.ctxPriv base.t.ctx == 0 &&
    (base.ctx 3).tvec.toNat / 2 ^ 32 % 2 ^ 16 == 0x700 &&
    nxt (exec (.trap h0 (-1)) base) (fun t => t.t.tinfo == -1 && decide (t.t.stat = .parked 1 false) && t.t.pc == 0 &&
      (t.core 2048).fseq == 2 && t.net.any fun r => r.isMsg && r.ctx == 3 && r.hidx == 0x700 && r.payload.length == 64)) = true := by
  decide +kernel

/-- witness: TrapKills: no supervisor, one whose vector names no handler, and a trap inside a vector. -/
theorem witness_trap_kills : (nxt (exec (.trap h0 5) (base.setCtx 3 {})) (fun t => t.t == {} && t.net == []) &&
    nxt (exec (.trap h0 5) (base.updCtx 3 fun c => { c with tvec := 0xFFFF00000000 })) (fun t => t.t == {} && t.net == []) &&
    nxt (exec (.trap h0 5) ((base 1).updT fun t => { t with invec := true })) (fun t => t.t == {})) = true := by decide +kernel

/-- witness: TrapAndBreak. -/
theorem witness_break : (decide (base.t.stat = .running) && base.t.guard h0 &&
    nxt (exec (.brk h0 9) base) (fun t => t.t.tcause == 0x31 && t.t.pc == 12 && t.t.tinfo == 9)) = true := by decide +kernel

/-- witness: EretReturns, with INVEC, without, and at level 0. -/
theorem witness_eret :
    nxt (exec (.eret h0) ((base 1).updT fun t => { t with invec := true, tepc := 36 })) (fun t => t.t.pc == 36 && !t.t.invec) ∧
    nxt (exec (.eret h0) (base 1)) (fun t => t.t.pc == 12) ∧
    nxt (exec (.eret h0) base) (fun t => t.t.tcause == 4 && t.t.tinfo == 2) := by decide +kernel

/-- witness: ObservingInstructions; 9 cycles are 3 ns. -/
theorem witness_observe : let s : State := ({ base with now := 9 } : State).updT fun t => { t with wdEnd := 20 }
    nxt (exec (.nop h0) s) (fun t => t.t.pc == 12) ∧ nxt (exec (.tstamp h0 5) s) (fun t => t.t.rdG 5 == 3) ∧
    nxt (exec (.wdog h0 5) s) (fun t => t.t.rdG 5 == 11) ∧ nxt (exec (.tmark h0 (.i 3)) s) (fun t => t.t.pc == 12) := by decide +kernel

/-- witness: ControlRegisterReads at levels 0, 1 and 2; an unoccupied index and one above the level. -/
theorem witness_crd : nxt (exec (.crd h0 5 0x003) (base.updT fun t => { t with rmode := 2 })) (fun t => t.t.rdG 5 == 2) ∧
    nxt (exec (.crd h0 5 0x042) (base 1)) (fun t => t.t.rdG 5 == 1) ∧
    nxt (exec (.crd h0 5 0x104) (base 2)) (fun t => t.t.rdG 5 == 32) ∧
    nxt (exec (.crd h0 5 0x042) base) (fun t => t.t.tcause == 4 && t.t.tinfo == 0x42) ∧ (crLimit 0 == 0x40 && crOccupied 0x3F == false) = true ∧
    nxt (exec (.crd h0 5 0x03F) base) (fun t => t.t.tcause == 2 && t.t.tinfo == 2) := by decide +kernel

/-- witness: ControlRegisterReads at level 3, in the secure world and in the other; and the level's own fields of coreid. -/
theorem witness_crd_monitor : let s (w : Bool) := (base 3).updFn 0 fun f => { f with recd := { f.recd with world := w } }
    ((s true).priv == 3 && (s true).ctxWorld (s true).t.ctx && !(s false).ctxWorld (s false).t.ctx &&
      nxt (exec (.crd h0 5 0x1C0) (s true)) (fun t => t.t.rdG 5 == 0xFFFF00000000) &&
      nxt (exec (.crd h0 5 0x1C1) (s false)) (fun t => t.t.tcause == 4 && t.t.tinfo == 0x1C1) &&
      nxt (exec (.crd h0 5 0x008) (s true)) (fun t => t.t.rdG 5 == 0x70800) && nxt (exec (.crd h0 5 0x043) (base 1)) (fun t => t.t.rdG 5 == 0) &&
      nxt (exec (.crd h0 5 0x102) (base 2)) (fun t => t.t.rdG 5 == 0x11)) = true := by decide +kernel

/-- witness: ControlRegisterWrites, an index above the level, an unoccupied one, and the monitor's in the other world. -/
theorem witness_cwr_traps : (nxt (exec (.cset h0 0x041 (.i 1)) base) (fun t => t.t.tcause == 4 && t.t.tinfo == 0x41) &&
    nxt (exec (.cclr h0 0x03F (.i 1)) base) (fun t => t.t.tcause == 2 && t.t.tinfo == 1) &&
    nxt (exec (.cwr h0 0x1C0 (.i 1)) (base 3)) (fun t => t.t.tcause == 4 && t.t.tinfo == 0x1C0) &&
    nxt (exec (.cset h0 0x008 (.i 1)) base) (fun t => t.t.tcause == 2 && t.t.tinfo == 0x70001) &&
    nxt (exec (.cwr h0 0x002 (.i 0x20)) (base.updT fun t => { t with fpflags := 9 })) (fun t => t.t.fpflags == 9) &&
    nxt (exec (.cwr h0 0x103 (.i 31)) (base 2)) (fun t => (t.fn 0).l2limit == 24) &&
    nxt (exec (.cwr h0 0x104 (.i 1)) (base 2)) (fun t => (t.fn 0).padlimit == 16)) = true := by decide +kernel

/-- witness: ControlRegisterWrites; rmode keeps its value for a reserved code. -/
theorem witness_cwr : nxt (exec (.cwr h0 0x002 (.i 0x15)) base) (fun t => t.t.fpflags == 0x15) ∧
    nxt (exec (.cset h0 0x002 (.i 2)) (base.updT fun t => { t with fpflags := 1 })) (fun t => t.t.fpflags == 3) ∧
    nxt (exec (.cclr h0 0x002 (.i 2)) (base.updT fun t => { t with fpflags := 7 })) (fun t => t.t.fpflags == 5) ∧
    nxt (exec (.cwr h0 0x003 (.i 4)) base) (fun t => t.t.rmode == 4) ∧ nxt (exec (.cwr h0 0x003 (.i 5)) base) (fun t => t.t.rmode == 0 && t.t.pc == 12) ∧
    nxt (exec (.cwr h0 0x041 (.i 9)) (base 1)) (fun t => (t.ctx 1).tscratch == 9) ∧
    nxt (exec (.cwr h0 0x000 (.i 9)) base) (fun t => t.t.tcause == 2 && t.t.tinfo == 0x70001) := by decide +kernel

/-- witness: HaltAndSync and Mint. A code object is behind handle 30 and pad 0 behind handle 1. -/
theorem witness_system : let s (p x y : Nat) : State := obj (gs (w64 x) (w64 y) p) 30 30 65536 1000 kCode
    nxt (exec (.halt h0) (s 2 0 0)) (fun t => t.thread t.cur == {} && (t.core 2048).idle) ∧
    nxt (exec (.halt h0) (s 1 0 0)) (fun t => t.t.tcause == 4 && t.t.tinfo == 11) ∧
    ((s 1 0 0).hcap 1 == 1024 && ((s 1 0 0).hent 1 1).used) = true ∧
    nxt (exec (.pmint h0 3 5 6) (s 1 (1 + 3 * 2 ^ 20) 300)) (fun t => (t.t.rdB 3).tag && (t.t.rdB 3).perms == 3 && (t.t.rdB 3).top == 300) ∧
    nxt (exec (.pmint h0 3 5 6) (s 0 1 300)) (fun t => t.t.tcause == 4 && t.t.tinfo == 12) ∧
    nxt (exec (.icsync h0 5) (s 1 30 0)) (fun t => (t.madeN 30).codeGen == 1 && t.t.pc == 12) ∧
    nxt (exec (.icsync h0 5) (s 0 30 0)) (fun t => t.t.tcause == 4 && t.t.tinfo == 15) := by decide +kernel

/-- witness: HaltAndSync and Mint, where they trap: a free entry, another kind, rights and a length that the entry lacks. -/
theorem witness_system_traps : let s (x y : Nat) : State := (gs (w64 x) (w64 y) 1).setHent 1 1 { state := 2, gen := 1, node := .pad 0 0, rights := 3, grant := 3, size := 64 }
    (nxt (exec (.icsync h0 5) (s 77 0)) (fun t => t.t.tcause == 0x12 && t.t.taddr == 77 * 2 ^ 44) && (s 2000 0).hcap 1 ≤ 2000 &&
      nxt (exec (.icsync h0 5) (s 2000 0)) (fun t => t.t.tcause == 0x12) && nxt (exec (.icsync h0 5) (s 1 0)) (fun t => t.t.tcause == 2 && t.t.tinfo == 0x10001) &&
      nxt (exec (.pmint h0 3 5 6) (s 77 1)) (fun t => t.t.tcause == 0x12) && nxt (exec (.pmint h0 3 5 6) (s (1 + 4 * 2 ^ 20) 1)) (fun t => t.t.tcause == 0x11 && t.t.tinfo == 4) &&
      nxt (exec (.pmint h0 3 5 6) (s 1 65)) (fun t => t.t.tcause == 0x10 && t.t.tinfo == 65) && (encodeBounds 0 64).isSome) = true := by decide +kernel

/-- `mapped` at level 1 whose context governs itself, with thread 3 of logical core 2048 in the state `st`. -/
def other (st : TStat) (p : Nat := 1) : State :=
  let s := ((mapped p).updCtx 1 fun x => { x with govern := 1 }).updFn 0 fun f => { f with cur := 1 }
  s.setThread (8 * 2048 + 3) { ctx := 1, stat := st, tepc := 48, pc := 96 }

/-- witness: ResumeAndKill. The word names the thread, context 1 and sequence number 5. -/
theorem witness_resume : let w : Word := 0x500013800
    let s (st : TStat) (p : Nat := 1) : State := (other st p).updT fun t => t.wrG 5 w
    ((s (.parked 5 false)).mapCore 1 2048 == some 2048 && (s (.parked 5 false)).mayAct 1 false && (s (.parked 5 true) 2).mayAct 1 true &&
      nxt (exec (.sresume h0 6 5) (s (.parked 5 false))) (fun t => t.t.rdG 6 == 0 && (t.thread 16387).pc == 96 && decide ((t.thread 16387).stat = .running)) &&
      nxt (exec (.sresumeSkip h0 6 5) (s (.parked 5 true) 2)) (fun t => t.t.rdG 6 == 0 && (t.thread 16387).pc == 60) &&
      nxt (exec (.tkill h0 6 5) (s (.parked 5 false))) (fun t => t.t.rdG 6 == 0 && t.thread 16387 == {}) &&
      nxt (exec (.tkill h0 6 5) (s (.parked 4 false))) (fun t => t.t.rdG 6 == 1) &&
      nxt (exec (.sresume h0 6 5) (s .running)) (fun t => t.t.rdG 6 == 1)) = true := by decide +kernel

/-- witness: ResumeAndKill, a supervisor that does not govern the context. -/
theorem witness_resume_other : let s : State := ((other .running).updCtx 1 fun x => { x with govern := 3 }).updT fun t => t.wrG 5 0x13800
    (s.mayAct 1 false == false && nxt (exec (.sresume h0 6 5) s) (fun t => t.t.rdG 6 == 2) &&
      nxt (exec (.tkill h0 6 5) s) (fun t => t.t.rdG 6 == 2)) = true := by decide +kernel

/-- witness: ResumeAndKill, a core that is not mapped, one of die 1, and user level. -/
theorem witness_resume_traps : let s (w : Word) (p : Nat := 1) : State := ((put (put (other .running p) 20 4098 2 0x8040) 21 1 1 0x81).updFn 0
      fun f => { f with recd := { f.recd with quartos := 0x11 } }).updT fun t => t.wrG 5 w
    ((s 0x107FF).mapCore 1 0x7FF == none && nxt (exec (.sresume h0 6 5) (s 0x107FF)) (fun t => t.t.tcause == 2 && t.t.tinfo == 0x7FF) &&
      nxt (exec (.tkill h0 6 5) (s 0x107FF)) (fun t => t.t.tcause == 2) && (s 0x13801).mapCore 1 0x801 == some (coreOf 1 0 2) &&
      nxt (exec (.sresumeSkip h0 6 5) (s 0x13801)) (fun t => t.t.tcause == 2 && t.t.tinfo == 0x801) && nxt (exec (.tkill h0 6 5) (s 0x13800 0)) (fun t => t.t.tcause == 4 && t.t.tinfo == 14) &&
      nxt (exec (.sresume h0 6 5) (s 0x13800 0)) (fun t => t.t.tcause == 4 && t.t.tinfo == 13)) = true := by decide +kernel

/-! ### Memory (R135 to R145) -/

/-- `base` with data in pad 0, b3 a pointer to an object homed on die 3, and b4 one to an object of die 0. -/
def memS (x : Nat := 0x1122334455667788) : State :=
  let s := obj (obj base 5 2 4096 64) 6 3 4096 128
  let s := s.updMade 6 fun n => { n with home := 3 }
  (s.pokeN (padAddr 0 0) 8 x).updT fun t => ((t.wrB 3 (mintPtr 0xFF 1 3 4096)).wrB 4 (mintPtr 0xFF 1 2 4096)).wrB 6 (mintPtr 0xFF 7 9 32)

/-- The hypotheses of a plain access of n bytes through b[m.b] with permission `need` and kind k of race check. -/
def reachOk (s : State) (m : MemOp) (n need : Nat) (a : AccKind) (al k : Nat) : Bool :=
  decide (s.t.stat = .running) && s.t.guard h0 && (s.t.rdB m.b).pay == false && s.posted == [] &&
  oks (s.reach (s.t.rdB m.b) m.b.toNat (dispOf m n) n need a al) fun hit =>
    good (s.raceCheck (s.t.rdB m.b) hit.node hit.off n k) && hit.places.length == 1

/-- witness: PlainLoad, signed and unsigned. -/
theorem witness_ld : (reachOk memS ⟨2, 0⟩ 4 1 .load 1 0 && nxt (exec (.ld h0 5 0 0 3 (.mem ⟨2, 0⟩)) memS) (fun t => t.t.rdG 3 == 0x55667788) &&
    nxt (exec (.ld h0 0 0 0 3 (.mem ⟨2, 0⟩)) memS) (fun t => t.t.rdG 3 == -120) && reachOk memS ⟨4, 0⟩ 4 1 .load 1 0 &&
    nxt (exec (.ld h0 5 0 0 3 (.mem ⟨4, 0⟩)) memS) (fun t => t.t.rdG 3 == 0)) = true := by decide +kernel

/-- witness: PlainStore, at an own home and at another die's. -/
theorem witness_st : (reachOk memS ⟨2, 1⟩ 2 2 .store 1 1 && nxt (exec (.st h0 3 0 0 (.mem ⟨2, 1⟩) (.i (-2))) memS) (fun t =>
      t.peekN (padAddr 0 0) 8 == 0x11223344FFFE7788 && t.t.pc == 12) && reachOk memS ⟨3, 1⟩ 2 2 .store 1 1 && memS.remote (.made 6) &&
    nxt (exec (.st h0 3 0 0 (.mem ⟨3, 1⟩) (.i (-2))) memS) (fun t => t.mem == memS.mem && t.posted.any fun q =>
      q.bytes == [0xFE, 0xFF] && q.node == .made 6 && q.off == 2)) = true := by decide +kernel

/-- witness: PlainLoad, acquiring; Stores, releasing, after the posted store. -/
theorem witness_ordered : (reachOk memS ⟨2, 0⟩ 4 129 .load 4 2 && nxt (exec (.ld h0 5 1 0 3 (.mem ⟨2, 0⟩)) memS) (fun t => t.t.rdG 3 == 0x55667788) &&
    reachOk memS ⟨2, 1⟩ 2 130 .store 2 3 && nxt (exec (.st h0 3 0 0 (.mem ⟨3, 1⟩) (.i (-2))) memS) (fun s =>
      nxt (exec (.st h0 3 2 0 (.mem ⟨2, 1⟩) (.i 1)) s) fun t => t.posted == [] && t.peekN (padAddr 0 0) 8 == 0x1122334400017788)) = true := by decide +kernel

/-- witness: StoresWait: an NWRITE of the activation on b2's handle is under way; a store to launch queue 0. -/
theorem witness_stores_wait : let s := memS.setTxn 5 { op := 4, issuer := memS.me, ctx := 1, ha := (1, 1) }
    let q := (memS.setHent 1 8 { state := 2, gen := 1, node := .launch 0 0, rights := 0xFF, grant := 0xFF, size := 4096 }).updT fun t => t.wrB 5 (mintPtr 0xFF 1 8 4096)
    (s.awaitsWrite (s.t.rdB 2) && nxt (exec (.st h0 3 0 0 (.mem ⟨2, 1⟩) (.i 7)) s) (fun t => t == s) &&
      nxt (exec (.pst h0 ⟨2, 1⟩ 6) s) (fun t => t == s) && !q.awaitsWrite (q.t.rdB 5) && q.nodeKind (.launch 0 0) == kQueue &&
      good (q.checkPtr 1 (q.t.rdB 5) 5 (dispOf ⟨5, 1⟩ 8) 8 2) && nxt (exec (.st h0 7 0 0 (.mem ⟨5, 1⟩) (.i 7)) q) (fun t =>
        t.posted.map (fun x => (x.node, x.off, x.bytes)) == [(.launch 0 0, 8, [7, 0, 0, 0, 0, 0, 0, 0])] && t.mem == q.mem)) = true := by decide +kernel

/-- witness: UntaggedPointerTraps, through b9. -/
theorem witness_untagged : ((memS.t.rdB 9).tag == false &&
    nxt (exec (.ld h0 5 0 0 3 (.mem ⟨9, 0⟩)) memS) (fun t => t.t.tcause == 0x13 && t.t.tinfo == 9) &&
    nxt (exec (.cas h0 5 0 0 3 ⟨9, 0⟩ 3) memS) (fun t => t.t.tcause == 0x13) && nxt (exec (.pst h0 ⟨9, 0⟩ 2) memS) (fun t => t.t.tcause == 0x13)) = true := by
  decide +kernel

/-- witness: AtomicUpdates; FailedCas with g3 unlike memory. -/
theorem witness_atom : (reachOk memS ⟨2, 0⟩ 4 8 .atomic 4 3 && reachOk memS ⟨2, 0⟩ 4 8 .atomic 4 0 && etAtom 5 &&
    nxt (exec (.atom h0 5 0 0 0 3 ⟨2, 0⟩ (.i 1)) memS) (fun t => t.t.rdG 3 == 0x55667788 && t.peekN (padAddr 0 0) 8 == 0x1122334455667789) &&
    nxt (exec (.atom h0 5 0 0 5 3 ⟨2, 0⟩ (.i 1)) memS) (fun t => t.peekN (padAddr 0 0) 8 == 0x1122334400000001) &&
    nxt (exec (.cas h0 5 0 0 3 ⟨2, 0⟩ 4) (memS.updT fun t => (t.wrG 3 0x55667788).wrG 4 9)) (fun t => t.peekN (padAddr 0 0) 8 == 0x1122334400000009) &&
    nxt (exec (.cas h0 5 0 0 3 ⟨2, 0⟩ 4) memS) (fun t => t.t.rdG 3 == 0x55667788 && t.mem == memS.mem)) = true := by decide +kernel

/-- witness: FenceFlagPrefetch; a release performs the posted store, an acquire does not. -/
theorem witness_fence : (releases 2 && !releases 1 && reachOk memS ⟨2, 0⟩ 4 130 .store 4 3 &&
    nxt (exec (.st h0 3 0 0 (.mem ⟨3, 1⟩) (.i (-2))) memS) (fun s => s.posted.length == 1 &&
      nxt (exec (.fence h0 2 4) s) (fun t => t.posted == [] && t.t.pc == 24) && nxt (exec (.fence h0 1 4) s) (fun t => t.posted.length == 1)) &&
    nxt (exec (.fflag h0 5 1 ⟨2, 0⟩ (.i 7)) memS) (fun t => t.peekN (padAddr 0 0) 8 == 0x1122334400000007) &&
    nxt (exec (.pref h0 true ⟨9, 0⟩) memS) (fun t => t.t.pc == 12)) = true := by decide +kernel

/-- witness: PointersInMemory; the tag travels with the 128 bits and a store of data clears it. -/
theorem witness_pointers_in_memory : (reachOk memS ⟨2, 1⟩ 16 2 .store 16 1 && reachOk memS ⟨2, 1⟩ 16 1 .load 16 0 &&
    nodePad (.pad 0 0) == some memS.myPad && nxt (exec (.pst h0 ⟨2, 1⟩ 6) memS) (fun s => s.t.pc == 12 &&
      nxt (exec (.pld h0 7 ⟨2, 1⟩) s) (fun t => t.t.rdB 7 == t.t.rdB 6 && (t.t.rdB 7).tag) &&
      nxt (exec (.st h0 0 0 0 (.mem ⟨2, 17⟩) (.i 0)) s) (fun s =>
        nxt (exec (.pld h0 7 ⟨2, 1⟩) s) fun t => !(t.t.rdB 7).tag))) = true := by decide +kernel

/-- witness: PointersInMemory, a pointer without G to another object than the own pad, and one that is posted. -/
theorem witness_pst : let s := memS.updT fun t => t.wrB 7 (mintPtr 0x3F 1 1 64)
    (nxt (exec (.pst h0 ⟨4, 0⟩ 7) s) (fun t => t.t.tcause == 0x11 && t.t.tinfo == 64) && reachOk s ⟨3, 0⟩ 16 2 .store 16 1 && s.remote (.made 6) &&
      nxt (exec (.pst h0 ⟨3, 0⟩ 6) s) (fun t => t.mem == s.mem && t.posted.map (fun q => (q.pst, q.tag, q.node)) == [(true, true, .made 6)])) = true := by decide +kernel

/-- An access past the bounds, one that is not aligned, and a permission that the pointer lacks. -/
theorem test_access_traps : nxt (exec (.ld h0 7 0 0 3 (.mem ⟨2, 512⟩)) base) (fun t => t.t.tcause == 0x10) ∧
    nxt (exec (.atom h0 5 0 0 0 3 ⟨2, 0⟩ (.i 1)) (base.updT fun t => t.wrB 2 { t.rdB 2 with raw := (t.rdB 2).raw + 1 })) (fun t => t.t.tcause == 0x14 && t.t.tinfo == 4) ∧
    nxt (exec (.st h0 5 0 0 (.mem ⟨2, 0⟩) (.i 1)) (base.updT fun t => t.wrB 2 (mintPtr 1 1 1 4096))) (fun t => t.t.tcause == 0x11 && t.t.tinfo == 2) := by
  decide +kernel

/-! ### Vectors (R146 to R165) -/

/-- v1 and v2 as given in their low bits, v4 with 1 in each 32-bit lane, m3 as given, g5 = 3. -/
def vs (x y : Nat) (m : Nat := 0) : State :=
  base.updT fun t => (((((t.wrV 1 (BitVec.ofNat 2048 x)).wrV 2 (BitVec.ofNat 2048 y)).wrV 4 (BitVec.ofNat 2048 ((2 ^ 2048 - 1) / (2 ^ 32 - 1)))).wrM 3
    (BitVec.ofNat 256 m)).wrG 5 3)

/-- The hypotheses, then element i (of w bytes) of v1 after the instruction. -/
def vres (i : Instr) (s : State) (w : Nat) (l : List Nat) : Bool :=
  decide (s.t.stat = .running) && s.t.guard h0 && nxt (exec i s) fun t =>
    t.t.pc == 12 && (List.range l.length).map (fun k => el (t.t.rdV 1) k w) == l

/-- witness: VectorArithmetic; lane 1 is inactive where m3 is 1. -/
theorem test_vector_arithmetic : (vres (.vadd h0 0 false 1 (.v 2) none) (vs 0x017F 0x0101) 1 [0x80, 2] &&
    vres (.vadd h0 0 true 1 (.v 2) (some 3)) (vs 0x017F 0x0101 1) 1 [0x7F, 1] && vres (.vsub h0 1 true 1 (.v 2) none) (vs 1 2) 1 [0] &&
    vres (.vsub h0 1 false 1 (.v 2) none) (vs 1 2) 1 [255] && vres (.vmul h0 2 1 (.v 2) none) (vs 0x100 0x101) 2 [0x100] &&
    vres (.vmulh h0 0 1 (.v 2) none) (vs 0x80 0x80) 1 [0x40] && vres (.vmin h0 0 1 (.i (-1)) none) (vs 0x80 0) 1 [0x80, 255] &&
    vres (.vmax h0 1 1 (.g 5) none) (vs 0x0180 0) 1 [0x80, 3]) = true := by decide +kernel

/-- witness: VectorLogic. -/
theorem test_vector_logic : (vres (.vand h0 1 1 (.v 2) none) (vs 0xF3 0x0F) 1 [3] && vres (.vor h0 1 1 (.v 2) none) (vs 0xF0 0x0F) 1 [255] &&
    vres (.vxor h0 1 1 (.v 2) (some 3)) (vs 0xFFFF 0x0F0F 1) 1 [0xF0, 0xFF] && vres (.vshl h0 1 1 (.i 9) none) (vs 0x81 0) 1 [2] &&
    vres (.vshr h0 1 1 (.i 4) none) (vs 0x81 0) 1 [8] && vres (.vsra h0 0 1 (.i 4) none) (vs 0x81 0) 1 [0xF8] &&
    vres (.vnot h0 1 1 2 none) (vs 0 0x0F) 1 [0xF0, 0xFF] && vres (.vabs h0 0 false 1 2 none) (vs 0 0x80FF) 1 [1, 0x80] &&
    vres (.vabs h0 0 true 1 2 none) (vs 0 0x80FF) 1 [1, 0x7F] && vres (.vneg h0 0 true 1 2 none) (vs 0 0x8001) 1 [255, 0x7F] &&
    vres (.vmad h0 1 1 2 (.i 3)) (vs 5 4) 1 [17, 0]) = true := by decide +kernel

/-- Lane k of m2 (w bytes each) after the instruction. -/
def mres (i : Instr) (s : State) (w : Nat) (l : List Bool) : Bool :=
  nxt (exec i s) fun t => t.t.pc == 12 && (List.range l.length).map (fun k => bits (t.t.rdM 2).toNat (k * w) w == 2 ^ w - 1) == l

/-- witness: VectorMasks. m3 has lane 1 of 16-bit elements active. -/
theorem test_vector_masks : (mres (.vcmp h0 0 0 2 1 (.v 2)) (vs 0x0302 0x0402) 1 [true, false, true] &&
    mres (.vcmp h0 2 2 2 1 (.i 0)) (vs 0x0001FFFF 0) 2 [true, false, false] && mres (.vcmp h0 3 5 2 1 (.i 1)) (vs 0x0001FFFF 0) 2 [true, true, false] &&
    mres (.lbc h0 4 2 5 (.i 5)) (vs 0 0) 4 [true, true, false] && mres (.lbc h0 5 2 5 (.i 5)) (vs 0 0) 4 [true, true, false] &&
    mres (.kand h0 2 0 3) (vs 0 0 12) 2 [false, true, false] && mres (.kor h0 2 3 3) (vs 0 0 12) 2 [false, true, false] &&
    mres (.knot h0 2 3) (vs 0 0 12) 2 [true, false, true] &&
    nxt (exec (.kpopc h0 3 6 3) (vs 0 0 12)) (fun t => t.t.rdG 6 == 1) && nxt (exec (.kfirst h0 3 6 3) (vs 0 0 12)) (fun t => t.t.rdG 6 == 1) &&
    nxt (exec (.kfirst h0 3 6 3) (vs 0 0 0)) (fun t => t.t.rdG 6 == -1)) = true := by decide +kernel

/-- witness: VectorLanes; lane index 130 of 128 lanes is 2. -/
theorem test_vector_lanes : (vres (.vsel h0 1 1 (.v 2) 3) (vs 0x0302 0x0504 2) 1 [2, 5] && vres (.vmov h0 1 2) (vs 0 0x0504) 1 [4, 5] &&
    vres (.vbcast h0 3 1 2 (.i 130)) (vs 0 0x700020001) 2 [7, 7, 7] && nxt (exec (.vextr h0 2 6 2 (.i 129)) (vs 0 0xFFFE0001)) (fun t => t.t.rdG 6 == -2) &&
    vres (.vins h0 3 1 (.i 9) (.i 129)) (vs 0x00020001 0) 2 [1, 9, 0] && vres (.viota h0 1 1 (.i 250) (.i 3)) (vs 0 0) 1 [250, 253, 0, 3] &&
    nxt (exec (.vwid h0 6) (vs 0 0)) (fun t => t.t.rdG 6 == 2048)) = true := by decide +kernel

/-- witness: VectorPermute. -/
theorem test_vector_permute : (vres (.vperm h0 3 1 2 4) ((vs 0 0x00070005).updT fun t => t.wrV 4 (BitVec.ofNat 2048 0x00800001)) 2 [7, 0, 5] &&
    vres (.vslide h0 3 1 2 (.i (-1))) (vs 9 0x00070005) 2 [9, 5, 7] && vres (.vzip h0 3 false 1 2 4) (vs 0 0x00070005) 2 [5, 1, 7, 0] &&
    vres (.vuzp h0 3 true 1 2 4) (vs 0 0x00070005) 2 [7, 0]) = true := by decide +kernel

/-- witness: VectorFloat, in FP32: 1.0 is 3F800000, 1.5 is 3FC00000, 2.5 is 40200000, −1.0 is BF800000. -/
theorem test_vector_float : (etFp 10 && vres (.vfadd h0 10 0 1 (.v 2) none) (vs 0x3F800000 0x3FC00000) 4 [0x40200000, 0] &&
    vres (.vfsub h0 10 0 1 (.v 2) none) (vs 0x3F800000 0x40000000) 4 [0xBF800000] && vres (.vfmul h0 10 0 1 (.v 2) none) (vs 0x3FC00000 0x3FC00000) 4 [0x40100000] &&
    vres (.vfmin h0 10 1 (.v 2) none) (vs 0x3F800000 0xBF800000) 4 [0xBF800000] && vres (.vfmax h0 10 1 (.v 2) none) (vs 0x7FC00001 0xBF800000) 4 [0xBF800000] &&
    vres (.vfabs h0 10 1 2 none) (vs 0 0xBF800000) 4 [0x3F800000] && vres (.vfneg h0 10 1 2 none) (vs 0 0x3F800000) 4 [0xBF800000, 0x80000000] &&
    vres (.vfma h0 10 0 1 2 (.g 5)) ((vs 0x3F800000 0x3FC00000).updT fun t => t.wrG 5 0x3F800000) 4 [0x40200000] &&
    vres (.vfms h0 10 0 1 2 (.v 2)) (vs 0x3F800000 0x3F800000) 4 [0] && vres (.vfnma h0 10 0 1 2 (.v 2)) (vs 0x3F800000 0x3F800000) 4 [0, 0] &&
    vres (.vfclass h0 10 1 2 none) (vs 0 0x7F800000) 4 [0x80, 0x10]) = true := by decide +kernel

/-- witness: VectorReduce; 1.5 and 63 zeros, and a compare of lane 0. -/
theorem test_vector_reduce : (nxt (exec (.vred h0 10 0 0 6 2 none) (vs 0 0x3FC000003F800000)) (fun t => t.t.rdG 6 == 0x40200000) &&
    nxt (exec (.vred h0 10 0 1 6 2 (some 3)) (vs 0 0x3F8000003FC00000 0xF0)) (fun t => t.t.rdG 6 == 0x3F800000) &&
    nxt (exec (.vred h0 10 0 2 6 2 none) (vs 0 0xBF800000)) (fun t => t.t.rdG 6 == 0xBF800000) &&
    mres (.vfcmp h0 10 2 2 1 (.v 2)) (vs 0x3F800000 0x3FC00000) 4 [true, false]) = true := by decide +kernel

/-- witness: VectorConvert. E2M1 codes are 4 bits: 1.5 is 3 and 6.0 is 7. -/
theorem test_vector_convert : (vres (.vcvt h0 9 10 0 false 0 1 2 none) (vs 0 0x3FC000003F800000) 2 [0x3F80, 0x3FC0] &&
    vres (.vcvt h0 4 10 0 true 0 1 2 none) (vs 0 0xC0200000) 4 [0xFFFFFFFE] && vres (.vpack2 h0 9 0 false 1 2 4) (vs 0 0x3FC00000) 2 [0x3FC0, 0] &&
    vres (.vunpk h0 9 0 1 2 none) (vs 0 0x3FC03F80) 4 [0x3F800000, 0x3FC00000] &&
    vres (.vpack4 h0 11 0 true false 1 4) (vs 0 0) 1 [0] && vres (.vpack4 h0 13 0 true false 1 4) ((vs 0 0).updT fun t =>
      t.wrV 4 (BitVec.ofNat 2048 0x40C000003FC00000)) 1 [0x73, 0] &&
    (Instr.vpack4 h0 11 0 true false 1 5).wf == false && (encode (.vpack4 h0 11 0 true false 1 5)).any (fun w => !good (decodeWord w))) = true := by decide +kernel

/-- witness: SpecialFunctions; 2^1 = 2, and the pc moves with the result. -/
theorem test_special_functions : nxt (exec (.vexp2 h0 1 2 none) (vs 0 0x3F800000)) (fun s => decide (s.t.stat = .sfu) && s.t.pc == 0 &&
      nxt (exec .specialFunctionResult { s with arg := { a := s.myPad } }) fun t => el (t.t.rdV 1) 0 4 == 0x40000000 && t.t.pc == 12) ∧
    nxt (exec (.vlog2 h0 1 2 none) (vs 0 0)) (fun s => decide (s.t.stat = .sfu)) ∧ nxt (exec (.vrcp h0 0 1 2 none) (vs 0 0)) (fun s => decide (s.t.stat = .sfu)) ∧
    nxt (exec (.vrsq h0 0 1 2 none) (vs 0 0)) (fun s => decide (s.t.stat = .sfu)) ∧ nxt (exec (.vsin h0 1 2 none) (vs 0 0)) (fun s => decide (s.t.stat = .sfu)) ∧
    nxt (exec (.vcos h0 1 2 none) (vs 0 0)) (fun s => decide (s.t.stat = .sfu)) ∧ nxt (exec (.vtanh h0 1 2 none) (vs 0 0)) (fun s => decide (s.t.stat = .sfu)) := by
  decide +kernel

/-- `memS` with offsets 2 and 0 in v2's lanes, lane 1 of 16-bit elements active in m3, and v1 all ones in its low bytes. -/
def vmem : State :=
  (memS.setT { (vs 0x0005FFFF 0 12).t with b := memS.t.b }).updT fun t => (t.wrV 2 (BitVec.ofNat 2048 2)).wrG 5 0x200000004

def elemsOk (s : State) (need : Nat) (a : AccKind) (l : List (Nat × Int)) : Bool := oks (s.hitElems (s.t.rdB 2) 2 2 need a l) fun hs => hs.length == l.length

/-- witness: VectorMemory, loads; the stride is 4 bytes, two lanes. -/
theorem test_vector_loads : (elemsOk vmem 1 .load (unitElems (vmem.t.om (some 3)) 2 0) && vres (.vld h0 3 1 (.mem ⟨2, 0⟩) (some 3)) vmem 2 [0xFFFF, 0x5566] &&
    elemsOk vmem 1 .load (strideElems (vmem.t.rdG 5) 2 0) && vres (.vlds h0 3 1 ⟨2, 0⟩ 5) vmem 2 [0x7788, 0x3344, 0] &&
    elemsOk vmem 1 .load (bcastElems (vmem.t.om none) 2 0) && vres (.vldb h0 3 1 ⟨2, 0⟩ none) vmem 2 [0x7788, 0x7788]) = true := by decide +kernel

/-- witness: VectorMemory, stores and gathers. -/
theorem test_vector_stores : (elemsOk vmem 2 .store (unitElems (vmem.t.om (some 3)) 2 0) &&
    nxt (exec (.vst h0 3 (.mem ⟨2, 0⟩) 1 (some 3)) vmem) (fun t => t.peekN (padAddr 0 0) 8 == 0x1122334400057788) &&
    elemsOk vmem 2 .store (strideElems (vmem.t.rdG 5) 2 0) &&
    nxt (exec (.vsts h0 3 ⟨2, 0⟩ 1 5) vmem) (fun t => t.t.pc == 12 && t.peekN (padAddr 0 0) 8 == 0x112200055566FFFF) &&
    elemsOk vmem 2 .store (indexElems (vmem.t.rdV 2) 2 0) &&
    nxt (exec (.vscat h0 3 ⟨2, 0⟩ 1 2) vmem) (fun t => t.t.pc == 12 && t.peekN (padAddr 0 0) 4 == 0xFFFF0000) &&
    elemsOk vmem 1 .load (indexElems (vmem.t.rdV 2) 2 0) &&
    vres (.vgath h0 3 1 ⟨2, 0⟩ 2) vmem 2 [0x5566, 0x7788]) = true := by decide +kernel

/-! ### Queues, messages, joins, semaphores, sync words (R35, R166 to R181) -/

/-- b7 is a payload pointer of 8 bytes 0, 1, …, with R alone; b8 one with W alone. -/
def paid : State := base.updT fun t =>
  { (t.wrB 7 { mintPtr 1 0 0 8 with pay := true }).wrB 8 { mintPtr 2 0 0 8 with pay := true } with payload := [0, 1, 2, 3, 4, 5, 6, 7] }

/-- witness: PayloadAccess. -/
theorem test_payload : ((paid.t.rdB 7).pay && (paid.t.rdB 7).tag && nxt (exec (.ld h0 3 0 0 3 (.mem ⟨7, 1⟩)) paid) (fun t => t.t.rdG 3 == 0x0302 && t.t.pc == 12) &&
    nxt (exec (.st h0 3 0 0 (.mem ⟨7, 1⟩) (.i 1)) paid) (fun t => t.t.tcause == 0x11 && t.t.tinfo == 2) &&
    nxt (exec (.ld h0 3 0 0 3 (.mem ⟨8, 1⟩)) paid) (fun t => t.t.tcause == 0x11 && t.t.tinfo == 1)) = true := by decide +kernel

/-- witness: PayloadAccess, an access past the payload's bytes, and VLD of its four halfwords. -/
theorem test_payload_vector : (nxt (exec (.ld h0 3 0 0 3 (.mem ⟨7, 4⟩)) paid) (fun t => t.t.tcause == 0x10 && t.t.tinfo == 2) &&
    (let s := paid.updT fun t => t.wrM 3 (BitVec.ofNat 256 0x55)
     oks (s.payloadElems (s.t.rdB 7) 2 (unitElems (s.t.om (some 3)) 2 (dispOf ⟨7, 0⟩ 256))) (fun xs => xs == [(0, 0x0100), (1, 0x0302), (2, 0x0504), (3, 0x0706)]) &&
     nxt (exec (.vld h0 3 1 (.mem ⟨7, 0⟩) (some 3)) s) (fun t => el (t.t.rdV 1) 3 2 == 0x0706 && t.t.pc == 12))) = true := by decide +kernel

/-- A ring of 16 slots of 64 bytes at pad offset 4096, its descriptor at 256; q5 has reserved slots 5 and 6 and holds them
as a consumer or a producer. -/
def ring (prod : Bool) : State :=
  let s := base.pokeN (padAddr 0 256) 32 (initDesc (6 + 16 * 16 + 4096 * 2 ^ 20))
  let s := (s.pokeN (padAddr 0 (256 + 20)) 4 7).pokeN (padAddr 0 (256 + 24)) 4 7
  let s := s.pokeN (padAddr 0 (4096 + 6 * 64)) 4 0xABCD
  s.updT fun t => t.wrQ 5 { bound := true, prod := prod, desc := 256, start := 5, pos := 1, left := 2 }

def slotOk (s : State) (w : Bool) (k : Nat) : Bool :=
  oks (s.slotHit ⟨5, 0, false⟩ w 4 1) fun hit => good (s.raceCheck {} hit.node hit.off 4 k) && hit.off == 4096 + 6 * 64

/-- witness: QueueSlots; slot (5 + 1) mod 16, with ADV and without, and a slot that is not reserved. -/
theorem test_queue_slots : (slotOk (ring false) false 0 && slotOk (ring true) true 1 &&
    nxt (exec (.ld h0 5 0 0 3 (.que ⟨5, 0, false⟩)) (ring false)) (fun t => t.t.rdG 3 == 0xABCD && (t.t.rdQ 5).pos == 1) &&
    nxt (exec (.ld h0 5 0 0 3 (.que ⟨5, 0, true⟩)) (ring false)) (fun t => t.t.rdG 3 == 0xABCD && (t.t.rdQ 5).pos == 2 && (t.t.rdQ 5).left == 1) &&
    nxt (exec (.st h0 5 0 0 (.que ⟨5, 0, false⟩) (.i 9)) (ring true)) (fun t => t.peekN (padAddr 0 (4096 + 6 * 64)) 4 == 9 && t.t.pc == 12) &&
    nxt (exec (.ld h0 5 0 0 3 (.que ⟨5, 2, false⟩)) (ring false)) (fun t => t.t.tcause == 0x21 && t.t.tinfo == 0x305) &&
    nxt (exec (.st h0 5 0 0 (.que ⟨6, 0, false⟩) (.i 9)) (ring true)) (fun t => t.t.tcause == 0x22 && t.t.tinfo == 0x106) &&
    nxt (exec (.vst h0 5 (.que ⟨6, 0, false⟩) 1 none) (ring true)) (fun t => t.t.tcause == 0x22)) = true := by decide +kernel

/-- witness: QueueRegisters. -/
theorem test_queue_registers : let s := (ring false).updT fun t => (t.wrG 6 (w64 (6 + 16 * 16 + 4096 * 2 ^ 20)))
    (good (s.raceCheck {} (padNode s.myPad) 256 32 3) && good (s.raceCheck {} (padNode s.myPad) 256 32 2) &&
      nxt (exec (.qadv h0 ⟨5, 1, false⟩) s) (fun t => (t.t.rdQ 5).pos == 2 && (t.t.rdQ 5).left == 1 && t.t.pc == 12) &&
      nxt (exec (.qadv h0 ⟨5, 3, false⟩) s) (fun t => t.t.tcause == 0x21 && t.t.tinfo == 0x305) &&
      nxt (exec (.qstat h0 3 ⟨6, 0, false⟩) s) (fun t => t.t.rdG 3 == 0) && nxt (exec (.qstat h0 3 ⟨5, 0, false⟩) s) (fun t => t.t.rdG 3 != 0 && t.t.pc == 12) &&
      nxt (exec (.qbind h0 ⟨6, 0, false⟩ (.i 512)) s) (fun t => t.t.rdQ 6 == { bound := true, desc := 512 }) &&
      (descOf (initDesc (s.t.rdG 6).toNat)).faulty s.myPadSize == false && good (s.raceCheck {} (padNode s.myPad) 512 32 3) &&
      nxt (exec (.qbindInit h0 ⟨6, 0, false⟩ (.i 512) 6) s) (fun t => t.t.rdQ 6 == { bound := true, desc := 512 } &&
        t.peekN (padAddr 0 512) 32 == initDesc (6 + 16 * 16 + 4096 * 2 ^ 20))) = true := by decide +kernel

/-- witness: QueueRegisters, where they trap: ADV, an unbound register, registers below 4, a misaligned offset, a faulty
descriptor and one that is held. -/
theorem test_queue_register_traps : let s := (ring false).updT fun t => (t.wrG 6 (w64 (6 + 16 * 16 + 4096 * 2 ^ 20)))
    let c (i : Instr) (v : Nat) (s : State := s) : Bool := nxt (exec i s) fun t => t.t.tcause == 2 && t.t.tinfo.toNat == v
    (c (.qadv h0 ⟨5, 1, true⟩) 0x40001 && c (.qadv h0 ⟨6, 1, false⟩) 0x40001 && nxt (exec (.qadv h0 ⟨5, 0, false⟩) s) (fun t => (t.t.rdQ 5).pos == 1) &&
      c (.qstat h0 3 ⟨5, 1, false⟩) 0x40002 && c (.qbind h0 ⟨3, 0, false⟩ (.i 512)) 0x40001 && c (.qbindInit h0 ⟨6, 0, false⟩ (.i 500) 6) 0x60002 &&
      (descOf (initDesc (s.t.rdG 9).toNat)).faulty s.myPadSize && c (.qbindInit h0 ⟨6, 0, false⟩ (.i 512) 9) 0x10003 &&
      (let s := s.pokeN (padAddr 0 512) 32 (2 ^ 248 + initDesc (6 + 16 * 16 + 4096 * 2 ^ 20))
       (s.desc 0 512).pheld ≠ 0 && c (.qbindInit h0 ⟨6, 0, false⟩ (.i 512) 6) 0x10002 s)) = true := by decide +kernel

/-- witness: SendPosts, an unmapped word and one with an upper bit. -/
theorem test_send_traps : let s (x : Nat) := mapped.updT fun t => t.wrG 5 (w64 x)
    (!good ((s 5).coord ((s 5).t.rdG 5)) && nxt (exec (.send h0 0 false 5 (.i 3) none) (s 5)) (fun t => t.t.tcause == 2 && t.t.tinfo == 5) &&
      nxt (exec (.send h0 1 false 5 (.i 3) (some 2)) (s 6144)) (fun t => t.t.tcause == 2 && t.net.all fun r => r.ctx == 3)) = true := by decide +kernel

/-- witness: SendPosts; a message to the own core, word 2048 of context 1, with no payload and with 4 bytes. -/
theorem test_send : let s := (mapped.updT fun t => t.wrG 5 2048)
    (oks (s.coord (s.t.rdG 5)) (fun c => c == 2048) && nxt (exec (.send h0 0 false 5 (.i 3) none) s) (fun t => t.t.pc == 12 &&
        t.net.any fun r => r.isMsg && r.hidx == 3 && r.core == 2048 && r.payload == [] && hdrDst r.hdr == 2048) &&
      good (s.readPayload 2 4) && nxt (exec (.send h0 1 false 5 (.i 3) (some 2)) s) (fun t => t.net.any fun r => r.payload.length == 4) &&
      nxt (exec (.send h0 0 false 5 (.i 3) (some 2)) s) (fun t => t.t.tcause == 2 && t.t.tinfo == 0x30003) &&
      nxt (exec (.send h0 1 false 5 (.i 3) none) s) (fun t => t.t.tcause == 2 && t.t.tinfo == 3)) = true := by decide +kernel

/-- The bytes of a group's configuration with these values at these bits. -/
def cfgOf (l : List (Nat × Nat)) : List Byte := bytesOfNat 1088 (l.foldl (fun a e => a + e.2 * 2 ^ e.1) 0)

/-- `mapped` with group 7 behind handle 9: one member, logical core 2048, and a root at switch 0 where `v`. -/
def grouped (v : Bool) (node : Node := .group 7) : State :=
  let s := mapped.setHent 1 9 { state := 2, gen := 1, node := node, rights := 0xFF, grant := 0xFF, size := 4096 }
  let s := s.setGroup 7 { cfg := cfgOf ([(48, 1), (32, 1), (640, 2048)] ++
    if v then [(128, 2 ^ 127 + 31 * 2 ^ 122 + 2 ^ 92 + 2 ^ 64 + 7 * 2 ^ 32)] else []) }
  let s := s.updFn 0 fun f => { f with recd := { f.recd with slotq := 100 } }
  s.updT fun t => t.wrB 5 (mintPtr 0xFF 1 9 4096)

/-- witness: SendmPosts; one member, and none where no entry is valid. -/
theorem test_sendm : (oks ((grouped true).groupPtr 5) (fun g => g == 7) &&
    nxt (exec (.sendm h0 0 false 5 (.i 3) none) (grouped true)) (fun t => t.net.length == 1 && t.t.pc == 12 && t.net.all fun r => r.core == 2048 && r.hidx == 3) &&
    nxt (exec (.sendm h0 0 false 5 (.i 3) none) (grouped false)) (fun t => t.net == [] && t.t.pc == 12)) = true := by decide +kernel

/-- witness: SendmPosts, with a payload, and operands that do not match LEN. -/
theorem test_sendm_payload : (good ((grouped true).readPayload 2 4) &&
    nxt (exec (.sendm h0 1 false 5 (.i 3) (some 2)) (grouped true)) (fun t => t.net.length == 1 && t.net.all fun r => r.payload.length == 4 && r.hdr.toNat / 2 ^ 124 == 1) &&
    nxt (exec (.sendm h0 0 false 5 (.i 3) (some 2)) (grouped true)) (fun t => t.t.tcause == 2 && t.t.tinfo == 0x30003) &&
    nxt (exec (.sendm h0 1 false 5 (.i 3) none) (grouped true)) (fun t => t.t.tcause == 2 && t.t.tinfo == 3)) = true := by decide +kernel

/-- b2 at pad offset 192; g6 names handler 3 on channel 2 with `cnt` in the upper half; g7 is 9. -/
def posting (cnt : Nat) : State := mapped.updT fun t =>
  ((t.wrG 6 (w64 (3 + 2 * 2 ^ 16 + cnt * 2 ^ 32))).wrG 7 9).wrB 2 { t.rdB 2 with raw := (t.rdB 2).raw + 192 }

/-- witness: PostsRecord, at once and into a cell; and JoinCounts: the second of two joins posts the record. -/
theorem test_post : nxt (exec (.post h0 none 6 none) (posting 0)) (fun t => t.net == [] && t.t.pc == 12 &&
      (t.chan (16 * 2048 + 2)).onchip.map (fun r => (r.isMsg, r.hidx, r.arg, r.core)) == [(false, 3, 9, 2048)]) ∧
    nxt (exec (.post h0 none 6 none) (posting 2)) (fun t => t.t.tcause == 2 && t.t.tinfo == 1) ∧
    (let s := (posting 2).updT fun t => { t with lcore := 2048 }
     good (s.arm 2 (s.t.rdG 6) (s.t.rdG 7) {}) ∧ nxt (exec (.post h0 (some 2) 6 none) s) (fun s => s.net == [] && s.t.pc == 12 &&
       good (s.joinIssue 2 1) && nxt (exec (.join h0 2 (.i 1)) s) (fun s => s.net == [] && s.t.pc == 24 &&
         nxt (exec (.join h0 2 (.i 1)) s) fun t => t.net.length == 1 && t.net.all fun r => r.hidx == 3 && r.arg == 9))) := by decide +kernel

/-- witness: PostsRecord, where it traps: an odd pair, a cell without a count, a cell that is armed, and a pointer without G
for a pool-bound channel. -/
theorem test_post_traps : let s := (posting 2).updT fun t => { t with lcore := 2048 }
    let pool := (posting 0).setChan (16 * 2048 + 2) { mode := 1 }
    let noG (s : State) := s.updT fun t => t.wrB 9 (mintPtr 0x3F 1 1 64)
    (nxt (exec (.post h0 none 5 none) s) (fun t => t.t.tcause == 2 && t.t.tinfo == 0x10002) &&
      nxt (exec (.post h0 (some 2) 6 none) (posting 0)) (fun t => t.t.tcause == 2 && t.t.tinfo == 0x30001) &&
      nxt (exec (.post h0 (some 2) 6 none) s) (fun s => s.armed (padAddr 0 192) && nxt (exec (.post h0 (some 2) 6 none) s) fun t => t.t.tcause == 2 && t.t.tinfo == 0x30001) &&
      (noG pool).poolBound (pool.t.rdG 6) && nxt (exec (.post h0 none 6 (some 9)) (noG pool)) (fun t => t.t.tcause == 0x11 && t.t.tinfo == 64) &&
      nxt (exec (.post h0 none 6 (some 9)) (noG (posting 0))) (fun t => t.t.pc == 12 && (t.chan (16 * 2048 + 2)).onchip.length == 1) &&
      !good ((noG s).arm 3 (s.t.rdG 6) (s.t.rdG 7) {}) && nxt (exec (.post h0 (some 3) 6 none) s) (fun t => t.t.tcause == 0x13)) = true := by decide +kernel

/-- witness: JoinCounts at issue: an amount of 0, a pointer that is none, a cell homed on die 3. -/
theorem test_join_issue : let s := (obj base 6 3 4096 128).updMade 6 (fun n => { n with home := 3 }) |>.updT fun t => t.wrB 3 (mintPtr 0xFF 1 3 4096)
    (nxt (exec (.join h0 3 (.i 0)) s) (fun t => t.t.tcause == 2 && t.t.tinfo == 0x60002) && !good (s.joinIssue 9 1) &&
      nxt (exec (.join h0 9 (.i 1)) s) (fun t => t.t.tcause == 0x13) && s.remote (.made 6) && good (s.joinIssue 3 1) &&
      oks (s.reach (s.t.rdB 3) 3 0 64 8 .atomic 64) (fun hit => hit.places.length == 1 && good (s.raceCheck (s.t.rdB 3) hit.node hit.off 64 3)) &&
      nxt (exec (.join h0 3 (.i 1)) s) (fun t => t.t.pc == 12 && t.mem == s.mem && t.joins.map (fun j => (j.node, j.k)) == [(.made 6, 1)])) = true := by decide +kernel

/-- witness: JoinCounts at the home, where the cell refuses: it is not armed, its count is too low, its handle is gone. -/
theorem test_join_refused : let s := (posting 2).updT fun t => { t with lcore := 2048 }
    let j (k : Nat) (gen : Nat := 1) : JoinReq := { place := { addr := padAddr 0 192 }, node := .pad 0 0, off := 192, handle := 1, gen := gen, ctx := 1, k := k, core := 2048 }
    (s.traces == [] && !s.armed (padAddr 0 192) && (s.joinAt (j 1)).dropped + (s.joinAt (j 1)).net.length == 1 &&
      oks (s.arm 2 (s.t.rdG 6) (s.t.rdG 7) {}) (fun s => (s.joinAt (j 3)).armed (padAddr 0 192) && (s.joinAt (j 1 2)).mem == s.mem &&
        (s.hlook 1 1 2).isNone)) = true := by decide +kernel

/-- witness: JoinCounts, the cell's own clauses. -/
theorem witness_join_counts : let s := (posting 2).updT fun t => { t with lcore := 2048 }
    oks (s.arm 2 (s.t.rdG 6) (s.t.rdG 7) {}) (fun s => oks (s.place 1 (.pad 0 0) 192 true false) fun p =>
      let j : JoinReq := { place := p, node := .pad 0 0, off := 192, handle := 1, gen := 1, ctx := 1, k := 1, core := 2048 }
      s.armed p.addr && p.addr % 64 == 0 && (s.joinAt j).armed p.addr &&
        !(s.joinAt { j with k := 2 }).armed p.addr && (s.joinAt { j with k := 2 }).mapCore 1 2048 == some 2048 &&
        (s.joinAt { j with k := 2 }).net.length == 1) = true := by decide +kernel

/-- Semaphore nodes of pads 0 and 3 behind b5 and b6; semaphore 4 of pad 0 stands two below its top. -/
def semS : State :=
  let s := base.setHent 1 10 { state := 2, gen := 1, node := .sem 0 0, rights := 0xFF, grant := 0xFF, size := 128 }
  let s := s.setHent 1 11 { state := 2, gen := 1, node := .sem 0 3, rights := 0xFF, grant := 0xFF, size := 128 }
  ({ s with sems := tset 0 s.sems 4 (2 ^ 32 - 3) } : State).updT fun t => (t.wrB 5 (mintPtr 0xFF 1 10 128)).wrB 6 (mintPtr 0xFF 1 11 128)

/-- witness: Semaphores; a sum that saturates, a pad elsewhere and an amount of 0. -/
theorem test_semaphores : (oks (semS.semBank none 4) (fun p => p == 0) && oks (semS.semBank (some 6) 4) (fun p => p == 3) &&
    nxt (exec (.semv h0 (.i 4) (.i 1) none) semS) (fun t => t.sem 0 4 == 2 ^ 32 - 2) &&
    nxt (exec (.semv h0 (.i 4) (.i 9) (some 5)) semS) (fun t => t.sem 0 4 == 2 ^ 32 - 1 && t.sem 0 5 == 0 && t.t.pc == 12) &&
    nxt (exec (.semv h0 (.i 4) (.i 9) (some 6)) semS) (fun t => t.sems == semS.sems && t.semvs.any fun v => v.pad == 3 && v.amount == 9) &&
    nxt (exec (.semv h0 (.i 4) (.i 0) none) semS) (fun t => t.sems == semS.sems && t.t.pc == 12) &&
    nxt (exec (.semq h0 3 (.i 4) (some 5)) semS) (fun t => t.t.rdG 3 == 0xFFFFFFFD)) = true := by decide +kernel

/-- witness: Semaphores, an object that is no semaphore bank. -/
theorem test_semaphore_traps : (!good (semS.semBank (some 2) 4) && nxt (exec (.semv h0 (.i 4) (.i 1) (some 2)) semS) (fun t => t.t.tcause != 0 && t.sems == semS.sems) &&
    nxt (exec (.semq h0 3 (.i 4) (some 9)) semS) (fun t => t.t.tcause == 0x13)) = true := by decide +kernel

/-- witness: SyncAdvances; TARGET 3 and COUNT 7: two advances where AUTO is set, one where it is not, none below TARGET. -/
theorem test_sync_advances : (swAdvance (3 + 7 * 2 ^ 32 + 3 * 2 ^ 96) == (2, 3 + 2 ^ 32 + 2 * 2 ^ 64 + 3 * 2 ^ 96) &&
    swAdvance (3 + 7 * 2 ^ 32 + 2 ^ 96) == (1, 3 + 4 * 2 ^ 32 + 2 ^ 64) && swAdvance (3 + 2 * 2 ^ 32 + 2 ^ 96) == (0, 3 + 2 * 2 ^ 32 + 2 ^ 96)) = true := by
  decide +kernel

/-- A sync word at pad offset 512 as given, g5 its new target. -/
def swS (w x : Nat) : State := (base.pokeN (padAddr 0 512) 16 w).updT fun t => t.wrG 5 (w64 x)

/-- witness: SyncWords. -/
theorem test_sync_words : (good (base.raceCheck {} (padNode base.myPad) 512 16 3) && good (base.raceCheck {} (padNode base.myPad) 512 16 2) &&
    nxt (exec (.swset h0 false false (.i 512) 5 (.i 3)) (swS 0 9)) (fun t => t.t.pc == 12 && t.peekN (padAddr 0 512) 16 != 0) &&
    nxt (exec (.swset h0 false false (.i 512) 5 (.i 3)) (swS 0 0)) (fun t => t.t.tcause == 2 && t.t.tinfo == 0x10002) &&
    nxt (exec (.swset h0 true false (.i 513) 5 (.i 3)) (swS 0 9)) (fun t => t.t.tcause == 2) &&
    nxt (exec (.swread h0 true 3 (.i 512)) (swS (7 + 5 * 2 ^ 64) 0)) (fun t => t.t.rdG 3 == 5) &&
    nxt (exec (.swread h0 true 3 (.i 513)) (swS 0 0)) (fun t => t.t.tcause == 2)) = true := by decide +kernel

/-! ### Matrix engine, names, fabric, mull (R182 to R311) -/

/-- The press core of tile 0 (or feeder core 0 where `feeder`) of a context that holds sheets 0 to 4 and both halves of
quarto 0; half 0 is in `mode`, half 1 in the FP32 mode; a plan of 64 points is set; the control words are in g6 to g17. -/
def matS (mode : Nat := 0) (fuse : Bool := false) (feeder : Bool := false) : State :=
  let s := if feeder then onCore mapped 0 0 else onCore mapped 2048 2048
  let s := s.updFn 0 fun f => { f with recd := { f.recd with quartos := 3, sheetq := 100, fuse := if fuse then 1 else 0 } }
  let s := s.updCtx 1 fun c => { c with halves := 0xF }
  let set (q : Quarto) : Quarto := { q with
    weights := { ctx := 1, et := 0 }, holder := (List.range 5).map fun i => (i, 1), halves := [(0, { mode := BitVec.ofNat 3 mode, sat := true }), (1, { mode := 4 })],
    plans := [(1, { n := 64, b := 128, t := 2, radices := [8, 8] })] }
  let s := (s.updQuarto 0 set).updQuarto 1 set
  let s := s.updT fun t => ((((((((((t.wrG 5 3).wrG 6 (w64 (8 + 3 * 2 ^ 8 + 2 ^ 16 + 77 * 2 ^ 32 + 5 * 2 ^ 48))).wrG 8 (w64 (4 + 8 * 2 ^ 16 + 2 ^ 32 * mode))).wrG 9
    (w64 (2 + 2 ^ 8))).wrG 10 (w64 (128 * 2 ^ 8 + 3 * 2 ^ 32 + 99 * 2 ^ 48))).wrG 12 (w64 (0x0302 + 7 * 2 ^ 48))).wrG 13 2048).wrG 14
    (w64 (64 + 128 * 2 ^ 17 + 2 * 2 ^ 32))).wrG 16 (w64 (2 + 4 * 2 ^ 8 + 4 * 2 ^ 11))).wrG 17 (w64 (1 + 2 * 2 ^ 12)))
  let s := s.updT fun t => (t.wrB 2 (mintPtr 0xFF 1 1 (2 ^ 21))).wrB 3 { mintPtr 0xFF 1 1 (2 ^ 21) with raw := (mintPtr 0xFF 1 1 (2 ^ 21)).raw + 65536 }
  { s.pokeN (padAddr 0 65536) 16 (100 * 2 ^ 64) with acc := [(5, { val := 3 })] }

/-- witness: SheetClaims; sheets 0 to 4 are held, so two free ones are 5 and 6, and 125 cannot be had. -/
theorem test_sclaim : (decide (matS.role = 2) && matS.claimRun 1 2 matS.myGroup == some 5 && matS.claimRun 1 125 matS.myGroup == none &&
    nxt (exec (.sclaim h0 3 (.i 2)) matS) (fun t => t.t.rdG 3 == 5 && t.t.rdM 1 == BitVec.allOnes 256 && tget 0 (t.quarto 0).holder 6 == 1) &&
    nxt (exec (.sclaim h0 3 (.i 125)) matS) (fun t => t.t.rdG 3 == -1 && t.t.rdM 1 == 0) &&
    matS.holdsSheet 1 0 3 && nxt (exec (.srel h0 (.g 5) (.i 2)) matS) (fun t => t.t.pc == 12 && tget 0 (t.quarto 0).holder 3 == 0 && tget 0 (t.quarto 0).holder 2 == 1)) = true := by
  decide +kernel

/-- An instruction traps with this cause and tinfo. -/
def traps (i : Instr) (s : State) (c info : Nat) : Bool := nxt (exec i s) fun t => t.t.tcause.toNat == c && t.t.tinfo.toNat == info

/-- witness: SheetClaims and MatrixState, where they trap: no sheets, sheet 5 that is not held, a count of rows that is no
control word, part of a half in another mode, a half 2. -/
theorem test_matrix_traps : (traps (.sclaim h0 3 (.i 0)) matS 2 0x60002 && traps (.srel h0 (.g 5) (.i 3)) matS 0x23 5 && !matS.holdsSheet 1 0 5 &&
    (let s := matS.updT fun t => (t.wrG 10 (w64 (200 * 2 ^ 8))).wrG 12 (w64 (2 * 2 ^ 8 + 3 * 2 ^ 32))
     !zeroCtlOk (s.t.rdG 10) && traps (.mzero h0 10) s 2 0x10001 && zeroCtlOk (s.t.rdG 12) && traps (.mzero h0 12) s 2 0x10001) &&
    (let s := matS.updT fun t => t.wrG 12 (w64 (4 + 2 * 2 ^ 8))
     zeroCtlOk (s.t.rdG 12) && nxt (exec (.mzero h0 12) { s with acc := [(4 * 128 + 5, { val := 3 }), (6 * 128, { val := 9 })] }) fun t =>
       t.accAt 0 4 5 == {} && (t.accAt 0 6 0).val == 9) &&
    traps (.mstat h0 3 (.i 2)) matS 2 0x60002 && traps (.mstatClr h0 3 (.i 2)) matS 2 0x60002) = true := by decide +kernel

/-- witness: SheetMoves, from feeder core 0. -/
theorem test_sheet_moves : let s := matS 0 false true
    (decide (s.role = 0) && oks (moveCtl (s.t.rdG 9)) (fun c => c == (0, 0, false, 1, 2)) && good (s.sheetCheck s.myGroup 2) && oks (s.sheetNum (.i 2) 1) (fun n => n == 2) &&
      good (s.padRegion (s.t.rdB 2) 2 0 (moveBytes 2 false) 1 16 (ownPad s.myPad 2)) &&
      nxt (exec (.sload h0 0 0 (.i 2) ⟨2, 0⟩ 9) s) (fun t => t.t.pc == 12 && t.port.any fun o => match o.cmd with | .sload 2 1 2 _ _ _ => o.core == 0 | _ => false) &&
      good (s.padRegion (s.t.rdB 2) 2 0 (moveBytes 2 false) 2 16 (ownPad s.myPad 1)) &&
      nxt (exec (.ssave h0 0 0 ⟨2, 0⟩ (.i 2) 9) s) (fun t => t.port.any fun o => match o.cmd with | .ssave 2 1 2 _ _ _ => true | _ => false)) = true := by
  decide +kernel

/-- witness: MatrixState. -/
theorem test_matrix_state : (matS.port == [] && good (matS.sheetCheck matS.myGroup 2) && good (matS.sheetCheck matS.myGroup 128) && zeroCtlOk (matS.t.rdG 10) &&
    nxt (exec (.mwld h0 0 false (.i 2)) matS) (fun t => (t.quarto 0).weights.ctx == 1 && (t.quarto 0).weights.data.length == (matS.sheetCells 0 2).length) &&
    nxt (exec (.mzero h0 10) matS) (fun t => (t.half 0 0).mode == 3 && (t.accAt 0 0 5).val == 0 && t.t.pc == 12) &&
    loadModeOk 4 0 && nxt (exec (.maccld h0 4 9 ⟨2, 0⟩) (matS.pokeN (padAddr 0 0) 4 7)) (fun t => t.t.pc == 12 && (t.accAt 0 2 0).val == 7) &&
    nxt (exec (.mstat h0 3 (.i 0)) matS) (fun t => t.t.rdG 3 == (matS.half 0 0).word) &&
    nxt (exec (.mstatClr h0 3 (.i 0)) matS) (fun t => t.t.rdG 3 == (matS.half 0 0).word && (t.half 0 0).sat == false)) = true := by decide +kernel

/-- The other cores of the gang at the barrier. -/
def ganged (l : List Nat) : State := matS.updQuarto 0 fun q => { q with barrier := [(1, l.map fun c => { core := c, ctl := w64 (4 + 8 * 2 ^ 16), et := 0 })] }

/-- witness: GangArrivals: a first arrival, the last of eight, and a second one of the same core. -/
theorem test_mgang : (gangCtlOk (matS.t.rdG 8) && aRow 2 + gM (matS.t.rdG 8) ≤ 128 && good (matS.sheetCheck matS.myGroup (aSheet 2)) && good (matS.sheetCheck matS.myGroup 128) &&
    nxt (exec (.mgang h0 0 false 8 (.i 2)) matS) (fun t => t.port == [] && (tget [] (t.quarto 0).barrier 1).map (fun e => e.core) == [2048] && t.t.pc == 12) &&
    (let s := ganged [2080, 2112, 2144, 2176, 2208, 2240, 2272]
     s.gangMask 1 s.myGroup (tget [] (s.quarto 0).barrier 1 ++ [{ core := 2048, ctl := s.t.rdG 8, et := 0 }]) { core := 2048, ctl := s.t.rdG 8, et := 0 } == 0 &&
      nxt (exec (.mgang h0 0 false 8 (.i 2)) s) (fun t => tget [] (t.quarto 0).barrier 1 == [] && t.port.length == 1)) &&
    nxt (exec (.mgang h0 0 false 8 (.i 2)) (ganged [2048])) (fun t => t.t.tcause == 0x24 && t.t.tinfo == 128)) = true := by decide +kernel

/-- witness: GangArrivals, a bad control word, a bad stream word, and a last one of another width than the others. -/
theorem test_mgang_traps : (!gangCtlOk (2 ^ 63) && traps (.mgang h0 0 false 8 (.i 2)) (matS.updT fun t => t.wrG 8 (2 ^ 63)) 2 0x10001 &&
    traps (.mgang h0 0 false 8 (.i (-1))) matS 2 0x60002 &&
    (let s := (ganged [2080, 2112, 2144, 2176, 2208, 2240, 2272]).updT fun t => t.wrG 8 (w64 (5 + 8 * 2 ^ 16))
     let e : Arrival := { core := 2048, ctl := s.t.rdG 8, et := 0 }
     let m := s.gangMask 1 s.myGroup (tget [] (s.quarto 0).barrier 1 ++ [e]) e
     m != 0 && traps (.mgang h0 0 false 8 (.i 2)) s 0x24 m &&
       nxt (exec (.mgang h0 0 false 8 (.i 2)) s) (fun t => tget [] (t.quarto 0).barrier 1 == [] && t.port == []))) = true := by decide +kernel

/-- witness: DrainIssue, of rows 2 to 4 as I32 with the completion to word 2048, with a table and with an odd OB. -/
theorem test_mdrain : (oks (matS.coord (matS.t.rdG 13)) (fun c => c == 2048) && rowsOk 2 3 &&
    oks (matS.padRegion (matS.t.rdB 2) 2 0 (128 * 3 * 4) 2 4 (drainPad 2048)) (fun o => o == 0) && drainModeOk 4 0 false &&
    nxt (exec (.mdrain h0 4 0 0 0 13 2 12) matS) (fun t => t.t.pc == 12 && t.port.any fun o => o.hidx == 7) &&
    drainModeOk 0 0 true &&
    nxt (exec (.mdrainRq h0 0 0 0 0 13 3 12) matS) (fun t => t.t.tcause == 2 && t.t.tinfo == 0x30002)) = true := by decide +kernel

/-- witness: DrainIssue, the requantising table at pad offset 65536. -/
theorem witness_read_table : good (matS.readTable 0 3) = true := by decide +kernel

/-- witness: ButterflyIssue: a plan of 8 times 8 points, digit reversal, one stage, a product, an exponent. -/
theorem test_butterfly : let s := matS 4
    ((planWord (s.t.rdG 14)).isSome && (radixWord (s.t.rdG 16) 64).isSome && nxt (exec (.mtwid h0 14 16) s) (fun t => t.plan.n == 64 && t.plan.b == 128 && t.plan.t == 2 && t.t.pc == 12) &&
      s.plan.t == 2 && oks (s.runNum (.i 0) 2 1) (fun n => n == 0) && good (s.runCheck 0 2) && good (s.runCheck 2 2) && good (s.halfCheck 0) && (s.half 0 0).mode == 4 &&
      nxt (exec (.mdrev h0 (.i 0) (.i 2)) s) (fun t => t.port.any fun o => match o.cmd with | .mdrev 0 2 _ => true | _ => false) &&
      nxt (exec (.mbfly h0 3 (.i 0) (.i 2) 5) (s.updT fun t => t.wrG 5 1)) (fun t => t.port.any fun o => match o.cmd with | .mbfly 0 2 _ 1 0 3 => true | _ => false) &&
      good (s.runCheck 1 2) && nxt (exec (.mcmul h0 3 true (.i 0) (.i 2) 17) s) (fun t => t.port.any fun o => match o.cmd with | .mcmul 0 2 1 2 0 3 true => true | _ => false) &&
      nxt (exec (.mbexp h0 3 (.i 2)) s) (fun t => t.t.rdG 3 == 0 && t.t.pc == 12) &&
      nxt (exec (.mbexpSet h0 3 (.i 2) (.i (-3))) s) (fun t => t.t.rdG 3 == 0 && t.expOf 0 2 == -3)) = true := by decide +kernel

/-- witness: ButterflyIssue, a plan word, a radix word, and a transform without a plan. -/
theorem test_butterfly_traps : let s := matS 4
    ((planWord (s.t.rdG 5)).isNone && traps (.mtwid h0 5 16) s 2 0x10001 && (radixWord (s.t.rdG 5) 64).isNone && traps (.mtwid h0 14 5) s 2 0x10002 &&
      (let s := s.updQuarto 0 fun q => { q with plans := [] }
       s.plan == {} && traps (.mdrev h0 (.i 0) (.i 2)) s 2 0x60001 && traps (.mbfly h0 3 (.i 0) (.i 2) 5) s 2 0x60001)) = true := by decide +kernel

/-- Names in pad 0 and the request words of class 0xC in g6 to g12, all with RTAG 5 and handler 9. -/
def nameS (quota : Nat := 8) : State :=
  let s := (mapped.pokeN (padAddr 0 0) 64 (natOfBytes (str "dies"))).pokeN (padAddr 0 1040) 16 (natOfBytes (str "abcd"))
  let s := s.updFn 0 fun f => { f with recd := { f.recd with nameq := quota } }
  let tag := 5 * 2 ^ 32 + 9 * 2 ^ 48
  s.updT fun t => ((((((t.wrG 6 (w64 (4 + 64 * 2 ^ 10 + 2 ^ 31 + tag))).wrG 7 (w64 tag)).wrG 8 (w64 (8 + tag))).wrG 10 (w64 (256 + 3))).wrG 11
    (w64 (64 * 2 ^ 10 + 2 ^ 31))).wrG 9 (w64 (1 + 64 * 2 ^ 16 + 3 * 2 ^ 8))).wrB 3 (mintPtr 0xFF 1 1 4096)

/-- The request is formed and sent, with its RTAG and HIDX, or BUSY at once over the quota. -/
def sent (i : Instr) (op : Nat) (d : GReg) : Bool :=
  let ok (s : State) (busy : Bool) : Bool := s.requestOk op (s.t.rdG d).toNat && s.posted == [] && nxt (exec i s) fun t =>
    t.t.pc == 12 && t.nextTxn == s.nextTxn + 1 && (t.txn s.nextTxn).op == op && ((t.txn s.nextTxn).res.isSome == busy)
  ok nameS false && ok (nameS 0) true

/-- witness: NameIssue, one for each opcode; an open whose request word has an ARG traps. -/
theorem test_name_issue : (sent (.nwalk h0 6 2 none) 0 6 && sent (.nopen h0 11 2) 1 11 && sent (.nclose h0 7 2) 2 7 && sent (.nread h0 8 2 3) 3 8 &&
    sent (.nwrite h0 8 2 3) 4 8 && sent (.nbind h0 10 2 3) 5 10 && sent (.nunbind h0 7 2 none) 6 7 && sent (.nstat h0 7 2) 7 7 &&
    sent (.nrevoke h0 7 2) 8 7 && sent (.ncreate h0 6 2 9) 9 6 && sent (.nremove h0 7 2) 10 7 &&
    !nameS.requestOk 1 (nameS.t.rdG 10).toNat && nxt (exec (.nopen h0 10 2) nameS) (fun t => t.t.tcause == 2 && t.t.tinfo == 0x10001)) = true := by
  decide +kernel

/-- witness: NameIssue, an operand that is no pointer. -/
theorem test_name_trap : (nameS.requestOk 7 (nameS.t.rdG 7).toNat && !good (nameS.oneHandle (nameS.formTxn 7 0) 9) &&
    nxt (exec (.nstat h0 7 9) nameS) (fun t => t.t.tcause == 0x13 && t.nextTxn == nameS.nextTxn)) = true := by decide +kernel

/-- witness: FabricInstructions, RSLOT's other answers, and a reserved bit for RPUSH. -/
theorem test_fabric_refusals : let s := grouped true (.reduce 7)
    let r (s : State) (n v : Nat) : Bool := nxt (exec (.rslot h0 3 5 (.i (BitVec.ofNat _ n))) s) fun t => t.t.rdG 3 == w64 v && t.t.pc == 12
    (traps (.rslot h0 3 5 (.i 0)) s 2 0x60003 && r (s.setGroup 7 { s.group 7 with windows := List.replicate 16 {} }) 1 nsFULL &&
      r ((s.updFn 0 fun f => { f with recd := { f.recd with slotq := 0 } }).updFn 9 fun f => { f with recd := { f.recd with slotq := 4096 } }) 1 nsBUSY && traps (.rpush h0 0 0 5 1 6) (s.updT fun t => t.wrG 6 (2 ^ 41)) 2 0x10003) = true := by
  decide +kernel

/-- witness: FabricInstructions. -/
theorem test_fabric : let s := grouped true (.reduce 7)
    (oks (s.aperturePtr 5 8) (fun g => g == 7) && (s.group 7).valid == [0] && good (s.aperturePtr 5 2) && good (s.aperturePtr 5 1) &&
      nxt (exec (.rslot h0 3 5 (.i 2)) s) (fun t => t.t.rdG 3 == 0x20000 && (t.group 7).nextseq == 2 && (t.group 7).windows.length == 1) &&
      nxt (exec (.rslot h0 3 5 (.i 2)) (grouped false (.reduce 7))) (fun t => t.t.rdG 3 == w64 nsNOT_BOUND) &&
      nxt (exec (.rfree h0 5 (.i 0)) (s.setGroup 7 { s.group 7 with windows := [{ base := 0, w := 1 }] })) (fun t => (t.group 7).windows == [] && t.t.pc == 12) &&
      nxt (exec (.rpush h0 0 0 5 1 6) (s.updT fun t => t.wrG 6 0x100000004)) (fun t => t.t.pc == 12 && t.pushes.any fun p => p.seq == 4 && p.chunk == 1 && p.leaf) &&
      nxt (exec (.rstat h0 3 5) s) (fun t => t.t.rdG 3 == s.groupWord 7)) = true := by decide +kernel

/-- Region 3 with 16 stripes on die 0 behind handle 9 and b5; b6 points at its second stripe. -/
def mullS (priv : Nat := 0) : State :=
  let s := (mapped priv).setHent 1 9 { state := 2, gen := 1, node := .made 40, rights := 0xFF, grant := 0xFF, size := 65536 }
  let s := s.setMade 40 { kind := kMull, region := 3, size := 65536 }
  let s := s.setRegion 3 { node := 40, live := true, members := [0], stripes := 16, reps := [(0, { s := [(0, 5), (3, -7)], spread := 0x3F800000 })] }
  let s := s.pokeN (padAddr 0 0) 64 (natOfBytes (str "reg") + 4 * 2 ^ 320 + 2 ^ 256)
  let p := mintPtr 0xFF 1 9 65536
  s.updT fun t => ((t.wrG 5 3).wrB 5 p).wrB 6 { p with raw := p.raw + 4096 }

/-- witness: MullInstructions. -/
theorem test_mull : (oks (mullS.mullWords ⟨5, 0⟩ 2 2 1) (fun k => k == (3, 0)) && oks (mullS.mullWords ⟨5, 0⟩ 4 1 2) (fun k => k == (3, 0)) &&
    nxt (exec (.mladd h0 true 3 ⟨5, 0⟩ 1 (.i 0)) mullS) (fun t => t.mullAdds == [] && t.t.pc == 12) &&
    nxt (exec (.mladd h0 true 3 ⟨5, 0⟩ 1 (.i 2)) mullS) (fun s => s.mull == mullS.mull && s.mullAdds.length == 1 &&
      nxt (exec (.mlfence h0) s) (fun t => t.mullAdds == [] && t.t.pc == 24)) &&
    nxt (exec (.mlread h0 6 3 1 ⟨5, 0⟩ (some (.i 4))) mullS) (fun t => el (t.t.rdV 1) 0 8 == 5 && el (t.t.rdV 1) 3 8 == 2 ^ 64 - 7) &&
    oks (mullS.checkPtr 1 (mullS.t.rdB 5) 5 0 4096 1) (fun e => mullS.regionOf e.1.node == some 3 && e.2 == 0) &&
    nxt (exec (.mspread h0 3 5 (.i 1)) mullS) (fun t => t.t.rdG 3 == 0x3F800000)) = true := by decide +kernel

/-- witness: MullInstructions, estimates, the stripe's words, and MSPREAD over no stripe, off a stripe, and over two. -/
theorem test_mull_reads : (oks (mullS.mullWords ⟨5, 0⟩ 3 1 2) (fun k => k == (3, 0)) &&
    (let s := mullS.setRegion 3 { mullS.region 3 with reps := [(0, { s := [(0, 6)], w := 4 })] }
     nxt (exec (.mlread h0 10 3 1 ⟨5, 0⟩ (some (.i 4))) s) fun t => t.t.pc == 12 && el (t.t.rdV 1) 0 4 == 0x3FC00000 && el (t.t.rdV 1) 4 4 == 0) &&
    nxt (exec (.mlread h0 7 3 1 ⟨5, 0⟩ none) mullS) (fun t => el (t.t.rdV 1) 2 8 == 0x3F800000 && el (t.t.rdV 1) 1 8 == 0 && t.t.pc == 12) &&
    nxt (exec (.mlread h0 6 3 1 ⟨5, 0⟩ (some (.i 0))) mullS) (fun t => t.t.rdV 1 == 0 && t.t.pc == 12) &&
    traps (.mspread h0 3 5 (.i 0)) mullS 2 0x60003 && mullS.mullX == [] && oks (mullS.checkPtr 1 (mullS.t.rdB 5) 5 0 8192 1) (fun e => mullS.regionOf e.1.node == some 3) &&
    (let s := mullS.updT fun t => t.wrB 5 { t.rdB 5 with raw := (t.rdB 5).raw + 8 }
     nxt (exec (.mspread h0 3 5 (.i 1)) s) fun t => t.t.tcause == 0x14 && t.t.tinfo == 4096)) = true := by decide +kernel

/-- witness: MullConfig. -/
theorem test_mlcfg : let s := mullS 1
    (nxt (exec (.mlcfgCadence h0 3 5 (.i 9)) mullS) (fun t => t.t.tcause == 4 && t.t.tinfo == 840) && oks (s.mullPtr 5) (fun k => k.2 == 3) &&
      nxt (exec (.mlcfgCadence h0 3 5 (.i 9)) s) (fun t => t.t.rdG 3 == 0 && (t.region 3).cadence == 9) &&
      nxt (exec (.mlcfgReset h0 3 5 (.i 1)) s) (fun t => t.t.rdG 3 == 0 && (t.region 3).rep 0 0 == {}) &&
      nxt (exec (.mlcfgReset h0 3 6 (.i 16)) s) (fun t => t.t.rdG 3 == 15) &&
      nxt (exec (.mlcfgDestroy h0 3 5 (.i 0)) s) (fun t => t.t.rdG 3 == 0 && t.region 3 == {}) &&
      good (s.reach (s.t.rdB 2) 2 0 64 1 .load 16 (ownPad s.myPad 2)) &&
      nxt (exec (.mlcfgCreate h0 3 2 (.i 0)) s) (fun t => t.t.pc == 12)) = true := by decide +kernel

/-! ### Records, dispatch, launches, the done tree (R24 to R42, R312 to R314, R354) -/

/-- Steps of the machine as the agenda would ask for them. -/
def ev (i : Instr) (a : Nat) (s : State) (p : State → Bool) (b c : Nat := 0) : Bool := nxt (exec i { s with arg := { a := a, b := b, c := c } }) p

/-- `mapped` with handler 3: entry pc 24, role press, priority 5, channel 4; and the given queue, of which context 1 runs. -/
def handling (entry : Nat := 24 + 2 * 2 ^ 52 + 5 * 2 ^ 54 + 4 * 2 ^ 284) : State :=
  let s := (put mapped 22 192 64 entry).updCtx 1 fun c => { c with live := true }
  s.updFn 0 fun f => { f with cur := 1 }

/-- A message to handler i of the press core of tile 0, and a continuation on channel 2. -/
def msgTo (i : Nat) : Rec := { isMsg := true, hdr := mkHdr 5 false false 0 i 2048 2048 7, hidx := i, ctx := 1, core := 2048, lcore := 2048 }
def contTo (i : Nat) : Rec := { hidx := i, chan := 2, arg := 99, ctx := 1, core := 2048, lcore := 2048 }

/-- witness: Arrivals; channel 4 is the entry's, channel 2 the record's, handler 5 has no entry, and a message of the
same class and die waits for the earlier one. -/
theorem test_arrivals : let net (l : List Rec) : State := { handling with net := l }
    (handling.handler 1 3 == some (24 + 2 * 2 ^ 52 + 5 * 2 ^ 54 + 4 * 2 ^ 284) && (handling.ctx 1).live && handling.handler 1 16 == none &&
      ev .recordArrival 0 (net [msgTo 3]) (fun t => t.net == [] && (t.chan (16 * 2048 + 4)).onchip.length == 1) &&
      ev .recordArrival 0 (net [contTo 3]) (fun t => t.net == [] && (t.chan (16 * 2048 + 2)).onchip.length == 1) &&
      ev .recordArrival 0 (net [msgTo 16]) (fun t => t.chan (16 * 2048 + 4) == {} && t.net.all fun r => r.hidx != 16) &&
      (let a := { msgTo 3 with sdie := some 9 }
       let b := { a with flit := 5 }
       b.way == some (9, 0, 5) && b.way == a.way && (net [a, b]).recWaits b && ev .recordArrival 1 (net [a, b]) (fun t => t.net.length == 2) &&
       ev .recordArrival 0 (net [a, b]) (fun t => t.net == [b]))) = true := by decide +kernel

/-- witness: Arrivals, what waits: a message behind one of its sender, a FAULT message of priority 7 behind a done word and behind a
result of switch die 0, each for die 0. -/
theorem test_arrivals_wait : let s : State := { mapped with launches := [(7, { ctx := 1, cores := [(2049, 2049), (2048, 2048)] })] }
    let m : DoneMsg := { launch := 7, src := 2049, dst := 2048, flit := 3 }
    let r : Rec := { isMsg := true, hdr := mkHdr 7 false false 0 3 2048 2048 7, hidx := 3, ctx := 1, core := 2048, lcore := 2048, flit := 5 }
    let x : Result := { ctx := 1, member := 2048, flit := 4, sw := 0 }
    let at_ (d : Nat) : Rec := { r with sdie := some d }
    (s.doneWay m == some (1, 0, 7) && (at_ 1).way == some (1, 0, 7) && ({ s with doneMsgs := [m] } : State).recWaits (at_ 1) &&
      ({ s with doneMsgs := [m] } : State).recWaits (at_ 2) == false && s.resultWay x == some (32, 0, 7) &&
      ({ s with results := [x] } : State).recWaits (at_ 32) && ({ s with results := [x] } : State).recWaits { at_ 32 with flit := 3 } == false &&
      ({ s with net := [{ r with sender := 9, flit := 2 }] } : State).recWaits { r with sender := 9 }) = true := by decide +kernel

/-- Channel 4 of the press core holds 64 records and spills into a backing object of `depth` records behind handle 25. -/
def fullChan (depth : Nat) (f : Chan → Chan := id) : State :=
  let s := obj handling 25 25 8192 600
  { s.setChan (16 * 2048 + 4) (f { onchip := List.replicate 64 (msgTo 3), backCtx := 1, backH := 25, backDepth := BitVec.ofNat 32 depth }) with net := [msgTo 3] }

/-- witness: Arrivals, past 64 records: into the backing object, into the ingress where it is full, behind what waits there,
and a record of a context that is not live. -/
theorem test_arrivals_full : let c (t : State) := t.chan (16 * 2048 + 4)
    ((fullChan 8).net[0]? == some (msgTo 3) && (State.backPlaces { fullChan 8 with net := [] } (c (fullChan 8))).isSome &&
      ev .recordArrival 0 (fullChan 8) (fun t => (c t).spilled.length == 1 && (c t).onchip.length == 64 && (c t).ingress == [] && t.net == []) &&
      ev .recordArrival 0 (fullChan 0) (fun t => (c t).ingress.length == 1 && (c t).spilled == [] && (c t).episodes == [1]) &&
      ev .recordArrival 0 (fullChan 8 fun c => { c with ingress := [msgTo 3], episodes := [1] }) (fun t => (c t).ingress.length == 2 && t.net == []) &&
      ev .recordArrival 0 ((fullChan 8).setCtx 1 {}) (fun t => (c t).spilled == [] && t.net == [])) = true := by decide +kernel

/-- The record at the head of channel 4 of the press core. -/
def headed (r : Rec) (entry : Nat := 24 + 2 * 2 ^ 52 + 5 * 2 ^ 54 + 4 * 2 ^ 284) : State := (handling entry).setChan (16 * 2048 + 4) { onchip := [r] }

/-- witness: HeadChecks; a head that passes, one whose entry is for another role, with a supervisor to tell. -/
theorem test_head_check : ((headed (msgTo 3)).recFault 2048 (msgTo 3) == none &&
    ev .headCheck (16 * 2048 + 4) (headed (msgTo 3)) (fun t => (t.chan (16 * 2048 + 4)).onchip.length == 1) &&
    (headed (msgTo 3) 24).recFault 2048 (msgTo 3) == some (2, 0) &&
    ev .headCheck (16 * 2048 + 4) (headed (msgTo 3) 24) (fun t => (t.chan (16 * 2048 + 4)).onchip == [] && (t.dropped == 1 || t.net.length == 1))) = true := by
  decide +kernel

/-- witness: Firing; the message fires on thread 1, as thread 0 runs; an idle core's clause; no head. -/
theorem test_fire : let s := headed (msgTo 3)
    (s.freeThread 2048 8 == some 16385 && (s.pickHead 2048).isSome && ev .fire 2048 s (fun t => decide ((t.thread 16385).stat = .running) &&
        (t.thread 16385).pc == 24 && (t.thread 16385).hidx == 3 && (t.thread 16385).chan == 4 && (t.thread 16385).rdG 1 == 0x0500000308000800 &&
        (t.thread 16385).wdEnd == 65536 && (t.chan (16 * 2048 + 4)).onchip == [] && (t.thread 16385).rdQ 4 == {} && (t.thread 16385).rmode == 0 &&
        (t.thread 16385).tcause == 0 && (t.thread 16385).tinfo == 0 && (t.thread 16385).rdB 0 == {}) 8 &&
      handling.pickHead 2048 == none && ev .fire 2048 handling (fun t => t.thread 16385 == {}) 8) = true := by decide +kernel

/-- witness: Firing, an entry with a semaphore gate of 2 on semaphore 5 and a consumer queue of 3 slots at pad offset 256, and no
free thread. -/
theorem test_fire_gated : let e := 24 + 2 * 2 ^ 52 + 5 * 2 ^ 54 + 4 * 2 ^ 284 + 5 * 2 ^ 160 + 2 * 2 ^ 165 + 2 ^ 173 + 8 * 2 ^ 64 + 3 * 2 ^ 80 + 2 ^ 86
    let s := (headed (msgTo 3) e).pokeN (padAddr 0 256) 32 (initDesc (6 + 16 * 16 + 4096 * 2 ^ 20))
    let s := (s.pokeN (padAddr 0 (256 + 20)) 4 7).pokeN (padAddr 0 (256 + 24)) 4 12
    let s : State := { s with sems := tset 0 s.sems 5 6 }
    (eSemEn e && (s.pickHead 2048).isSome && (qDecls e).length == 1 && ev .fire 2048 s (fun t => t.sem 0 5 == 4 &&
        (t.thread 16385).rdQ 0 == { bound := true, desc := 256, start := 7, left := 3 } && (t.thread 16385).rdQ 1 == {} && (t.desc 0 256).cheld == 3 && (t.desc 0 256).head == 7) 8 &&
      (let s := (List.range 8).foldl (fun s k => s.setThread (16384 + k) { stat := .running, ctx := 1 }) s
       (s.freeThread 2048 8).isNone && ev .fire 2048 s (fun t => t.sem 0 5 == 6) 8)) = true := by decide +kernel

/-- witness: Kills. -/
theorem test_kills : (ev .watchdog 16384 ({ base with now := 70000 } : State) (fun t => t.thread 16384 == {} && (t.core 2048).fseq == 2) &&
    ev .watchdog 16384 base (fun t => decide ((t.thread 16384).stat = .running)) && ev .watchdog 5 base (fun t => decide ((t.thread 16384).stat = .running)) &&
    ev .parityError 16384 base (fun t => t.thread 16384 == {} && (t.fn 0).errstat.toNat % 2 == 1)) = true := by decide +kernel

/-- Launch queue 0 of function 0, homed on die 0 and carrying context 1, with one record: two entries (cores 2048 of
handler 3 on channel 2, twice), placement behind handle 23, DONEQ behind handle 24, LID 77. -/
def launching (patch : Bool := false) : State :=
  let s := obj handling 23 23 64 518
  let s := put s 23 0 32 ((2048 + 2 * 2 ^ 12 + 3 * 2 ^ 16 + 99 * 2 ^ 64) * (1 + 2 ^ 128))
  let s := (obj s 24 24 2048 520 kQueue).updMade 24 fun m => { m with qpad := 0, qdesc := 256 }
  let s := s.pokeN (padAddr 0 256) 32 (initDesc (6 + 16 * 16 + 4096 * 2 ^ 20))
  let s := s.updFn 0 fun f => { f with recd := { f.recd with quartos := 3 } }
  let r := 77 + 22 * 2 ^ 64 + 23 * 2 ^ 96 + 24 * 2 ^ 128 + 2 * 2 ^ 176
  let p := 77 + 23 * 2 ^ 96 + 24 * 2 ^ 128 + 2 ^ 511
  s.setLQueue 0 0 { cfg := BitVec.ofNat 256 (2 ^ 13 + 2 ^ 16), slots := [{ bytes := bytesOfNat 64 (if patch then p else r), arrTs := 5 }] }

/-- witness: LaunchUnit, the record's start: both entries are the unit's own die's, so they join their channel at once. -/
theorem test_launch_serve : (launching.readySlot 0 0 == some 0 && launching.nextQueue 0 == some 0 && launching.nextQueue 1 == none &&
    ev .launchServe 0 launching (fun t => t.net == [] && (t.lqueue 0 0).slots == [] && (t.fn 0).everLaunched && (t.launch launching.nextLaunch).lid == 77 &&
      (t.chan (16 * 2048 + 2)).onchip.length == 2 && (t.chan (16 * 2048 + 2)).onchip.all fun r => r.core == 2048 && r.hidx == 3 && r.arg == 99)) = true := by
  decide +kernel

/-- witness: LaunchUnit, an entry forwarded to another die, a later one that waits, and a queue with nothing ready. -/
theorem test_launch_forward : let s := { handling with lforwards := [{ rec_ := contTo 3, die := 0 }, { rec_ := { contTo 3 with arg := 5 }, die := 0 }] }
    (ev .launchForward 0 s (fun t => t.lforwards.length == 1 && t.net == [] && (t.chan (16 * 2048 + 2)).onchip.map (·.arg) == [99]) &&
      ev .launchForward 1 s (fun t => t.lforwards.length == 2) && ev .launchServe 0 base (fun t => t.net == [])) = true := by decide +kernel

/-- `launching` with its second entry on logical core 2049, of die 1. -/
def launchFar : State :=
  (put (put (put launching 23 16 16 (2049 + 2 * 2 ^ 12 + 4 * 2 ^ 16 + 98 * 2 ^ 64)) 20 4098 2 0x8040) 21 1 1 0x81).updFn 0
    fun f => { f with recd := { f.recd with quartos := 19 } }

/-- `launching` with launch record r. -/
def launchOf (r : Nat) : State :=
  launching.setLQueue 0 0 { launching.lqueue 0 0 with slots := [{ bytes := bytesOfNat 64 r }] }

/-- witness: LaunchRecords, an accepted record: the entry of its own die joins channel 2, the other sets out, and each core is once
among the launch's. -/
theorem test_launch_records : let i := launchFar.nextLaunch
    ev .launchServe 0 launchFar (fun t => (t.chan (16 * 2048 + 2)).onchip.map (fun r => (r.isMsg, r.hidx, r.arg, r.lcore, r.launch)) ==
        [(false, 3, 99, 2048, some i)] && t.lforwards.map (fun f => (f.die, f.rec_.hidx, f.rec_.core, f.rec_.arg)) == [(1, 4, 2049, 98)] &&
      (t.launch i).cores == [(2048, 2048), (2049, 2049)] && (t.launch i).lid == 77 && (t.launch i).doneq == 24 && t.net == []) = true := by decide +kernel

/-- witness: LaunchRecords, refused records: no entry, a table through a handle without R, each reported in DONEQ; and DONEQ through a
handle without W, a dispatch fault. -/
theorem test_launch_refused : let r := 77 + 22 * 2 ^ 64 + 23 * 2 ^ 96 + 24 * 2 ^ 128
    let told (t : State) : Bool := t.peekN (padAddr 0 4096) 16 == 77 + 0xFFFF0000 * 2 ^ 64 && t.net == [] && (t.chan (16 * 2048 + 2)).onchip == []
    let bar (s : State) (h rights : Nat) : State := s.setHent 1 h { s.hent 1 h with rights := BitVec.ofNat 8 rights }
    (launching.doneqOk 1 24 && ev .launchServe 0 (launchOf r) told && ev .launchServe 0 (bar launching 23 0xFE) told &&
      (bar launching 24 0xFD).doneqOk 1 24 == false &&
      ev .launchServe 0 (bar launching 24 0xFD) (fun t => t.launches == [] && (t.dropped == 1 || t.net.length == 1))) = true := by decide +kernel

/-- A started launch of two cores with its done word: root 2048 and the core of tile 1. -/
def started (f : Launch → Launch) (m : List DoneMsg := []) : State :=
  let s := launching.setLaunch 7 (f { ctx := 1, lid := 77, doneq := 24, doneqGen := 1, patchGen := 1, cores := [(2048, 2048), (2080, 2080)], root := 2048, dlimit := 1, deadline := some 9 })
  { s with doneMsgs := m }

/-- witness: DoneTree: a first word waits, the last goes up, a flag-only word is ORed in, the deadline and the retry. -/
theorem test_done_tree : let m : DoneMsg := { launch := 7, src := 2080, dst := 2048, word := 5 }
    (doneParent 2048 [2048, 2080] 2080 == some 2048 && ev .doneWord 0 (started id [m]) (fun t => t.doneMsgs == [] && (tget (0, 0) (t.launch 7).words 2048).2 == 1) &&
      ev .doneWord 0 (started id [{ m with src := 2080, dst := 2080 }]) (fun t => t.doneMsgs.length == 1 && t.doneMsgs.all fun d => d.dst == 2048 && d.word == combineDone 0 5) &&
      ev .dupdoneWord 0 (started id [{ m with dup := true, word := 4096 }]) (fun t => t.doneMsgs == [] && (tget (0, 0) (t.launch 7).words 2048).1 == 4096) &&
      ev .doneDeadline 7 { started id with now := 9 } (fun t => (t.launch 7).written && t.peekN (padAddr 0 4096) 16 == 77 + 2 ^ 108) &&
      ev .doneqRetry 7 (started id) (fun t => (t.launch 7).written == false) &&
      (let w : DoneMsg := { m with src := 2049, flit := 4 }
       let s := { (started fun l => { l with cores := [(2048, 2048), (2049, 2049)] }) with doneMsgs := [{ w with flit := 2 }, w] }
       s.wayBusy (s.doneWay w) 4 && ev .doneWord 1 s (fun t => t.doneMsgs.length == 2)) &&
      (let s := started fun l => { l with pending := some [], doneqGen := 5 }
       (s.hlook 1 24 5).isNone && ev .doneqRetry 7 s (fun t => t.launch 7 == s.launch 7 && t.mem == s.mem))) = true := by decide +kernel

/-- witness: DoneTree at the root: the last word makes its own final, a word after that changes nothing, a flag-only word is
ORed into the word that waits and is dropped once it is written, and the retry of a written word raises the signal. -/
theorem test_done_root : let m : DoneMsg := { launch := 7, src := 2080, dst := 2048, word := 5 }
    let p := bytesOfNat 16 77
    (ev .doneWord 0 (started (fun l => { l with words := [(2048, (0, 1))] }) [m]) (fun t => (t.launch 7).closed) &&
      ev .doneWord 0 (started (fun l => { l with pending := some p }) [m]) (fun t => (t.launch 7).pending == some p && t.doneMsgs == []) &&
      ev .dupdoneWord 0 (started (fun l => { l with pending := some p }) [{ m with dup := true, word := 4096 }]) (fun t =>
        (t.launch 7).pending == some (bytesOfNat 16 (77 + 4096 * 2 ^ 64)) && t.doneMsgs == []) &&
      ev .dupdoneWord 0 (started (fun l => { l with written := true }) [{ m with dup := true, word := 4096 }]) (fun t => (t.launch 7).words == []) &&
      ev .doneqRetry 7 (started fun l => { l with written := true }) (fun t => (t.launch 7).written)) = true := by decide +kernel

/-- witness: DoneTree, the last clauses: a ring with room and one without. -/
theorem test_doneq_retry : let s := started fun l => { l with pending := some (bytesOfNat 16 9) }
    (s.ringOf (s.hent 1 24).node == some (0, 256) && s.ringOwner (s.hent 1 24).node == 0 && s.lines == [] && (s.desc 0 256).faulty (padBytes 0) == false &&
      (s.desc 0 256).pheld == 0 && (s.desc 0 256).free == 16 && ev .doneqRetry 7 s (fun t => (t.launch 7).written && t.peekN (padAddr 0 4096) 16 == 9) &&
      (let s := s.pokeN (padAddr 0 (256 + 24)) 4 16
       (s.desc 0 256).free == 0 && ev .doneqRetry 7 s (fun t => (t.launch 7).pending.isSome && t.mem == s.mem))) = true := by decide +kernel

/-- witness: Patches; CONTH names no container, so the status is MALFORMED; and a patch that is done already. -/
theorem test_patch : let s := started fun l => { l with patch := some 600 }
    ((s.launch 7).closed == false && ev .patchComplete 7 s (fun t => (t.launch 7).written && t.peekN (padAddr 0 4096) 16 == 77 + ldMALFORMED * 2 ^ 80) &&
      ev .patchComplete 7 (started fun l => { l with patch := some 600, written := true }) (fun t => t.peekN (padAddr 0 4096) 16 == 0)) = true := by decide +kernel

/-- witness: Patches, a launch that is closed. -/
theorem witness_patch_closed : ((started fun l => { l with patch := some 600, pending := some [] }).launch 7).closed = true := by decide +kernel

/-- A launch node of queue k behind a posted store of 64 bytes. -/
def appending (off n : Nat) : State :=
  let s := launching.setLQueue 0 0 { launching.lqueue 0 0 with slots := List.replicate n {} }
  { s with posted := [{ party := 9, ctx := 1, core := 2048, lword := 2048, node := .launch 0 0, off := off, bytes := [1, 2] }] }

/-- witness: PostedAccesses: a store behind an earlier one through its handle waits, one through a revoked handle is gone, and an
append of a launch record that is 8 bytes off. -/
theorem test_posted_order : let at6 : Posted := { party := 9, ctx := 1, core := 2048, node := .made 6, off := 2, bytes := [7, 8], handle := 3, gen := 1 }
    let s (l : List Posted) : State := { memS with posted := l }
    ((s [{ at6 with seq := 1 }, { at6 with seq := 2 }]).waitsFor { at6 with seq := 2 } &&
      ev .remoteAccess 1 (s [{ at6 with seq := 1 }, { at6 with seq := 2 }]) (fun t => t.posted.length == 2) &&
      (memS.hlook 1 3 9).isNone && ev .remoteAccess 0 (s [{ at6 with gen := 9, places := [({ addr := 0x20000002 }, 2)] }]) (fun t => t.posted == [] && t.mem == memS.mem) &&
      (let j : JoinReq := { seq := 2, party := 9, node := .made 6, handle := 3, gen := 1, ctx := 1, k := 1, core := 2048 }
       let u := { s [{ at6 with seq := 1 }] with joins := [j] }
       u.waitsFor j.write && ev .joinPerform 0 u (fun t => t.joins.length == 1)) &&
      ((appending 0 3).hlook 1 0 0).isSome && !(appending 0 3).waitsFor { node := .launch 0 0 }) = true := by decide +kernel

/-- witness: PostedAccesses. -/
theorem test_posted : let l : List (Place × Nat) := [({ addr := 0x20000002 }, 2)]
    let at6 : Posted := { party := 9, ctx := 1, core := 2048, node := .made 6, off := 2, bytes := [7, 8], handle := 3, gen := 1, places := l }
    (oks (memS.place 1 (.made 6) 2 true false) (fun p => p.addr == 0x20000002) && nodePad (.made 6) == none && ev .remoteAccess 0 { memS with posted := [at6] } (fun t => t.posted == [] &&
        oks (t.place 1 (.made 6) 2 false false) fun p => t.peekN p.addr 2 == 0x0807) &&
      ev .remoteAccess 0 { mullS with mullAdds := [{ party := 9, region := 3, mass := true, vals := [4], stripe := 0, first := 3 }] }
        (fun t => t.mullAdds == [] && tget 0 ((t.region 3).rep 0 0).s 3 == -3) 1 &&
      (appending 0 3).lqLive 0 0 && ev .queueAppend 0 (appending 8 3) (fun t => (t.lqueue 0 0).slots.length == 3) &&
      ev .queueAppend 0 (appending 0 64) (fun t => (t.lqueue 0 0).slots.length == 64 && t.posted == []) &&
      ev .queueAppend 0 (appending 0 3) (fun t => (t.lqueue 0 0).slots.length == 4 && t.posted == []) &&
      ev .joinPerform 0 { base with joins := [{ node := .pad 0 0, off := 192, ctx := 1, k := 1, core := 2048 }] } (fun t => t.joins == []) &&
      ev .remoteSemv 0 { base with semvs := [{ pad := 3, sem := 4, amount := 9, know := [] }] } (fun t => t.semvs == [] && t.sem 3 4 == 9)) = true := by
  decide +kernel

/-! ### Port commands, copies, name units (R186 to R260) -/

/-- The same state with the instruction where thread 0 fetches. -/
def running (s : State) (i : Instr) : State := s.poke 0 (bytesOfNat 12 ((encode i).getD 0))

/-- The state after an instruction. -/
def after (i : Instr) (s : State) : State := match exec i s with
  | .next t => t
  | _ => s

/-- witness: GangSteps, the barrier's clauses; 2^20 cycles make it stale. -/
theorem test_gang_stale : let s := (ganged [2080]).updFn 0 fun f => { f with cur := 1 }
    (ev .gangStale 0 { s with now := 2 ^ 20 - 1 } (fun t => (tget [] (t.quarto 0).barrier 1).length == 1) 1 &&
      (tget [] (s.quarto 0).barrier 1).any (fun a => decide (a.at_ + 2 ^ 20 ≤ ({ s with now := 2 ^ 20 } : State).ranCycles 1)) &&
      ev .gangStale 0 { s with now := 2 ^ 20 } (fun t => tget [] (t.quarto 0).barrier 1 == [] && (t.dropped == 1 || t.net.length == 1)) 1) = true := by
  decide +kernel

/-- A gang of one row at the port, behind `l`: each core's slice of its sheet 2 is 32 times 1, column 0 of the weights is
all 2, and the row accumulates. -/
def gangPort (l : List PortOp) : State :=
  let s := (ganged [2080, 2112, 2144, 2176, 2208, 2240, 2272]).sheetWrite 0 2 0 (List.replicate 256 1)
  let s := s.updQuarto 0 fun q => { q with weights := { q.weights with data := (List.range 256).map fun i => (i, 2) } }
  let arrs := (List.range 8).map fun t => ({ core := 2048 + 32 * t, ctl := w64 (1 + 8 * 2 ^ 16), stream := 2, et := 0 } : Arrival)
  { s.setAcc 0 8 0 { val := 3 } with port := l ++ [{ cmd := .gang [0] arrs (w64 (1 + 8 * 2 ^ 16)), quarto := 0, core := 2048, ctx := 1 }] }

/-- witness: GangSteps; a gang that is free to complete, and one behind a command that it must follow. A slice of four
ones times four twos adds 8 to the element. -/
theorem test_gang_port : (gangPort []).portFree 0 ((gangPort []).port.headD {}) = true := by decide +kernel
theorem test_gang_element : ((({ val := 3 } : Acc).plus (accumulate 0 0 { val := 3 } (elements 0 false [1, 1, 1, 1] []) (elements 0 false [2, 2, 2, 2] []))).val == 11) = true := by
  decide +kernel
theorem test_gang_waits : let o : PortOp := { (gangPort []).port.headD {} with tag := 1 }
    ((gangPort [o]).portFree 1 ((gangPort [o]).port.getD 1 {}) == false && ev .gangComplete 1 (gangPort [o]) (fun t => t.port.length == 2)) = true := by
  decide +kernel

/-- SLOAD and SSAVE of sheet 2, rows 1 and 2, at the port, with data in pad 0. -/
def moving (save : Bool) : State :=
  let s := ((matS 0 false true).poke (padAddr 0 0) (List.replicate 64 7)).sheetWrite 0 2 256 (List.replicate 64 9)
  after (if save then .ssave h0 0 0 ⟨2, 0⟩ (.i 2) 9 else .sload h0 0 0 (.i 2) ⟨2, 0⟩ 9) s

/-- The head's hypotheses. -/
def beatOk (s : State) (n kind : Nat) : Bool := match s.port with
  | [o] => s.portFree 0 o && good (s.beatAt o (s.t.rdB 2) 0 n kind)
  | _ => false

/-- witness: MoveBeats, a beat of each and one whose handle is revoked. -/
theorem test_move_beats : (beatOk (moving false) 64 0 && ev .sheetMoveBeat 0 (moving false) (fun t => t.sheetRead 0 2 256 64 == List.replicate 64 7 &&
      t.port.all (fun o => o.beat == 1)) && beatOk (moving true) 64 1 &&
    ev .sheetMoveBeat 0 (moving true) (fun t => t.peek (padAddr 0 0) 64 == List.replicate 64 9 && t.port.all fun o => o.beat == 1) &&
    (let s := (moving true).setHent 1 1 {}
     !beatOk s 64 1 && ev .sheetMoveBeat 0 s (fun t => t.port == [] && t.net.any fun r => r.payload == moveEnd 0x12 0 0))) = true := by decide +kernel

/-- witness: MoveBeats, the last beat: two rows are eight beats of 64 bytes. -/
theorem test_last_beat : let s := { moving false with port := (moving false).port.map fun o => { o with beat := 7 } }
    (s.port.all (fun o => o.beats == 8) && beatOk s 64 0 && ev .sheetMoveBeat 0 s (fun t => t.port == [] && t.net.any fun r => r.payload == moveEnd 0 2 0)) = true := by
  decide +kernel

/-- witness: MoveBeats, a drain of row 2 as I32; element 5 is 3. -/
theorem test_drain_beat : let s := after (.mdrain h0 4 0 0 0 13 2 12) ({ matS with acc := [(2 * 128 + 5, { val := 3 })] } : State)
    (beatOk s 64 1 && (drainBeats 0 512 3)[0]? == some (0, 0, 64) &&
      ev .drainBeat 0 s (fun t => t.peekN (padAddr 0 20) 4 == 3 && t.peekN (padAddr 0 16) 4 == 0 && t.acc == s.acc) &&
      ev .drainBeat 0 (s.setHent 1 1 {}) (fun t => t.port == [] && t.net.any fun r => r.payload == drainEnd 0x12 0 0 0)) = true := by decide +kernel

/-- witness: ButterflySteps; MDREV of a run, and one behind another command. -/
theorem test_butterfly_complete : let s := after (.mdrev h0 (.i 0) (.i 2)) (after (.mbexpSet h0 3 (.i 3) (.i 2)) (after (.mbexpSet h0 3 (.i 2) (.i (-3))) (matS 4)))
    (s.port.all (fun o => o.cmd.isBfly && s.portFree 0 o) && s.port.length == 1 &&
      ev .butterflyComplete 0 s (fun t => t.port == []) &&
      (let s := { s with port := s.port ++ s.port.map fun o => { o with tag := 1 } }
       s.portFree 1 (s.port.getD 1 {}) == false && ev .butterflyComplete 1 s (fun t => t.port.length == 2))) = true := by decide +kernel

/-- `mapped` with b3 at offset `off` of the copy aperture of tile 0, a table of 4 templates at pad offset 128 (the first
copies 16 bytes from offset 0 of an object to pad offset 256), and thread 0 about to store `v` there. -/
def copying (off : Nat) (v : Word) (priv : Nat := 0) : State :=
  let s := (obj (mapped priv) 5 2 4096 64).setHent 1 30 { state := 2, gen := 1, node := .copy 0 0, rights := 0xFF, grant := 0xFF, size := 256 }
  let s := s.updFn 0 fun f => { f with cur := 1, recd := { f.recd with copych := 0xFF, quartos := 3 } }
  let s := put s 5 0 16 0x0123456789
  let s := s.setCopyRegs 1 0 { ttab := w64 (4 + 2 * 2 ^ 16), win := [] }
  let dst := (mintPtr 0xFF 1 1 4096).raw.toNat + 256
  let s := (s.pokeN (padAddr 0 128) 64 ((mintPtr 0xFF 1 2 4096).raw.toNat + dst * 2 ^ 128 + 16 * 2 ^ 256 + 2 ^ 272 + 2 ^ 288 + 77 * 2 ^ 432 + 3 * 2 ^ 464))
  let s := { s with tags := tset false (tset false s.tags (padAddr 0 128 / 16) true) (padAddr 0 128 / 16 + 1) true }
  let p := mintPtr 0xFF 1 30 256
  running (s.updT fun t => (t.wrG 5 v).wrB 3 { p with raw := p.raw + BitVec.ofNat 128 off }) (.st h0 6 0 0 (.mem ⟨3, 0⟩) (.g 5))

/-- The hypotheses of CopyStores. -/
def storeOk (s : State) (off : Nat) : Bool := match s.nextInstr 16384 with
  | some (i, u) => i == .st h0 6 0 0 (.mem ⟨3, 0⟩) (.g 5) && u.t.guard h0 && u.posted == [] &&
      oks (u.checkPtr 1 (u.ptr 3) 3 0 8 2) fun e => u.ownCopy e.1.node && e.2 == off
  | none => false

/-- witness: CopyStores, a START with room, and one where eight are queued. -/
theorem test_copy_start : (storeOk (copying 0 0) 0 && ev .copyStart 16384 (copying 0 0) (fun t => t.t.pc == 12 && (t.copyQ 0).length == 1 &&
      (t.copyQ 0).all fun c => c.ctx == 1 && c.core == 2048 && c.srcTag && c.hidx == 3 && !c.checked) &&
    ev .copyStart 16384 ((copying 0 0).setCopyQ 0 (List.replicate 8 {})) (fun t => (t.copyQ 0).length == 8 && t.net.any fun r =>
      natOfBytes r.payload / 2 ^ 56 % 2 ^ 8 == 5)) = true := by decide +kernel

/-- witness: CopyStores, where a START traps: an index outside the table, no quota of the channel, a secure channel. -/
theorem test_copy_start_traps : let t (s : State) (c : Nat) : Bool := storeOk s 0 && ev .copyStart 16384 s (fun t => t.t.tcause.toNat == c && t.copyQ 0 == [])
    (t (copying 0 4) 0x10 && t ((copying 0 0).updFn 0 fun f => { f with recd := { f.recd with copych := 0xFE } }) 0x11 &&
      (let s := { copying 0 0 with worlds := tset false (copying 0 0).worlds (2 ^ 48) true }
       s.world 1 0 && !s.ctxWorld 1 && t s 0x1A)) = true := by decide +kernel

/-- witness: CopyStores, a CTL at user level, and one for a fault that no head waits on. -/
theorem test_copy_ctl : (storeOk (copying 0x88 0x900000001) 0x88 && ev .copyFaultResume 16384 (copying 0x88 0x900000001) (fun t => t.t.tcause == 0x11) &&
    ev .copyFaultAbort 16384 (copying 0x88 0x900000002) (fun t => t.t.tcause == 0x11) && ((copying 0x88 0 1).copyWaiting 1 9).isNone &&
    ev .copyFaultResume 16384 (copying 0x88 0x900000001 1) (fun t => t.t.pc == 12 && t.net == []) &&
    ev .copyFaultAbort 16384 (copying 0x88 0x900000002 1) (fun t => t.t.pc == 12 && t.net == [])) = true := by decide +kernel

/-- witness: CopyStores, TTAB, WIN and CTL; the head of channel 1 waits on fault 9. -/
theorem test_copy_registers : let s (off : Nat) (v : Word) (p : Nat) := (copying off v p).setCopyQ 1 [{ ctx := 1, core := 2048, fault := some (9, 0x18) }]
    (storeOk (copying 0x40 0) 0x40 && ev .copyTtabWrite 16384 (s 0x40 (-1) 0) (fun t => (t.copyRegs 1 0).ttab == 0x7FFFFFFF && t.t.pc == 12) &&
      ev .copyWindowWrite 16384 (s 0xC8 (-1) 0) (fun t => tget 0 (t.copyRegs 1 0).win 1 == 0x1FFFFFFFFFFFF) &&
      ((s 0x88 0x900000001 1).copyWaiting 1 9).isSome &&
      ev .copyFaultResume 16384 (s 0x88 0x900000001 1) (fun t => (t.copyQ 1).all (fun c => c.fault.isNone) && t.t.pc == 12) &&
      ev .copyFaultAbort 16384 (s 0x88 0x900000002 1) (fun t => t.copyQ 1 == [] && t.net.any fun r => natOfBytes r.payload / 2 ^ 56 % 2 ^ 8 == 0x18)) = true := by
  decide +kernel

/-- witness: CopyBeats; the head is checked and its one beat moves 16 bytes; a bad template; another tile's aperture. -/
theorem test_copy_beats : let s := after .copyStart { copying 0 0 with arg := { a := 16384 } }
    ((s.copyQ 0).all (fun c => s.copyCheck 0 c == none && s.onTiles c.ctx 0) && ev .copyHeadCheck 0 s (fun s => (s.copyQ 0).all (fun c => c.checked) &&
        (s.copyQ 0).all (fun c => (s.copyNode 1 c.src).isSome && (s.copyNode 1 c.dst).isSome && c.beat.length == 16 && !c.swen) &&
        ev .copyBeat 0 s (fun t => t.peekN (padAddr 0 256) 16 == 0x0123456789 && t.copyQ 0 == []) &&
        ev .copyBeat 0 (s.updMade 5 fun m => { m with pages := [(0, .absent)] }) (fun t => (t.copyQ 0).all fun c => c.fault.isSome)) &&
      ev .copyHeadCheck 0 (s.setCopyQ 0 [{ ctx := 1, core := 2048 }]) (fun t => t.copyQ 0 == [] && t.net.any fun r => natOfBytes r.payload / 2 ^ 56 % 2 ^ 8 == 2) &&
      ev .copyRefused 0 { base with posted := [{ party := 9, ctx := 1, core := 2048, node := .copy 0 1, bytes := [1] }] }
        (fun t => t.posted == [] && (t.dropped == 1 || t.net.length == 1))) = true := by decide +kernel

/-- witness: CopyBeats: not the channel's turn, a handle that is gone, and a race with party 3's write of the destination. -/
theorem test_copy_beat_ends : let s := after .copyHeadCheck { after .copyStart { copying 0 0 with arg := { a := 16384 } } with arg := { a := 0 } }
    (s.copyTurn 0 == some 0 && (s.copyQ 0).all (fun c => c.checked) && { s with copyLast := tset 0 s.copyLast 0 1 }.copyTurn 0 == some 0 &&
      (let u := s.setCopyQ 1 (s.copyQ 0)
       u.copyTurn 0 == some 0 && ev .copyBeat 1 u (fun t => (t.copyQ 1).length == 1 && t.net == u.net)) &&
      ev .copyBeat 0 (s.setHent 1 2 {}) (fun t => t.copyQ 0 == [] && t.net.any fun r => natOfBytes r.payload / 2 ^ 56 % 2 ^ 8 == 0x12) &&
      (let u := s.touchAll 3 0 aWrite (linesOf (padNode 0) 256 16)
       (s.copyQ 0).all (fun c => (u.race c.party 1 (linesOf (padNode 0) 256 16)).isSome) &&
         ev .copyBeat 0 u (fun t => t.copyQ 0 == [] && t.net.any fun r => natOfBytes r.payload / 2 ^ 56 % 2 ^ 8 == 0x20))) = true := by decide +kernel

/-- witness: NameUnits, NCLOSE. -/
theorem test_name_close : ev .nameMove 5 ((memS.setTxn 5 { op := 2, ctx := 1, core := 2048, ha := (3, 1), issuer := memS.t.party }))
    (fun t => !(t.hent 1 3).used && (t.txn 5).res.any fun r => r.status == 0) = true := by decide +kernel

/-- Transaction 5 of opcode `op` on the handle of the object homed on die 3. -/
def asking (op : Nat) (f : Txn → Txn) : State :=
  memS.setTxn 5 (f { op := op, ctx := 1, core := 2048, ha := (3, 1), hidx := 9, rtag := 5, issuer := memS.t.party })

/-- witness: NameUnits: NSTAT and NOPEN at the object's die, with the rights and without. -/
theorem test_name_move : ((asking 7 id).txnDie 5 == 3 && !(asking 7 id).txnWaits 5 && ((asking 7 id).hlook 1 3 1).isSome && !(asking 7 id).otherWorld 1 (.made 6) &&
    ev .nameMove 5 (asking 7 id) (fun t => (t.txn 5).die == 3 && (t.txn 5).res.any fun r => r.status == 0 && r.entry == t.entryWord (t.hent 1 3)) &&
    ev .nameMove 5 (asking 1 fun x => { x with arg := 3 }) (fun t => (t.txn 5).res.any fun r => r.status == 0 && r.value == 4096) &&
    ev .nameMove 5 ((asking 1 fun x => { x with arg := 3 }).setHent 1 3 { memS.hent 1 3 with rights := 1, grant := 1 }) (fun t =>
      (t.txn 5).res.any fun r => r.status == 3)) = true := by decide +kernel

/-- witness: NameUnits, results: a revoked handle, one that stands, and the host's. -/
theorem test_name_result : (((asking 7 id).hlook 1 999 1).isNone && (asking 7 fun x => { x with ha := (999, 1) }).txnDie 5 == 0 &&
    ev .nameResult 5 (asking 7 fun x => { x with ha := (999, 1) }) (fun t => t.txns == [] && t.net.any fun r => r.hidx == 9 && r.core == 2048 &&
      natOfBytes r.payload % 256 == 4 && natOfBytes r.payload / 65536 % 65536 == 5) &&
    ev .nameResult 5 (asking 7 fun x => { x with res := some { status := 3 } }) (fun t => t.txns == [] && t.net.any fun r => natOfBytes r.payload % 256 == 3) &&
    ev .nameResult 5 (asking 7 fun x => { x with res := some {}, host := some 2 }) (fun t => t.txns == [] && t.net == [])) = true := by decide +kernel

/-! ### Page commands, partitions, contexts, slot objects, loads (R261 to R271, R312 to R326, R345, R351) -/

/-- Transaction 5: a write of `size` bytes of value x at `off` of a control object. -/
def writing (s : State) (ctl : Node) (off size x : Nat) (f : Txn → Txn := id) : State :=
  s.setTxn 5 (f { op := 4, ctx := 1, core := 2048, ctl := some ctl, off := off, arg := size, data := bytesOfNat size x })

/-- A page command of context 1 at level `priv` on page 0 of the object behind handle 2 or on granule 2, with its FRAME. -/
def paging (op : Nat) (frame : Nat := 0) (priv : Nat := 1) (f : State → State := id) (cnt : Nat := 1) (page : Nat := 0) : State :=
  let s := (obj (mapped priv) 5 2 4096 64).updFn 0 fun g => { g with recd := { g.recd with zone := 1, maxmoves := 1, window := 1 } }
  writing (f s) (.vfctl 0) 0x100 32 (op + 2 * 2 ^ 44 + page * 2 ^ 64 + cnt * 2 ^ 160 + frame * 2 ^ 192)

def paged (s : State) (st : Word) (n : Nat) : Bool := (s.txn 5).spec == st && ((s.txn 5).paged.map (·.length)) == some n

/-- The hypotheses shared by the commands on pages and granules. -/
def cmdOk (s : State) (op level : Nat) : Bool := match s.pageCmd 5 op with
  | some (n, c, x) => !pcBad x && s.issuerAt c n level && pcCOUNT x == 1
  | none => false

/-- witness: PageRefusals: COUNT 0, a user, OP 12, and a command that is done. -/
theorem test_page_refusals : ((paging 0 0 1 id 0).pageCmd 5 0).any (fun e => pcBad e.2.2) ∧
    ev .pageMap 5 (paging 0 0 1 id 0) (fun t => paged t 1 0) ∧ ev .pageMap 5 (paging 0 0 0) (fun t => paged t 2 1 && (t.txn 5).paged == some [pageKey 5 0]) ∧
    ev .pageMap2 5 (paging 5 0 1) (fun t => paged t 2 1) ∧ ev .pageMap2 5 (paging 5 0 3) (fun t => paged t 2 1) ∧ ev .pageAbort 5 (paging 9 0 0) (fun t => paged t 2 0) ∧
    ev .pageBadop 5 (paging 12) (fun t => paged t 1 0) ∧
    ev .pageCommandDone 5 ((paging 0).updTxn 5 fun t => { t with paged := some [4], spec := 0x10000 }) (fun t => (t.txn 5).res.any fun r => r.value == 0x10000) := by
  decide +kernel

/-- The page before. -/
def pageWas (p : Page) (s : State) : State := s.updMade 5 fun m => { m with pages := tset .own m.pages 0 p }

/-- witness: PageStage1; the object has one page of 64 KiB; frame 96 is in HBM, frame 2^25 in LPDDR. -/
theorem test_page_stage1 : (cmdOk (paging 0 96) 0 1 && ((paging 0).hent 1 2).used && ((paging 0).madeN 5).paged && footprint 4096 / pageSize 4096 == 1 &&
    oks ((paging 0).frameOk 0 96 65536) (fun t => t == 0) && tget .own ((paging 0 96 1 (pageWas .absent)).madeN 5).pages 0 == .absent &&
    ev .pageMap 5 (paging 0 96 1 (pageWas .absent)) (fun t => paged t 0x10000 1 && tget .own (t.madeN 5).pages 0 == .frame 96) &&
    ev .pageUnmap 5 (paging 1) (fun t => paged t 0x10000 1 && tget .own (t.madeN 5).pages 0 == .absent) &&
    tget .own ((paging 3 96 1 (pageWas .zone)).madeN 5).pages 0 == .zone &&
    ev .pageExpand 5 (paging 3 96 1 (pageWas .zone)) (fun t => paged t 0x10000 1 && tget .own (t.madeN 5).pages 0 == .frame 96) &&
    oks ((paging 0).frameOk 0 (2 ^ 25) 65536) (fun t => t == 1) && (paging 4).inHbm 5 0 &&
    ev .pageDemote 5 (paging 4 (2 ^ 25)) (fun t => paged t 0x10000 1 && tget .own (t.madeN 5).pages 0 == .frame (2 ^ 25)) &&
    ev .pageQuery 5 (paging 8) (fun t => paged t 0x400010000 1 && t.made == (paging 8).made)) = true := by decide +kernel

/-- witness: PageStage1, COMPRESS of a page in HBM. -/
theorem witness_page_compress : (cmdOk (paging 2) 2 1 && (paging 2).inHbm 5 0 && (((paging 2).pageFrame 5 0).bind ((paging 2).frameAddr 0)).isSome &&
    Memory.wf (paging 2).mem && ((paging 2).fn 0).recd.zone == 1) = true := by decide +kernel

/-- witness: PageStage2; granule 2 of the guest goes to physical granules of dies 0 and 1. -/
theorem test_page_stage2 : let s (op g : Nat) (f : State → State := id) := paging op g 2 (fun s => f (s.updFn 0 fun f => { f with recd := { f.recd with quartos := 0x11 } })) 1 2
    (cmdOk (s 5 0) 5 2 && (s 5 0).granuleOk 0 0 && ev .pageMap2 5 (s 5 0) (fun t => tget 0 (t.fn 0).s2 2 == 2 && paged t 0x10000 1) &&
      ((s 6 0).stage2 0 2).isSome && ev .pageUnmap2 5 (s 6 0) (fun t => tget 0 (t.fn 0).s2 2 == 1 && paged t 0x10000 1) &&
      (s 7 1).granuleOk 0 1 && ((s 7 1).stage2 0 2).any (fun g => g % 32 == 0) && ((s 7 1).recentMoves 0 2).length == 0 &&
      ev .pageMove 5 (s 7 1) (fun t => tget 0 (t.fn 0).s2 2 == 3 && paged t 0x10000 1) &&
      (let s := s 7 1 fun s => s.updFn 0 fun f => { f with moves := [(2, [0])] }
       (s.recentMoves 0 2).length == 1 && ev .pageMove 5 s (fun t => paged t 5 1))) = true := by decide +kernel

/-- witness: PageStage2, a granule that holds a replica. -/
theorem test_page_replica : let s (op : Nat) := paging op 0 2 (fun s => { s with mull := [(3, { (s.region 3) with live := true, fn := 0, stripes := 1, frames := [(0, some 64)] })] }) 1 2
    let no (i : Instr) (op : Nat) := cmdOk (s op) op 2 && (s op).holdsReplica 0 2 && ev i 5 (s op) (fun t => t.fns == (s op).fns && paged t 3 1)
    (no .pageMap2 5 && no .pageUnmap2 6 && no .pageMove 7) = true := by decide +kernel

/-- witness: PageStage2, ABORT of the held access with FSEQ 9 of core word 2048. -/
theorem test_page_abort : let s := (paging 9 (9 + 2048 * 2 ^ 32)).setTxn 6 { ctx := 1, held := some 9, hdr := mkHdr 0 false false 0 0 2048 0 0 }
    (cmdOk s 9 1 && s.ctxFn 1 == 0 && ev .pageAbort 5 s (fun t => (t.txn 6).res.any fun r => r.status == 5)) = true := by decide +kernel

/-- The result's status and value. -/
def ended (s : State) (st v : Nat) : Bool := (s.txn 5).res.any fun r => r.status == st && (st != 0 || r.value == w64 v)

/-- A function record of function 3 with quartos 4 and 5, 8 contexts and the rest in range. -/
def fnrec (q : Nat := 0x30) : Nat := q * 2 ^ 384 + 8 * 2 ^ 290 + 10 * 2 ^ 295 + 2 ^ 305 + 2 ^ 312

/-- witness: PartitionRecords, the function record. -/
theorem test_function_record : let s (q : Nat) (h : Option Nat) := writing { base with bootDies := 3 } (.vfctl 3) 0 64 (fnrec q) fun t => { t with host := h }
    ((s 0x30 (some 0)).recordStatus 3 (fnrec 0x30) == 0 && ev .functionRecord 5 (s 0x30 (some 0)) (fun t => ended t 0 0 && (t.fn 3).recd == recordOf (fnrec 0x30)) &&
      ev .functionRecord 5 (s 0x30 none) (fun t => ended t 3 0) && (s 1 (some 0)).recordStatus 3 (fnrec 1) == 2 &&
      ev .functionRecord 5 (s 1 (some 0)) (fun t => ended t 0 2 && (t.fn 3).recd == {})) = true := by decide +kernel

/-- witness: PartitionRecords, the split: waiting for its result, out of range, without room, refused, and posted. -/
theorem test_l2_split : let s (p : Nat) (f : State → State := id) := f ((base p).updFn 0 fun f => { f with l2limit := 9, recd := { f.recd with quartos := 0x11 } })
    let w (s : State) (v : Nat) := writing s (.vfctl 0) 0x40 8 v
    let held (s : State) := s.setMade 9 { kind := kMemo, tier := 1, size := 2 ^ 22, base := 0, home := 0 }
    (ev .l2Split 5 (w (s 1) 7) (fun t => ended t 0 0 && t.fns == (s 1).fns && (t.txn 5).res.any (fun r => r.late == .split 0 7) &&
        t.txnWaits 5 == false && ev .nameResult 5 t (fun u => (u.fn 0).l2store == 7)) &&
      ev .l2Split 5 (w (s 1) 10) (fun t => ended t 0 2) && ev .l2Split 5 (w (s 0) 7) (fun t => ended t 3 0) &&
      (s 1 held).l2Used 0 0 == 2 ^ 22 && (s 1).diesOf 0 == [0, 1] && ev .l2Split 5 (w (s 1 held) 4) (fun t => ended t 0 0) &&
      ev .l2Split 5 (w (s 1 held) 3) (fun t => ended t 0 3 && t.fns == (s 1 held).fns)) = true := by decide +kernel

/-- witness: PartitionRecords, a queue's configuration and the window map. -/
theorem test_partition_registers : let s (p : Nat) := (base p).updFn 0 fun f => { f with l2limit := 9 }
    ((s 1).queueStatus 0 1 (2 ^ 16 + 5) == 0 && ev .launchQueueConfig 5 (writing (s 1) (.vfctl 0) 0x220 32 (2 ^ 16 + 5)) (fun t => ended t 0 0 && (t.lqueue 0 1).cfg == 0x10005) &&
      (s 1).queueStatus 0 1 (2 ^ 16 + 16) == 1 && ev .launchQueueConfig 5 (writing (s 1) (.vfctl 0) 0x220 32 (2 ^ 16 + 16)) (fun t => ended t 0 1) &&
      ev .launchQueueConfig 5 (writing (s 0) (.vfctl 0) 0x220 32 (2 ^ 16 + 5)) (fun t => ended t 3 0) &&
      ev .cxlWindowMap 5 (writing (s 0) (.vfctl 2) 0x1010 16 (7 + 9 * 2 ^ 64) fun t => { t with host := some 2 }) (fun t =>
        ended t 0 16 && tget 0 (t.fn 2).cxlmap 1 == 7 + 9 * 2 ^ 64)) = true := by decide +kernel

/-- A context record for slot 5 of function 0: OP, CTXID 77, GOVERN, HTENT 16. -/
def ctxRec (s : State) (op gov : Nat) (priv : Nat := 0) (halves : Nat := 0) : State :=
  writing (s.updFn 0 fun f => { f with recd := { f.recd with nctx := 16, htlog := 10 } }) (.vfctl 0) 0xD40 64
    (op + priv * 2 ^ 16 + 77 * 2 ^ 64 + gov * 2 ^ 80 + 16 * 2 ^ 96 + halves * 2 ^ 256)

/-- witness: ContextRecords, CREATE of a user under context 3, refused, and without room for its tables. -/
theorem test_context_create : let s := ctxRec (base 2) 1 3
    ((s.ctxWrite 5 1).isSome && (s.ctxWrite 5 1).any (fun e => s.createStatus e.2.2.1 0 5 e.2.2.2 == 0) && (s.makeTables 0 16).isSome &&
      ev .contextCreate 5 s (fun t => ended t 0 0 && (t.ctx 77).live && (t.ctx 77).govern == 3 && (t.ctx 77).htsize == 16 && (t.ctx 77).hbase == 1) &&
      ev .contextCreate 5 (ctxRec (base 0) 1 3) (fun t => ended t 0 2 && !(t.ctx 77).live) &&
      (let s := (ctxRec (base 2) 1 3).updFn 0 fun f => { f with recd := { f.recd with quartos := 0 } }
       (s.makeTables 0 16).isNone && ev .contextCreate 5 s (fun t => ended t 0 10))) = true := by decide +kernel

/-- witness: ContextRecords, a record out of range, and DESTROY and HALVES of context 3 in slot 1. -/
theorem test_context_records : let w (op halves : Nat) (p : Nat := 2) (id : Nat := 7) := writing (base p) (.vfctl 0) 0xC40 64 (op + id * 2 ^ 64 + 2 ^ 96 + halves * 2 ^ 256)
    let e (s : State) := s.updCtx 1 fun c => { c with slot := 2 }
    let gone (s : State) := (e s).setCtx 3 {}
    ((e (w 2 0)).slotCtx 0 1 == some 3 && xBad (2 + 2 ^ 96) && !xBad (2 + 7 * 2 ^ 64 + 2 ^ 96) && (e (w 3 3)).halvesOk 0 3 (3 + 3 * 2 ^ 256) &&
      ev .contextCreate 5 (e (w 1 0 2 0)) (fun t => ended t 0 1) && ev .contextDestroy 5 (e (w 2 0 2 0)) (fun t => ended t 0 1 && (t.ctx 3).live) &&
      ev .contextDestroy 5 (e (w 2 0)) (fun t => ended t 0 0 && t.ctx 3 == {}) && ev .contextDestroy 5 (e (w 2 0 0)) (fun t => ended t 0 2 && (t.ctx 3).live) &&
      ev .contextDestroy 5 (gone (w 2 0)) (fun t => ended t 0 3) && ev .contextHalves 5 (e (w 3 3 2 0)) (fun t => ended t 0 1) &&
      ev .contextHalves 5 (gone (w 3 3)) (fun t => ended t 0 3) && ev .contextHalves 5 (e (w 3 3)) (fun t => ended t 0 0 && (t.ctx 3).halves == 3) &&
      ev .contextHalves 5 (e (w 3 3 0)) (fun t => ended t 0 2) && ev .contextHalves 5 (e (w 3 4)) (fun t => ended t 0 2)) = true := by decide +kernel

/-- A node record for slot 2, whose context 1 governs itself at level 1, with this NAME and an empty PATH. -/
def noding (x : Nat) (name : String := "ring") : State :=
  let s := (mapped 1).updCtx 1 fun c => { c with slot := 2, govern := 1 }
  writing (s.pokeN (padAddr 0 256) 32 (initDesc (6 + 16 * 16 + 4096 * 2 ^ 20))) (.ctxslot 0 2) 0 256 x fun t =>
    { t with data := (bytesOfNat 32 x ++ str name ++ List.replicate (32 - (str name).length) 0 ++ List.replicate 200 0).take 256 }

/-- The hypotheses of NodeRecords. -/
def nodeOk (s : State) (op : Nat) : Bool := match s.slotWrite 5 with
  | some (n, k, c) => n == 0 && k == 2 && c.off == 0 && nrOP (natOfBytes c.data) == op && s.slotCtx 0 2 == some 1 && s.reachesSlot 1 0 1 &&
      (match unpad (c.data.drop 64) with
        | some path => path == [] && oks (s.pointAt 1 path) fun p => s.nodeKind p.1 == kDir && s.nodeKind (s.behind 1 65 p).1 == kDir
        | none => false)
  | none => false

/-- witness: NodeRecords. -/
theorem test_node_records : let q := 1 + 256 * 2 ^ 75
    (nodeOk (noding q) 1 && (noding q).mapPad 1 0 0 == some 0 && ev .makeq 5 (noding q) (fun t => ended t 0 0 && t.names.any fun e =>
        e.name == str "ring" && e.only == some 1 && match e.node with | .made j => (t.madeN j).kind == kQueue && (t.madeN j).qdesc == 256 && (t.madeN j).size == 64 | _ => false) &&
      nodeOk (noding (2 + 7 * 2 ^ 112)) 2 && ev .makepeer 5 (noding (2 + 7 * 2 ^ 112)) (fun t => ended t 0 0 && t.names.any fun e =>
        match e.node with | .made j => (t.madeN j).kind == kPeer && (t.madeN j).peer == 7 | _ => false) &&
      nodeOk (noding (3 + 5 * 2 ^ 8 + 2 * 2 ^ 24 + 2 ^ 128 + 2 ^ 148)) 3 &&
      ev .slotBind 5 (noding (3 + 5 * 2 ^ 8 + 2 * 2 ^ 24 + 2 ^ 128 + 2 ^ 148)) (fun s => ended s 0 0 && (s.bindsOf 1).length == 1 &&
        ev .slotUnbind 5 (writing s (.ctxslot 0 2) 0 256 4 fun t => { t with data := (noding 4).txn 5 |>.data }) (fun t => ended t 0 0 && t.bindsOf 1 == [])) &&
      ev .slotBind 5 (noding (3 + 5 * 2 ^ 8 + 2 * 2 ^ 24 + 900 * 2 ^ 128)) (fun t => ended t 0 0x403 && t.bindsOf 1 == [])) = true := by decide +kernel

/-- witness: ControlWrites. -/
theorem test_control_writes : (ev .controlWrite 5 (writing (base 1) (.chan 0 0 2 4) 0 16 (1 + 9 * 2 ^ 44 + 7 * 2 ^ 64)) (fun t =>
      ended t 0 16 && (t.chan (16 * coreOf 0 0 2 + 4)).backH == 9 && (t.chan (16 * coreOf 0 0 2 + 4)).backDepth == 7 && (t.chan (16 * coreOf 0 0 2 + 4)).mode == 1) &&
    ev .controlWrite 5 (writing (base 1) (.trace 0) 0x18 8 9) (fun t => ended t 0 8 && (t.traceU 0).rdptr == 9) &&
    ev .controlWrite 5 (writing (base 0) (.trace 0) 0x18 8 9) (fun t => ended t 3 0) &&
    ev .controlWrite 5 (writing base (.vfmigrate 0) 0 8 7 fun t => { t with host := some 0 }) (fun t => (t.fn 0).migr.err == 1 && (t.fn 0).migr.st == 0) &&
    ev .controlWrite 5 (noding 9) (fun t => ended t 0 1)) = true := by decide +kernel

/-- witness: ControlWrites, worldctl, by a secure monitor of a free block and of none (KIND 7), and by others. -/
theorem test_worldctl : let s (v : Word) (w : Bool := true) := running ((gs v 0 3).updFn 0 fun f => { f with recd := { f.recd with world := w } }) (.cwr h0 0x1C1 (.g 5))
    let free : Word := 5 + 8 + 100 * 2 ^ 16
    (((s free).nextCrWrite 16384).any (fun e => e.1 == 0x1C1 && decide (0x1C1 < crLimit e.2.2.priv) && e.2.2.ctxWorld 1 && !e.2.2.blockHeld 5 100) &&
      worldIndex 5 100 && ev .worldctlWrite 16384 (s free) (fun t => t.world 5 100 && t.worldctl.toNat / 128 % 4 == 1) &&
      worldIndex 7 0 == false && ev .worldctlWrite 16384 (s 7) (fun t => t.worlds == (s 7).worlds && t.worldctl.toNat / 128 % 4 == 2) &&
      ev .worldctlWrite 16384 (s free false) (fun t => t == { s free false with arg := { a := 16384 } })) = true := by decide +kernel

/-- witness: Loads: a load that waits for a patch taken before it, a load taken, one that another blocks, one from a context, and one of a context that is not live. -/
theorem test_loads : let s := writing { base with bootStage := 5 } (.vfctl 0) 0xB00 48 (77 * 2 ^ 64) fun t => { t with host := some 0 }
    (ev .containerLoad 5 s (fun t => (t.fn 0).load == some (5, s.nextLaunch)) &&
      ev .containerLoad 5 (s.updFn 0 fun f => { f with load := some (4, 0) }) (fun t => (t.fn 0).load == some (4, 0)) &&
      ev .containerLoad 5 { s with bootStage := 3 } (fun t => (t.fn 0).load == none) &&
      ev .containerLoad 5 (s.updTxn 5 fun t => { t with host := none }) (fun t => ended t 3 0) && !(s.ctx 77).live &&
      ev .loadComplete 0 (s.updFn 0 fun f => { f with load := some (5, 0) }) (fun t => ended t 0 1 && (t.fn 0).load == none && t.made == s.made) &&
      (let s := ({ s with launches := [(2, { fn := 0, patch := some 9 })] } : State).updFn 0 fun f => { f with load := some (5, 3) }
       s.patchBefore 0 3 && ev .loadComplete 0 s (fun t => (t.fn 0).load == some (5, 3)))) = true := by decide +kernel

/-! ### Slices, the tick, migration (R327 to R332) -/

/-- Context 1 has function 0's tiles, in phase `ph`; slices of 1 µs unless given. -/
def sliced (ph : SlicePh := .run) (slice : Nat := 1) (s : State := handling) : State :=
  s.updFn 0 fun f => { f with cur := 1, phase := ph, recd := { f.recd with slice := slice } }

/-- No activation runs. -/
def quiet (s : State) : State := { s with threads := [] }

/-- Context 3 has a message at the head of the press core's channel 4. -/
def otherWork (s : State) : State :=
  let s := s.setCtx 3 { live := true, priv := 1, hbase := 22, htsize := 16, htent := 1, hlog := 10 }
  let s := s.setHent 3 22 (s.hent 1 22)
  s.setChan (16 * 2048 + 4) { onchip := [{ msgTo 3 with ctx := 3 }] }

def endsAs (why : Nat) (t : State) : Bool := decide ((t.fn 0).phase = .ending why [] [] []) && (t.fn 0).tick == 1

/-- witness: SliceEnds; 1 µs is 3000 cycles; a yield at level 1 and one where the slice ends already. -/
theorem test_slice_end : ((sliced).rotates 0 && ev .sliceEnd 0 { sliced with now := 3000 } (endsAs 0) &&
    ev .sliceEnd 0 { sliced with now := 2999 } (fun t => t.fn 0 == sliced.fn 0) && ev .sliceIdle 0 { sliced with now := 3000 } (fun t => t.fn 0 == sliced.fn 0)) = true := by
  decide +kernel
theorem test_slice_idle : let s := otherWork (quiet (sliced .run 0))
    (s.rotates 0 && !s.hasWork 0 1 && s.rotation 0 == [1, 3] && s.hasWork 0 3 && ev .sliceIdle 0 s (endsAs 2) &&
      ev .sliceIdle 0 (otherWork (sliced .run 0)) (fun t => decide ((t.fn 0).phase = .run))) = true := by decide +kernel
theorem test_slice_yield : let s (p : Nat) (ph : SlicePh) := running (sliced ph 1 (gs 0x100 0 p)) (.cwr h0 0x47 (.g 5))
    let cur (s : State) (c g : Nat) := (s.setCtx c { live := true, govern := g }).updFn 0 fun f => { f with cur := c }
    ((s 1 .run).nextCrWrite 16384).any (fun e => e.1 == 0x47 && e.2.1 == 0x100 && e.2.2.priv == 1) ∧ ev .sliceYield 16384 (cur (s 1 .run) 7 1) (endsAs 1) ∧
      ev .sliceYield 16384 (cur (s 1 .run) 7 3) (fun t => decide ((t.fn 0).phase = .run) && (t.fn 0).tick == 0 && t.t.pc == 12) ∧ ev .sliceYield 16384 (s 1 .run) (endsAs 1) ∧
      ev .sliceYield 16384 (s 2 (.ending 0 [] [0] [])) (fun t => decide ((t.fn 0).phase = .ending 0 [] [0] [])) := by decide +kernel

/-- Handler 3 has fired on the press core with save routine 3 paired with restore routine 3. -/
def fired (ph : SlicePh) (save restore : List Nat := []) : State :=
  (quiet (sliced ph)).updCore 2048 fun k => { k with fired := [(3, 3)], save := save, restore := restore }

def routineRuns (t : State) : Bool :=
  let x := t.thread 16384
  decide (x.stat = .running) && x.routine && x.ctx == 1 && x.hidx == 3 && x.rdG 1 == 0 && x.eff == 7

/-- witness: Routines. -/
theorem test_routines : (ev .saveRoutines 0 (fired .run) (fun t => t.threads == []) && (fired (.ending 0 [] [] [])).diesOf 0 == [0] &&
    (sliced (.ending 0 [] [] [])).busyOn 1 (· == 0) == [16384] && ev .saveRoutines 0 (sliced (.ending 0 [] [] [])) (fun t => t.core 2048 == sliced.core 2048) &&
    (fired (.ending 0 [] [] [])).busyOn 1 (· == 0) == [] &&
    ev .saveRoutines 0 (fired (.ending 0 [] [] [])) (fun t => routineRuns t && decide ((t.fn 0).phase = .ending 0 [0] [] []) && tget [] (t.ctx 1).restores 2048 == [3]) &&
    ev .saveRoutines 0 (fired (.ending 0 [0] [] []) [3]) routineRuns && ev .restoreRoutines 0 (fired .run [] [3]) routineRuns &&
    ev .restoreRoutines 0 (fired (.ending 0 [] [] []) [] [3]) (fun t => t.threads == [])) = true := by decide +kernel

/-- Function 0 holds quarto 0, or quartos 0 and 4 of two dies. -/
def onDies (two : Bool) (ph : SlicePh) (f : State → State := quiet) : State :=
  f ((sliced ph).updFn 0 fun f => { f with recd := { f.recd with quartos := if two then 0x11 else 1 }, misscnt := 0 })

def switchedTo (c : Nat) (t : State) : Bool := decide ((t.fn 0).phase = .run) && (t.fn 0).cur == c && (t.fn 0).misscnt == 0 && (t.fn 0).sliceStart == t.now

/-- witness: Ticks, a die's save, alone and as one of two. -/
theorem test_context_save : ((onDies false (.ending 0 [0] [] [])).busyOn 1 (· == 0) == [] && ((onDies false (.ending 0 [0] [] [])).coresOn 0 0).length == 24 &&
    ev .contextSave 0 (onDies false (.ending 0 [0] [] [])) (switchedTo 1) && ev .contextSave 0 (onDies false (.ending 0 [0] [] []) id) (fun t => decide ((t.fn 0).phase = .ending 0 [0] [] [])) &&
    (onDies true (.ending 0 [0] [] [])).diesOf 0 == [0, 1] &&
    ev .contextSave 0 (onDies true (.ending 0 [0] [] []) fun s => quiet (s.poke (padAddr 3 100) [7])) (fun t => decide ((t.fn 0).phase = .ending 0 [0] [0] []) &&
      (tget {} (t.ctx 1).saved 3).cells == [(padAddr 3 100, 7)])) = true := by decide +kernel

/-- witness: Ticks, READY, commit and the deadline of 50 µs. -/
theorem test_ticks : (ev .tickReady 0 (onDies true (.ending 0 [0] [0] [])) (fun t => decide ((t.fn 0).phase = .ending 0 [0] [0] [0])) &&
    ev .tickReady 0 (onDies true (.ending 0 [0] [0] [1])) (switchedTo 1) &&
    ev .tickReady 0 { onDies true (.ending 0 [0] [0] [1]) with now := 150001 } (fun t => decide ((t.fn 0).phase = .ending 0 [0] [0] [1])) &&
    ev .tickDeadline 0 { onDies true (.ending 0 [0] [0] []) with now := 149999 } (fun t => decide ((t.fn 0).phase = .ending 0 [0] [0] [])) &&
    ev .tickDeadline 0 { onDies true (.ending 0 [0] [0] []) with now := 150000 } (fun t => decide ((t.fn 0).phase = .run) && (t.fn 0).misscnt == 1) &&
    ev .tickDeadline 0 { onDies true (.ending 0 [] [] []) (fun s => s.updFn 0 fun f => { f with misscnt := 1 }) with now := 150000 } (fun t =>
      switchedTo 1 t && decide ((t.thread 16384).stat = .free))) = true := by decide +kernel

/-- The host's write of v to STATE of function 0, which is in state st. -/
def migrating (v st : Nat) (f : Migr → Migr := id) : State :=
  (writing base (.vfmigrate 0) 0 8 v fun t => { t with host := some 0 }).updFn 0 fun x => { x with migr := f { st := st } }

def isSt (n : Nat) (t : State) : Bool := (t.fn 0).migr.st == n && ended t 0 8
def isBad (n : Nat) (t : State) : Bool := isSt n t && (t.fn 0).migr.err == 1

/-- witness: MigrateStates. -/
theorem test_migrate_states : ((migrating 1 0).migrWrite 5 == some (0, 1) && ev .migratePrecopy 5 (migrating 1 0) (isSt 1) && ev .migratePrecopy 5 (migrating 1 3) (isBad 3) &&
    ev .migrateCancel 5 (migrating 0 1) (isSt 0) && ev .migrateStop 5 (migrating 2 1) (fun t => isSt 2 t && (t.fn 0).migr.stopAt == 300000 && decide ((t.fn 0).phase = .ending 3 [] [] [])) &&
    ev .migrateStop 5 (migrating 2 0) (isBad 0) && ev .migrateAbort 5 (migrating 0 3) (fun t => isSt 0 t && (t.fn 0).cur == 1) &&
    ev .migrateResuming 5 (migrating 4 0) (isSt 4) && ev .migrateResuming 5 (migrating 4 1) (isBad 1) &&
    ev .migrateCommit 5 (migrating 0 4) (fun t => isSt 7 t && (t.fn 0).migr.err == 2) &&
    ev .migrateCommit 5 (migrating 0 4 fun m => { m with recs := [(8, 0, [])] }) (isSt 0) && ev .migrateCommit 5 base (fun t => t.fn 0 == base.fn 0)) = true := by
  decide +kernel

/-- witness: MigrateStates, the end of STOPPING: by itself, and after 100 µs. -/
theorem test_migrate_stopped : let s := (quiet (migrating 0 2)).updFn 0 fun f => { f with phase := .ending 3 [0] [0] [] }
    let u := { (migrating 0 2 fun m => { m with stopAt := 9 }) with now := 9 }
    (s.stopDone 0 && ev .migrateStopped 0 s (fun t => (t.fn 0).migr.st == 3) && !u.stopDone 0 && ev .migrateStopped 0 u (fun t => (t.fn 0).migr.st == 2) &&
      ev .migrateStopTimeout 0 u (fun t => (t.fn 0).migr.st == 3 && decide ((t.thread 16384).stat = .free)) &&
      ev .migrateStopTimeout 0 { u with now := 8 } (fun t => (t.fn 0).migr.st == 2)) = true := by decide +kernel

/-- An access of the data window in state st. -/
def window (st op off n : Nat) (d : List Byte := []) (f : Migr → Migr := id) (host : Option Nat := some 0) : State :=
  (base.setTxn 5 { op := op, ctl := some (.vfmigrate 0), off := off, arg := n, data := d, host := host }).updFn 0 fun x => { x with migr := f { st := st } }

/-- witness: MigrateWindow, but for the PAGE record. -/
theorem test_migrate_window : (ev .migrateWindowAdvance 5 (window 0 4 8 8 [3, 0, 0, 0, 0, 0, 0, 0]) (fun t => (t.fn 0).migr.wpos == 3) &&
    ev .migrateWindowRead 5 (window 0 3 0x100000 2 [] id none) (fun t => ended t 3 0) &&
    ev .migrateWindowRead 5 (window 1 3 0x100001 2 [] fun m => { m with image := [7, 8, 9] }) (fun t => (t.txn 5).res.any fun r => r.data == [8, 9]) &&
    ev .migrateWindowWrite 5 (window 1 4 0x100002 1 [9]) (fun t => ended t 3 0) &&
    ev .migrateWindowWrite 5 (window 4 4 0x100002 1 [9] fun m => { m with image := [5] }) (fun t => (t.fn 0).migr.image == [5, 0, 9])) = true := by decide +kernel

/-- witness: MigrateWindow, the first dirty unit of the guest. -/
theorem witness_page_record : ((window 1 3 0x100000 16).nextDirty 0 0 == some 0) = true := by decide +kernel

/-! ### Groups, links, mull exchanges (R276 to R288, R295, R298, R299) -/

/-- A configuration of one member at switch 0, whose root has child 0 and result port 0, a timeout of 2 µs and OP ADD on I32. -/
def oneMember (rbuf : Nat := 512) : List Byte :=
  (cfgOf [(48, 1), (32, 1), (64, rbuf), (112, 3), (96, 4), (640, 2048), (128, 2 ^ 127 + 31 * 2 ^ 122 + 2 ^ 92 + 2 ^ 64 + 2 * 2 ^ 16)]).take 592

/-- Context 1 writes it over group 7. -/
def configuring (priv : Nat) (d : List Byte) (g : Group := {}) : State :=
  (writing (mapped priv) (.group 7) 0 592 0 fun t => { t with data := d }).setGroup 7 g

/-- witness: GroupConfigs: a good one, a user's, one under a live window and one whose RBUF is not a multiple of 256. -/
theorem test_group_config : ((mapped 1).groupOk 1 { cfg := oneMember } && ev .groupConfig 5 (configuring 1 oneMember) (fun t => ended t 0 592 && (t.group 7).cfg == oneMember) &&
    ev .groupConfig 5 (configuring 0 oneMember) (fun t => ended t 3 0 && t.group 7 == {}) && ev .groupConfig 5 (configuring 2 oneMember) (fun t => ended t 3 0) &&
    ev .groupConfig 5 ((configuring 1 oneMember).updTxn 5 fun t => { t with arg := 584 }) (fun t => ended t 13 0 && t.group 7 == {}) &&
    ev .groupConfig 5 (configuring 1 oneMember { windows := [{ w := 1 }] }) (fun t => ended t 12 0 && (t.group 7).cfg == []) &&
    (mapped 1).groupOk 1 { cfg := oneMember 513 } == false && ev .groupConfig 5 (configuring 1 (oneMember 513)) (fun t => ended t 13 0 && t.group 7 == {})) = true := by
  decide +kernel

/-- The push of core 2048: elements 5 to 8 in I32 order. -/
def pushed : Push := { grp := 7, seq := 9, body := { data := BitVec.ofNat 2048 (5 + 6 * 2 ^ 32 + 7 * 2 ^ 64 + 8 * 2 ^ 96), senders := [{ ctx := 1, core := 2048, lword := 2048 }] }, leaf := true }

/-- Group 7 with a window of one sequence from 9, and the push on its way. -/
def pushing (p : Push := pushed) (slots : List Slot := []) (win : List Window := [{ base := 9, w := 1, ctx := 1 }]) : State :=
  { (mapped.updFn 0 fun f => { f with cur := 1 }).setGroup 7 { cfg := oneMember, windows := win } with pushes := [p], slots := slots }

/-- One notice of the reason. -/
def noticed (reason : Nat) (t : State) : Bool := t.pushes == [] && t.net.length == 1 &&
  t.net.all fun r => r.hidx == 4 && r.payload == bytesOfNat 16 (9 + reason * 2 ^ 56 + 7 * 2 ^ 64)

/-- witness: ChunkArrivals. -/
theorem test_chunks : let x : Slot := { grp := 7, seq := 9 }
    (ev .chunkArrival 0 (pushing { pushed with body := { pushed.body with senders := [{ ctx := 1, core := 2048, lword := 2049 }] } }) (noticed 2) &&
      ev .chunkArrival 0 (pushing pushed [] []) (noticed 1) && ev .chunkArrival 0 (pushing { pushed with port := 1 }) (noticed 3) &&
      ev .chunkArrival 0 (pushing pushed [{ x with st := 1 }]) (noticed 0) && ev .chunkArrival 0 pushing (fun t => (t.fn 0).errstat.toNat % 65536 == 0x301) 1 &&
      ev .chunkArrival 0 { pushing pushed [{ x with until_ := 6000 }] with now := 6001 } (noticed 0) &&
      ev .chunkArrival 0 (pushing pushed [{ x with arr := [(0, {})] }]) (fun t => t.pushes == [] && t.net == [] && (t.group 7).dups == 1 && t.slots == [{ x with arr := [(0, {})] }]) &&
      ev .chunkArrival 0 (pushing) (fun t => t.pushes == [] && t.net == [] && t.slots == [{ x with arr := [(0, pushed.body)], until_ := 6000 }])) = true := by
  decide +kernel

/-- witness: ChunkArrivals, a second push of one core, which waits for the first. -/
theorem test_chunk_waits : let s : State := { pushing with pushes := [pushed, { pushed with chunk := 1 }] }
    (s.pushWaits 1 { pushed with chunk := 1 } && !s.pushWaits 0 pushed && ev .chunkArrival 1 s (fun t => t.pushes == s.pushes && t.net == [])) = true := by decide +kernel

/-- witness: Combines; three children's sums in INT32, 1.0 + 2^-9 of BF16, which rounds to even, and a signed maximum. -/
theorem test_combine : (swReduce 0 0 [5, 0xFFFFFFFF, 7]).1 == 11 ∧ (swReduce 0 3 [0x3F80, 0x3B00]).1 == 0x3F80 ∧ (swReduce 0 3 [0x3F80, 0x3B00]).2.nx ∧
    (swReduce 1 0 [5, 0xFFFFFFFF]).1 == 5 ∧ (swReduce 5 1 [6, 3, 8]).1 == 13 := by decide +kernel

/-- witness: Merges, R283's example: (3, 2, 4, 8) with (1, 4, 2, 6) gives (3, 3, 4.5, 9.5), the empty triple changes nothing,
and +∞ gives NaN. -/
theorem test_merge : let t (m l a b : Nat) : List Nat := [m, l, a, b] ++ List.replicate 60 0
    let z := smrg (t 0x40400000 0x40000000 0x40800000 0x41000000) (t 0x3F800000 0x40800000 0x40000000 0x40C00000)
    (z.1 == t 0x40400000 0x40400000 0x40900000 0x41180000 && (smrg z.1 (t 0xFF800000 0 0 0)).1 == z.1 &&
      (smrg z.1 (t 0x7F800000 0 0 0)).1 == List.replicate 64 nan32 && (smrg (t 0xFF800000 0 0 0) (t 0xFF800000 0 0 0)).1 == t 0xFF800000 0 0 0 &&
      exp2Rne 0xC0000000 == (125 * 2 ^ 23, {})) = true := by decide +kernel

/-- Slot 0 of group 7, with the child's chunk or without. -/
def slotted (full : Bool) (f : Slot → Slot := id) (up : Bool := false) : State :=
  let s := pushing pushed [f { grp := 7, seq := 9, arr := if full then [(0, pushed.body)] else [], until_ := 6000 }]
  let s := { s with pushes := [], now := 6000 }
  if up then s.setGroup 7 { (s.group 7) with cfg := cfgOf [(48, 1), (128, 2 ^ 127 + 8 * 2 ^ 122 + 2 ^ 92)] } else s

/-- witness: SlotEmissions, at the root of a group whose list names one core twice. -/
theorem test_slot_members : let s := slotted true
    let s := s.setGroup 7 { (s.group 7) with cfg := (cfgOf [(48, 1), (32, 2), (64, 512), (112, 3), (640, 2048), (656, 2048), (128, 2 ^ 127 + 31 * 2 ^ 122 + 2 ^ 92 + 2 ^ 64)]).take 592 }
    ((s.group 7).members == [2048, 2048] && ev .slotEmit 0 s (fun t => t.results.map (fun r => (r.member, r.rbuf, r.rhidx)) == [(2048, 512, 3)])) = true := by decide +kernel

/-- witness: SlotEmissions, upward to switch 1 and at the root. -/
theorem test_slots : (ev .slotEmit 0 (slotted true) (fun t => t.results.map (fun r => (r.member, r.body.data == pushed.body.data)) == [(2048, true)] && t.pushes == []) &&
    ev .slotEmit 0 (slotted true id true) (fun t => t.results == [] && t.pushes.map (fun p => (p.sw, p.port, p.leaf)) == [(1, 10, false)] && t.slots.map (·.st) == [1]) &&
    (slotted false).missing { grp := 7, seq := 9 } == 1 && ev .slotEmit 0 (slotted false) (fun t => t.slots == (slotted false).slots) &&
    ev .slotTimeout 0 (slotted false) (fun t => t.slots.map (·.st) == [2] && t.results.map (fun r => r.body.part) == [some (0, 1)]) &&
    ev .slotTimeout 0 (slotted true) (fun t => t.slots == (slotted true).slots) &&
    ev .slotTimeout 0 { slotted false with now := 5999 } (fun t => t.slots == (slotted false).slots) &&
    ev .slotMarkerExpiry 0 (slotted false fun x => { x with st := 2 }) (fun t => t.slots.map (·.st) == [3]) &&
    ev .slotMarkerExpiry 0 (slotted false) (fun t => t.slots == (slotted false).slots)) = true := by decide +kernel

/-- A result of group 7 for core 2048, whose pads have `lim` × 64 KiB. -/
def resulting (member : Nat) (lim : Nat := 32) : State :=
  let r : Result := { grp := 7, seq := 9, body := pushed.body, member := member, ctx := 1, party := 9, rbuf := 512, rhidx := 3 }
  { (pushing.updFn 0 fun f => { f with padlimit := w64 lim }) with pushes := [], results := [r] }

def resulted (wref v : Nat) (t : State) : Bool := t.results == [] && t.net.length == 1 && t.peekN (padAddr 0 512) 4 == v &&
  t.net.all fun r => r.hidx == 3 && bits (natOfBytes r.payload) 68 2 == wref

/-- witness: ResultDeliveries; a member unmapped, a pad with no bytes, and the data at RBUF. -/
theorem test_result : ((resulting 2049).mapCore 1 2049 == none && ev .resultDelivery 0 (resulting 2049) (fun t => t.results == [] && t.net == []) &&
    (resulting 2048).mapCore 1 2048 == some 2048 && (resulting 2048).liveCtx 0 == 1 && Memory.wf (resulting 2048).mem &&
    (resulting 2048 0).padSize 1 0 == 0 && ev .resultDelivery 0 (resulting 2048 0) (resulted 1 0) &&
    ((resulting 2048).race 9 aWrite (linesOf (padNode 0) 512 256)).isNone && ev .resultDelivery 0 (resulting 2048) (resulted 0 5)) = true := by decide +kernel

/-- witness: ResultDeliveries, a result behind an earlier one for the same die. -/
theorem test_result_waits : let s := resulting 2048
    let u : State := { s with results := s.results ++ s.results.map fun r => { r with flit := 3 } }
    ((u.results.take 1).any (fun x => (u.resultWay x).isSome && u.resultWay x == u.resultWay (u.results.getD 1 {})) &&
      ev .resultDelivery 1 u (fun t => t.results.length == 2 && t.net == []) && ev .resultDelivery 0 u (fun t => t.results.length == 1)) = true := by decide +kernel

/-- witness: ResultDeliveries, a result that races with a write of line 512 by party 3. -/
theorem test_result_race : let s := (resulting 2048).touchAll 3 0 aWrite (linesOf (padNode 0) 512 64)
    ((s.race 9 aWrite (linesOf (padNode 0) 512 256)).isSome && ev .resultDelivery 0 s (resulted 2 0)) = true := by decide +kernel

/-- Link 5, from die 1 to die 0, which expects 3 and holds 3 and 4; function 0 is on dies 0 and 1, or on die 0 alone. -/
def linking (resends : Nat := 0) (quartos : Nat := 0x11) : State :=
  (base.updFn 0 fun f => { f with recd := { f.recd with quartos := quartos } }).setLink 5 { nextSeq := 5, expect := 3, held := [3, 4], resends := resends }

/-- witness: Links; 163 would lead from switch 0 to itself, and 240 is past the last external port. -/
theorem test_links : (isLink 5 && ev .linkFlit 5 linking (fun t => (t.link 5).expect == 4 && (t.link 5).held == [4]) 3 &&
    ev .linkFlit 5 linking (fun t => t.link 5 == linking.link 5) 3 1 && ev .linkFlit 5 linking (fun t => (t.link 5).held == [3, 4, 5] && (t.link 5).expect == 3) 5 &&
    ev .linkResend 5 linking (fun t => (t.link 5).expect == 5 && (t.link 5).held == []) && ev .linkResend 5 (linking 6) (fun t => (t.link 5).resends == 7) 0 1 &&
    [163, 167, 171, 175, 240].all (fun k => !isLink k) && ev .linkResend 163 (linking.setLink 163 { nextSeq := 1, held := [0], resends := 7 }) (fun t => !(t.link 163).failed) 0 1) = true := by
  decide +kernel

/-- witness: Links, an eighth failed resend: kind 2, the link's number in INFO. -/
theorem test_link_fails : ((linking 7).crosses 0 5 && ev .linkResend 5 (linking 7) (fun t => (t.link 5).failed && (t.fn 0).errstat == 0x50201) 0 1 &&
    ev .linkResend 5 (linking 7 1) (fun t => (t.link 5).failed && (t.fn 0).errstat == 0) 0 1) = true := by decide +kernel

/-- Region 3 on dies 0 and 1 with CADENCE 1, that is 192 cycles; die 0's stripe 0 holds 5 and −7 with weight 3. -/
def exchanging (o : Out := {}) (w : Nat := 3) : State :=
  let r : Region := { live := true, members := [0, 1], stripes := 2, cadence := 1, reps := [(0, { s := [(0, 5), (3, -7)], w := w })], outs := tset {} [] 0 o }
  { base.setRegion 3 r with now := 192 }

def halfOut : Out := { valid := true, seq := 4, hw := 1, hs := [(0, 2), (3, -4)] }

/-- witness: MullExchanges; 5 halves to 2, −7 to −4. -/
theorem test_exchange_send : (((exchanging).region 3).linked 0 0 && ev .mullExchangeSend 3 { exchanging { period := 1 } with now := 191 } (fun t => t.mullX == []) &&
    ev .mullExchangeSend 3 (exchanging halfOut) (fun t => t.mullX == [] && ((t.region 3).out 0 0).valid) && ev .mullExchangeSend 3 (exchanging {} 1) (fun t =>
      t.mullX == [] && ((t.region 3).out 0 0).cursor == 1) &&
    ev .mullExchangeSend 3 (exchanging) (fun t => t.mullX == [(3, 0, 0)] && (t.region 3).out 0 0 == { halfOut with seq := 1, sendseq := 1, cursor := 1, slotAt := 192, period := 1 } &&
      ((t.region 3).rep 0 0).s == [(0, 3), (3, -3)] && ((t.region 3).rep 0 0).w == 2)) = true := by decide +kernel

/-- witness: MullExchanges, die 1 adds the half once; the acknowledgement. -/
theorem test_exchange_apply : let s : State := { exchanging halfOut with mullX := [(3, 0, 0)] }
    (ev .mullExchangeApply 3 (s.updRegion 3 fun r => r.setOut 1 1 { applied := 4 }) (fun t => t.mullX == [] && t.mullAcks == [(3, 0, 0)] && ((t.region 3).rep 1 0).s == []) &&
      ev .mullAck 3 { s with mullAcks := [(3, 0, 0)] } (fun t => t.mullAcks == [] && ((t.region 3).out 0 0).valid == false) &&
      ev .mullExchangeSend 3 (exchanging halfOut) (fun t => t.mullX == [(3, 0, 0)] && t.mull == (exchanging halfOut).mull) 0 1 &&
      ev .mullExchangeApply 3 s (fun t => t.mullX == [] && t.mullAcks == [] && t.mull == s.mull) 0 1 &&
      ev .mullAck 3 { s with mullAcks := [(3, 0, 0)] } (fun t => t.mullAcks == [] && ((t.region 3).out 0 0).valid) 0 1 &&
      ev .mullAck 3 { s with mullAcks := [(3, 0, 0)] } (fun t => (t.region 3).out 0 0 == { halfOut with valid := false }) &&
      ev .mullExchangeApply 3 exchanging (fun t => t.mullAcks == []) && ev .mullAck 3 (exchanging halfOut) (fun t => ((t.region 3).out 0 0).valid)) = true := by decide +kernel
/-- witness: MullExchanges; of 0 and the halves 2 and −4 with weight 1 the spread is 4.0. -/
theorem test_exchange_half : let s : State := { exchanging halfOut with mullX := [(3, 0, 0)] }
    ev .mullExchangeApply 3 s (fun t => ((t.region 3).rep 1 0).s == [(0, 2), (3, -4)] && ((t.region 3).out 1 1).applied == 4 &&
      ((t.region 3).rep 1 0).spread == 0x40800000) = true := by decide +kernel

/-! ### Debug, the test access port, the host, boot (R319, R336 to R350, R355, R356) -/

/-- Die 0's unit traces context 1 with samples of period 2^4 into a ring of 4 records behind handle 30. -/
def tracing (f : Trace → Trace := id) (s : State := obj mapped 30 30 1024 528) : State :=
  s.setTrace 0 (f { ctl := w64 (2 ^ 6 + 4 * 2 ^ 43 + 2 ^ 48), buf := w64 (4 + 30 * 2 ^ 44), bufCtx := 1 })

/-- witness: Samples: thread 0 is busy, so from thread 3 on it is the sixth in turn. -/
theorem test_samples : let s (now : Nat) := { tracing (fun u => { u with rr := [(2048, 3)] }) with now := now }
    (ev .traceSample 2048 (s 16) (fun t => tget 0 (t.traceU 0).rr 2048 == 1 && (t.traceU 0).wrptr == 1) &&
      ev .traceSample 2048 (s 17) (fun t => (t.traceU 0).wrptr == 0) && ev .traceSample 2080 (s 16) (fun t => (t.traceU 0).wrptr == 0)) = true := by decide +kernel

/-- A write of v at `off` of die 0's unit by context 1, a supervisor or a user. -/
def telling (off v : Nat) (priv : Nat := 1) (f : Trace → Trace := id) : State :=
  writing (tracing f (obj (mapped priv) 30 30 1024 528)) (.trace 0) off 8 v

/-- witness: Stops. -/
theorem test_stops : ((telling 0x28 (2 + 2 ^ 48)).mayStop ((telling 0x28 (2 + 2 ^ 48)).txn 5) &&
    ev .traceStopRequest 5 (telling 0x28 (2 + 2 ^ 48)) (fun t => ended t 0 8 && (t.traceU 0).stopReq && (t.traceU 0).stopCtx == 1) &&
    ev .traceStopRequest 5 (telling 0x28 (2 + 2 ^ 48) 0) (fun t => ended t 3 0 && !(t.traceU 0).stopReq) &&
    ev .traceResume 5 (telling 0x28 4 1 fun u => { u with stopped := true }) (fun t => ended t 0 8 && !(t.traceU 0).stopped) &&
    ev .traceResume 5 (telling 0x28 4 0 fun u => { u with stopped := true }) (fun t => ended t 3 0 && (t.traceU 0).stopped) &&
    (let s := tracing fun u => { u with stopReq := true, stopCtx := 1 }
     let two := tracing fun u => { u with stopped := true, stopCtx := 3, others := [(7, true), (1, false)] }
     ev .stopComplete 0 two (fun t => t == { two with arg := { a := 0 } }) &&
     ev .stopComplete 0 (quiet two) (fun t => (t.traceU 0).others == [(7, true), (1, true)] && (t.traceU 0).stopCtx == 3) &&
     ev .traceStopRequest 5 (telling 0x28 (2 + 2 ^ 48) 1 fun u => { u with stopped := true, stopCtx := 3 }) (fun t => (t.traceU 0).holdsStop 1 && (t.traceU 0).holdsStop 3) &&
     ev .traceResume 5 (telling 0x28 (4 + 2 ^ 48) 1 fun u => { u with stopped := true, stopCtx := 3, others := [(1, true)] }) (fun t =>
       (t.traceU 0).holdsStop 3 && !(t.traceU 0).holdsStop 1) &&
     ev .stopComplete 0 s (fun t => !(t.traceU 0).stopped) && ev .stopComplete 0 (quiet s) (fun t => (t.traceU 0).stopped && !(t.traceU 0).stopReq))) = true := by
  decide +kernel

/-- Slot 1 of the object behind handle 30 holds a message to handler 3 of core 2048; context 1 is stopped. -/
def replaying (priv : Nat := 1) (len : Nat := 2) : State :=
  let s := put (obj (handling.updCtx 1 fun c => { c with priv := priv }) 30 30 1024 528) 30 256 24 ((mkHdr 5 false false len 3 2048 2048 7).toNat + 99 * 2 ^ 128)
  writing (tracing (fun u => { u with stopped := true, stopCtx := 1 }) s) (.trace 0) 0x48 8 (1 + 2 ^ 16 + 30 * 2 ^ 44)

/-- witness: Replays. -/
theorem test_replay : ((replaying).traceWord 5 0x48).any (fun e => (replaying).mayStop e.2.1) ∧ good ((replaying).places 1 (.made 30) false false (pieces 256 256)) ∧
    ev .traceReplay 5 (replaying) (fun t => ended t 0 8 && (t.chan (16 * 2048 + 4)).onchip.map (fun r => (r.isMsg, r.ctx, r.payload)) == [(true, 1, bytesOfNat 8 99)]) ∧
    ev .traceReplay 5 (replaying 0) (fun t => ended t 3 0 && t.chans == []) := by decide +kernel

/-- witness: Tokens, VERIFY. -/
theorem test_token_verify : (ev .tokenVerify 5 (telling 0xFF0 1) (fun t => (t.traceU 0).verifying == some 5 && (t.txn 5).res.isNone) &&
    ev .tokenVerify 5 (telling 0xFF0 1 0) (fun t => ended t 3 0) && ev .tokenVerify 5 (telling 0xFF0 2) (fun t => ended t 3 0) &&
    ev .tokenVerify 5 (telling 0xFF0 1 1 fun u => { u with verifying := some 4 }) (fun t => ended t 3 0 && (t.traceU 0).verifying == some 4)) = true := by decide +kernel

/-- witness: Tokens, the end of a verification: a token with reserved bit 3 set is malformed. -/
theorem test_verify_done : let s := telling 0xFF0 1 1 fun u => { u with verifying := some 5, token := [(0, 8)] }
    (s.txn 5).ctl.isSome ∧ ev .verifyDone 0 s (fun t => (t.traceU 0).verifying == none && t.fresh == s.fresh + 1 && ended t 0 1 && t.unlocked == 0) ∧
      ev .verifyDone 0 (telling 0xFF0 1) (fun t => t.fresh == s.fresh) := by decide +kernel

/-- witness: Tokens, the delay object of the press core of tile 0. -/
theorem test_delay_clear : let s (priv v : Nat) := { writing (base priv) (.delay 0 0 2) 2112 8 v with delays := [(2048 * 131072 + 1, {}), (2080 * 131072 + 1, {})] }
    (ev .delayClear 5 (s 1 1) (fun t => ended t 0 8 && t.delays.map (·.1) == [2080 * 131072 + 1]) && ev .delayClear 5 (s 0 1) (fun t => ended t 3 0 && t.delays.length == 2) &&
      ev .delayClear 5 (s 1 2) (fun t => ended t 0 8 && t.delays.length == 2)) = true := by decide +kernel

/-- witness: Ports; the forecast of a cluster with 8 records held, and its gate from 4 µs = 12,000 cycles on. -/
theorem test_ports : (ev .freeze 0 base (fun t => t.frozen) && ev .tapExtest 9 base (fun t => t.tap.data == 9) &&
    ({ base with frozen := true } : State).feature 2 && ev .freezeread 0 { base with frozen := true } (fun t => decide (t.tap.ir = .freezeread)) &&
    ev .freezeread 0 base (fun t => t.tap == base.tap) &&
    ev .forecastUpdate 0 (handling.setChan (16 * 2048 + 4) { onchip := List.replicate 8 (msgTo 3) }) (fun t => tget 0 t.afr 0 == 2 && t.gatesNow == [] && t.gateNext.map (·.1) == [12000]) &&
    handling.ownerOf 0 == some 0) = true := by decide +kernel

/-- A request of function 0 with `w` as its first 32 bytes, complete in k slots; boot is done. -/
def requesting (w : Nat) (k : Nat := 1) (st : BitVec 8 := 5) (f : Fn → Fn := id) : State :=
  { (base.updFn 0 fun x => f { x with reqtail := BitVec.ofNat 32 k, req := [(0, bytesOfNat 64 w)] }) with bootStage := st }

/-- STAT of handle 1, generation 1, TAG 77. -/
def statReq : Nat := 7 + 2 ^ 8 + 77 * 2 ^ 16 + 2 ^ 64 + 2 ^ 84

/-- One response of this status, and no transaction. -/
def responds (op st : Nat) (t : State) : Bool := (t.fn 0).rsptail == 1 && (t.fn 0).reqhead == 1 && t.txns == [] &&
  tget [] (t.fn 0).rsp 0 == ({ status := st } : TxRes).response op 77

/-- witness: HostRings, the host's writes. -/
theorem test_host_rings : (let s : State := { base with bootStage := 5 }
    let w (tail : Nat) (d : List Byte) := nxt (exec .reqtailWrite { s with arg := { a := 0, b := tail, data := d } })
    w 65 [] (fun t => (t.fn 0).errstat == 2 && (t.fn 0).reqtail == 0) && w 1 (List.replicate 64 7) (fun t => (t.fn 0).reqtail == 1 && tget [] (t.fn 0).req 0 == List.replicate 64 7) &&
      ev .rspheadWrite 0 s (fun t => (t.fn 0).rsphead == 9) 9) = true := by decide +kernel

/-- witness: HostRings, a request that is incomplete, a bad header, one in FAULTED, an ARG out of range, and a good one. -/
theorem test_host_requests : (ev .hostRequestTake 0 (requesting (statReq + 2 ^ 8)) (fun t => (t.fn 0).reqhead == 0) &&
    ev .hostRequestTake 0 (requesting statReq 1 3) (fun t => (t.fn 0).reqhead == 0) &&
    badHeader (statReq + 2 ^ 50) && ev .hostRequestTake 0 (requesting (statReq + 2 ^ 50)) (responds 7 16) &&
    ev .hostRequestTake 0 (requesting statReq 1 5 fun f => { f with errstat := 1 }) (responds 7 5) &&
    !badHeader statReq && badRequest (statReq + 2 ^ 32) [] && ev .hostRequestTake 0 (requesting (statReq + 2 ^ 32)) (responds 7 16) &&
    !badRequest statReq [] && ev .hostRequestTake 0 (requesting statReq) (fun t => (t.txn base.nextTxn).op == 7 && (t.txn base.nextTxn).ctx == 65536 &&
      (t.txn base.nextTxn).rtag == 77 && (t.txn base.nextTxn).ha == (1, 1) && (t.fn 0).reqhead == 1)) = true := by decide +kernel

/-- The host of function 0 maps object 20 (8192 bytes) at window offset 2 MiB through host handle 4. -/
def cxl (rights : BitVec 8 := 0xFF) : State :=
  (mapped.setHent 65536 4 { state := 2, gen := 1, node := .made 20, rights := rights, grant := 0xFF, size := 8192 }).updFn 0 fun f =>
    { f with hostParty := 9, cxlmap := [(0, BitVec.ofNat 128 (4 + 2 ^ 20 + 2 ^ 64))] }

/-- An access of the window at `a`. -/
def cxlAt (i : Instr) (s : State) (a : Nat) (p : State → Bool) : Bool :=
  nxt (exec i { s with arg := { a := 0, b := a, data := List.replicate 64 7 } }) p

/-- witness: HostMemory. -/
theorem test_host_memory : let a := 2 ^ 21 + 4096
    (cxl.cxlLine 0 a false).any (fun e => e.2.1 == 4096) ∧ cxlAt .cxlMemRead cxl (a + 5) (fun t => (t.fn 0).cxlRead.any (fun d => d.take 2 == [0x40, 0x80]) && (t.fn 0).errstat == 0) ∧
      cxlAt .cxlMemRead cxl 64 (fun t => (t.fn 0).cxlRead.isNone && (t.fn 0).errstat == 4) ∧ (cxl.cxlLine 0 a true).any (fun e => e.2.2.map (·.2) == [64]) ∧
      cxlAt .cxlMemWrite cxl a (fun t => cxlAt .cxlMemRead t a fun t => (t.fn 0).cxlRead == some (List.replicate 64 7)) ∧
      cxlAt .cxlMemWrite (cxl 1) a (fun t => (t.fn 0).errstat == 4 && t.mem == cxl.mem) ∧
      ev .mctpMessage 2 { base with bootStage := 5, bootCount := 3 } (fun t => t.mctp.take 8 == [5, 0, 0, 0, 3, 0, 0, 0]) := by decide +kernel

/-- witness: Boot, the stages and the life cycle. -/
theorem test_boot : let s (k : BitVec 8) : State := { base with bootStage := k }
    (ev .moduleReset 0 { base with bootCount := 7, life := .deployed } (fun t => t.threads == [] && t.bootCount == 7 && decide (t.life = .deployed)) &&
      ev .bootStage 0 (s 0) (fun t => t.bootCount == 1) &&
      ev .bootStage 0 (s 1) (fun t => t.bootStage == 0x82 && t.bootDies == 0xFFFFFFFD) 2 && ev .bootStage 0 (s 2) (fun t => t.bootStage == 3) &&
      ev .bootStage 0 (s 0x83) (fun t => t.bootStage == 4) && ev .bootStage 0 (s 4) (fun t => t.bootStage == 5) && ev .bootStage 0 (s 5) (fun t => t.bootStage == 5) &&
      ev .lifeCycleChange 3 base (fun t => decide (t.life = .returned) && t.identityErased) &&
      ev .lifeCycleChange 1 { base with life := .deployed } (fun t => decide (t.life = .deployed) && !t.identityErased)) = true := by decide +kernel

/-- witness: DeviceErrors. -/
theorem test_device_errors : (nxt (exec .deviceError { base with arg := { a := 4, b := 7, data := [0] } }) (fun t => (t.fn 0).errstat == 0x70401 && t.threads == []) &&
    ev .deviceError 2 base (fun t => (t.fn 0).errstat == 0) && ev .correctableError 3 base (fun t => t.corrected == [(3, 1)]) &&
    (base.ctxs.all fun e => decide (e.2.priv ≤ 2)) && ev .functionLevelReset 0 ((base 1).pokeN (padAddr 0 64) 4 9) (fun t =>
      t.ctxs.all (fun e => !e.2.live) && t.peekN (padAddr 0 64) 4 == 0 && (t.fn 0).recd == (base.fn 0).recd)) = true := by decide +kernel

/-! ### Further clauses -/

/-- witness: UnoccupiedRegisters, under a false guard. -/
theorem test_unoccupied : let s := base.updT fun t => t.wrM 3 0
    let h : Head := { h0 with gm := 3 }
    (!s.t.guard h && crOccupied 0x3F == false && decide (0x3F < crLimit s.priv) && decide (s.t.stat = .running) &&
      traps (.crd h 3 0x3F) s 2 2 && traps (.cwr h 0x3F (.g 5)) s 2 1) = true := by decide +kernel

/-- witness: VectorMasks, the other conditions, unsigned and signed. -/
theorem test_vector_conditions : (mres (.vcmp h0 1 1 2 1 (.v 2)) (vs 0x0302 0x0402) 1 [false, true, false] && mres (.vcmp h0 0 3 2 1 (.i (-1))) (vs 0x00FF 0) 1 [true, false] &&
    mres (.vcmp h0 1 3 2 1 (.i 2)) (vs 0x00FF02 0) 1 [true, false, true] && mres (.vcmp h0 1 4 2 1 (.i 2)) (vs 0x00FF02 0) 1 [false, true, false]) = true := by
  decide +kernel

/-- witness: VectorLanes, elements of FP32 and of two bytes. -/
theorem test_vector_lanes_fp : (vres (.vsel h0 10 1 (.v 2) 3) (vs 0xAAAA000000000001 0xBBBB000000000002 0xF) 4 [2, 0xAAAA0000] &&
    vres (.vbcast h0 9 1 2 (.i 1)) (vs 0 0x00078001) 2 [7, 7] && nxt (exec (.vextr h0 9 6 2 (.i 0)) (vs 0 0x00078001)) (fun t => t.t.rdG 6 == 0x8001) &&
    vres (.vins h0 8 1 (.g 5) (.i 1)) (vs 0 0) 2 [0, 3, 0] && vres (.vbcast h0 12 1 2 (.i 1)) (vs 0 0x00078001) 1 [0x80, 0x80]) = true := by decide +kernel

/-- witness: VectorReduce: a quiet NaN compares false, and a signalling one raises the invalid flag. -/
theorem test_vfcmp_flags : (mres (.vfcmp h0 10 0 2 1 (.v 2)) (vs 0x7FC000003F800000 0x7FC000003F800000) 4 [true, false, true] &&
    nxt (exec (.vfcmp h0 10 0 2 1 (.v 2)) (vs 0x7F800001 0)) (fun t => t.t.fpflags == 0x10) &&
    nxt (exec (.vfcmp h0 10 0 2 1 (.v 2)) (vs 0x7FC00000 0)) (fun t => t.t.fpflags == 0)) = true := by decide +kernel

/-- witness: Routines: a routine that waits for a thread, one on a core held by STOP, one whose record is bad, and one that starts. -/
theorem test_routine_turns : let s := fired (.ending 0 [0] [] []) [3]
    let full := { s with threads := (List.range 8).map fun k => (16384 + k, { (s.thread 0) with stat := .running, ctx := 3 }) }
    let bad := s.updCore 2048 fun k => { k with fired := [(99, 3)], save := [99] }
    ((s.recFault 2048 (s.routineRec 2048 1 3)).isNone && (s.freeThread 2048 8).isSome && s.ready 2048 (s.routineRec 2048 1 3) &&
      ev .saveRoutines 0 s (fun t => (t.core 2048).save == [] && routineRuns t) && (full.freeThread 2048 8).isNone &&
      ev .saveRoutines 0 full (fun t => (t.core 2048).save == [3] && t.threads == full.threads) &&
      (bad.recFault 2048 (bad.routineRec 2048 1 99)).isSome && ev .saveRoutines 0 bad (fun t => (t.core 2048).save == [] && t.threads == [] && tget [] (t.ctx 1).restores 2048 == [])) = true := by
  decide +kernel

/-- witness: PostedAccesses: a store of two pieces; one into a counted window of another tile's pad; SEMVs that wait and are gone. -/
theorem test_posted_more : let q : Posted := { party := 9, ctx := 1, core := 2048, node := .made 6, bytes := [7, 8], handle := 3, gen := 1 }
    let two := { q with places := [({ addr := 0x20000002 }, 1), ({ addr := 0x30000000 }, 1)] }
    let v (x : Nat) : SemReq := { pad := 3, sem := 4, amount := x, ctx := 1, handle := 3, gen := 1, party := 9 }
    let w (l : List SemReq) : State := { memS with semvs := l }
    (ev .remoteAccess 0 { memS with posted := [two] } (fun t => t.posted == [] && t.peekN 0x20000002 1 == 7 && t.peekN 0x30000000 1 == 8 && t.peekN 0x20000003 1 == 0) &&
      ev .remoteSemv 1 (w [v 5, v 2]) (fun t => t.semvs.length == 2) && ev .remoteSemv 0 (w [v 5, v 2]) (fun t => t.semvs.length == 1 && t.sem 3 4 == 5) &&
      (memS.hlook 1 3 7).isNone && ev .remoteSemv 0 (w [{ v 5 with gen := 7 }]) (fun t => t.semvs == [] && t.sem 3 4 == 0)) = true := by decide +kernel

/-- witness: StoresWait, FenceFlagPrefetch: a release waits for the activation's NWRITE; a misaligned releasing store to a queue traps. -/
theorem test_fence_waits : let s := memS.setTxn 5 { op := 4, issuer := memS.me, ctx := 1, ha := (1, 1) }
    let q := (memS.setHent 1 8 { state := 2, gen := 1, node := .launch 0 0, rights := 0xFF, grant := 0xFF, size := 4096 }).updT fun t => t.wrB 5 (mintPtr 0xFF 1 8 4096)
    (nxt (exec (.fence h0 2 4) s) (fun t => t == s) && nxt (exec (.fence h0 1 4) s) (fun t => t.t.pc == 12) &&
      traps (.st h0 7 2 0 (.mem ⟨5, 0⟩) (.i 7)) (q.updT fun t => t.wrB 5 { t.rdB 5 with raw := (t.rdB 5).raw + 4 }) 0x14 8) = true := by decide +kernel

/-- witness: SendmPosts, a group that lists one core twice sends one copy. -/
theorem test_sendm_members : let s := (grouped true).setGroup 7 { cfg := cfgOf [(48, 1), (32, 2), (640, 2048), (656, 2048), (128, 2 ^ 127 + 31 * 2 ^ 122 + 2 ^ 92 + 2 ^ 64 + 7 * 2 ^ 32)] }
    (nxt (exec (.sendm h0 0 false 5 (.i 3) none) s) (fun t => t.net.length == 1 && t.t.pc == 12)) = true := by decide +kernel

/-- Context 1 with the names of the root: directory 50 with "a", object 51 of 64 KiB beneath it. -/
def named (op : Nat) (f : Txn → Txn) : State :=
  let s := asking op f
  let s := s.setMade 50 { kind := kDir, grant := 0xFF, tier := 2 }
  let s := s.setMade 51 { kind := kMemo, tier := 2, grant := 0xFF, size := 65536, base := 900 }
  let s := s.setHent 1 10 { state := 2, gen := 1, node := .made 50, rights := 0xFF, grant := 0xFF }
  let s := s.setHent 1 11 { state := 2, gen := 1, node := .made 51, rights := 0xFF, grant := 0xFF, size := 65536, via := some (.made 50, str "a") }
  { s with names := s.names ++ [{ dir := .made 50, name := str "a", node := .made 51, only := none }] }

def res (p : TxRes → Bool) (t : State) : Bool := (t.txn 5).res.any p

/-- witness: NameWalks: a name that is bound, one that is not, no name, and a directory without X. -/
theorem test_walks : let w (name : String) (f : State → State := id) : State := f (named 0 fun t => { t with ha := (10, 1), data := str name })
    let run (s : State) : State := s.txnAct 5
    let noX (s : State) : State := s.setHent 1 10 { (s.hent 1 10) with rights := 1, grant := 1 }
    (res (fun r => r.status == 0 && r.failidx == 1) (run (w "a")) && res (fun r => ((run (w "a")).hent 1 r.handle).node == .made 51 && ((run (w "a")).hent 1 r.handle).state == 1 && r.value.toNat % 256 == 0xFF) (run (w "a")) &&
      res (fun r => r.status == 1 && r.failidx == 0) (run (w "b")) && res (fun r => r.status == 2 && r.failidx == 1) (run (w "a/b")) &&
      res (fun r => r.status == 3) (run (w "a" noX)) &&
      res (fun r => r.status == 4) (run (w "a" fun s => s.setHent 1 10 {})) && !(w "a").txnWaits 5 && (w "a").txnDie 5 == ((w "a").txn 5).die) = true := by decide +kernel

/-- witness: NameEffects: NREAD, NWRITE, NBIND, NUNBIND, NREVOKE, NCREATE and NREMOVE, each with an answer and a refusal. -/
theorem test_name_effects : let n (op h : Nat) (f : Txn → Txn := id) : State := (named op fun t => f { t with ha := (h, 1) }).txnAct 5
    (res (fun r => r.status == 0 && r.value == 4 && r.data == [0, 0, 0, 0]) (n 3 11 fun t => { t with arg := 4 }) &&
      (let u := n 4 11 fun t => { t with arg := 2, off := 8, data := [5, 6] }
       res (fun r => r.status == 0 && r.value == 2) u && oks (u.place 1 (.made 51) 8 false false) fun p => u.peekN p.addr 2 == 0x0605) &&
      res (fun r => r.status == 3) (n 3 10 fun t => { t with arg := 4 }) &&
      (let u := n 5 10 fun t => { t with hb := some (11, 1), arg := 2 * 256 + 3 }
       res (fun r => r.status == 0) u && u.bindsOf 1 == [{ point := .made 50, src := .made 51, shadow := true, rank := 3, bySup := none, grant := 0xFF }] &&
       let v := (u.setTxn 5 { u.txn 5 with op := 6, res := none, hb := none }).txnAct 5
       res (fun r => r.status == 0 && r.value == 1) v && v.bindsOf 1 == []) &&
      res (fun r => r.status == 2) (n 5 11 fun t => { t with hb := some (11, 1), arg := 2 * 256 }) && res (fun r => r.status == 1) (n 6 10) &&
      (let s := (named 8 fun t => { t with ha := (11, 1) }).setHent 1 12 { state := 2, gen := 3, node := .made 51, rights := 1, grant := 1 }
       let u := s.txnAct 5
       res (fun r => r.status == 0 && r.value == 1) u && !(u.hent 1 12).used && (u.hent 1 12).gen == 4 && (u.hent 1 11).used) &&
      (let u := n 9 10 fun t => { t with data := str "n", spec := w64 (1 + 0x7 * 2 ^ 8 + 2 * 2 ^ 16) }
       res (fun r => r.status == 0) u && u.names.any fun e => e.dir == .made 50 && e.name == str "n" && match e.node with
         | .made k => (u.madeN k).kind == kMemo && (u.madeN k).size == 131072 && (u.madeN k).grant == 7
         | _ => false) &&
      res (fun r => r.status == 9) (n 9 10 fun t => { t with data := str "a", spec := w64 (1 + 0x7 * 2 ^ 8 + 2 * 2 ^ 16) }) &&
      (let u := n 10 11
       res (fun r => r.status == 0) u && u.names.all fun e => e.dir != .made 50) && res (fun r => r.status == 3) (n 10 10)) = true := by decide +kernel

/-- witness: Patches, behind a load taken before it and behind an earlier patch. -/
theorem test_patch_order : let s := started fun l => { l with patch := some 600 }
    let u := s.updFn 0 fun f => { f with load := some (5, 3) }
    let v := s.setLaunch 3 { ctx := 1, patch := some 600 }
    (ev .patchComplete 7 u (fun t => t.launch 7 == u.launch 7 && t.made == u.made) && v.patchBefore 0 7 &&
      ev .patchComplete 7 v (fun t => t.launch 7 == v.launch 7) && !s.patchBefore 0 7) = true := by decide +kernel

/-- witness: PostedAccesses, an append of two bytes to a ring, to a full one, and at an offset other than 0. -/
theorem test_ring_append : let q : Posted := { party := 9, ctx := 1, core := 2048, lword := 2048, node := .made 24, bytes := [7, 8], handle := 24, gen := 1 }
    let s (q : Posted) : State := { started id with posted := [q] }
    let d := (s q).desc 0 256
    (((s q).hlook 1 24 1).isSome && (s q).ringOf q.node == some (0, 256) && d.pheld == 0 && d.free == 16 && !(s q).waitsFor q && d.slot d.tail == 4096 &&
      ev .queueAppend 0 (s q) (fun t => t.posted == [] && t.peekN (padAddr 0 4096) 64 == 0x0807 && (t.desc 0 256).tail == 1) &&
      (let u := (s q).pokeN (padAddr 0 (256 + 24)) 4 16
       (u.desc 0 256).free == 0 && ev .queueAppend 0 u (fun t => t.posted == [] && t.mem == u.mem)) &&
      ev .queueAppend 0 (s { q with off := 64 }) (fun t => t.posted == [] && t.mem == (s q).mem)) = true := by decide +kernel

/-- witness: GangSteps, the hypotheses of a gang of quartos 0 and 2, which supply one bank. -/
theorem witness_gang_fused : let qs := [0, 2]
    let s := gangPort []
    let u : State := { s with port := s.port.map fun o => match o.cmd with
      | .gang _ arrs ctl => { o with cmd := .gang qs arrs ctl }
      | _ => o }
    (u.portFree 0 (u.port.headD {}) && bankQuartos qs == [0] && (bankQuartos [0, 1]).length == 2 && bankQuartos [0, 1, 2, 3] == [0, 1]) = true := by
  decide +kernel

/-- witness: PostedAccesses: a store of two bytes to tile 3's pad, counted by window 0 in the armed sync word at 512, whose
target is 2. -/
theorem test_window_counted : let q : Posted := { party := 9, ctx := 1, core := 2048, node := .pad 0 3, off := 128, bytes := [7, 8], places := [({ addr := padAddr 3 128 }, 2)], handle := 2, gen := 1 }
    let s := memS.setHent 1 2 { state := 2, gen := 1, node := .pad 0 3, rights := 0xFF, grant := 0xFF, size := 2 ^ 21 }
    let s := (s.updFn 0 fun f => { f with cur := 1, recd := { f.recd with quartos := 3 } }).setCopyRegs 1 3 { win := [(0, w64 (2 ^ 48 + 2 + 4 * 2 ^ 15 + 32 * 2 ^ 31))] }
    let s : State := { s.pokeN (padAddr 3 512) 16 (2 + 5 * 2 ^ 64 + 2 ^ 96) with posted := [q] }
    (s.swWindow 2048 3 128 == some 512 && nodePad q.node == some 3 && !s.waitsFor q && (s.hlook 1 2 1).isSome &&
      ev .remoteAccess 0 s (fun t => t.posted == [] && t.peekN (padAddr 3 128) 2 == 0x0807 && t.peekN (padAddr 3 512) 16 == 2 + 6 * 2 ^ 64)) = true := by
  decide +kernel

/-! ### Clauses of queues, ends, creations, beats and butterflies -/

/-- Queue register 0 holds two slots of the ring at 256 as a consumer, and 1 as a producer. -/
def holding : State :=
  let s := base.pokeN (padAddr 0 256) 32 (initDesc (6 + 16 * 16 + 4096 * 2 ^ 20))
  let s := (s.setHeld 0 256 false 2).setHeld 0 256 true 1
  s.updT fun t => (t.wrQ 0 { bound := true, desc := 256, left := 2 }).wrQ 1 { bound := true, prod := true, desc := 256, left := 1 }

/-- witness: EndFreesThread, HaltAndSync: what END returns to the descriptor, and the trap where party 3 has written it. -/
theorem test_end_returns : let u (k : Nat) := holding.touchAll 3 0 k (linesOf (padNode 0) 256 32)
    ((holding.desc 0 256).cheld == 2 && (holding.desc 0 256).pheld == 1 && holding.t.held.length == 2 &&
      nxt (exec (.endAct h0) holding) (fun t => (t.desc 0 256).cheld == 0 && (t.desc 0 256).pheld == 0 && t.thread holding.cur == {} &&
        (tget [] t.lines ((linesOf (padNode 0) 256 32).headD 0)).any fun a => a.kind == aAtomW) &&
      (u aAtomW).t.held.all (fun q => ((u aAtomW).race (u aAtomW).me 3 (linesOf (padNode 0) q.desc 32)).isNone) &&
      (u aWrite).t.held.any (fun q => ((u aWrite).race (u aWrite).me 3 (linesOf (padNode 0) q.desc 32)).isSome) &&
      nxt (exec (.endAct h0) (u aWrite)) (fun t => t.t.tcause == 0x20) && nxt (exec (.endDone h0 none) (u aWrite)) (fun t => t.t.tcause == 0x20)) = true := by
  decide +kernel

/-- witness: QueueVectors: two words of the slot, whose other lanes stay, with ADV and without, and no element. -/
theorem test_queue_vectors : let m (s : State) (x : Nat) : State := s.updT fun t => ((t.wrM 3 (BitVec.ofNat 256 x)).wrV 1 (BitVec.ofNat 2048 (7 * 2 ^ 64 + 6 * 2 ^ 32 + 5)))
    let a := m (ring false) 0x11
    let b := m (ring true) 0x11
    let o : QOp := ⟨5, 0, false⟩
    let l (s : State) := unitElems (s.t.om (some 3)) 4 0
    let hyp (s : State) (w : Bool) : Bool := oks (s.slotAt o w 0 true) fun slot => slot == 4480 && oks (s.slotElems slot 64 4 w (l s)) fun hs => hs.length == 2
    (hyp a false && hyp b true && good (a.advCheck ⟨5, 0, true⟩ true) && nxt (exec (.vld h0 5 1 (.que o) (some 3)) a) (fun t => t.t.pc == 12 &&
        el (t.t.rdV 1) 0 4 == 0xABCD && el (t.t.rdV 1) 1 4 == 0 && el (t.t.rdV 1) 2 4 == 7 && (t.t.rdQ 5).pos == 1) &&
      nxt (exec (.vst h0 5 (.que o) 1 (some 3)) b) (fun t => t.t.pc == 12 && t.peekN (padAddr 0 4480) 12 == 6 * 2 ^ 32 + 5 && (t.t.rdQ 5).left == 2) &&
      nxt (exec (.vst h0 5 (.que ⟨5, 0, true⟩) 1 (some 3)) b) (fun t => t.t.pc == 12 && (t.t.rdQ 5).pos == 2 && (t.t.rdQ 5).left == 1) &&
      nxt (exec (.vld h0 5 1 (.que ⟨5, 0, true⟩) (some 3)) (m (ring false) 0)) (fun t => t.t.pc == 12 && (t.t.rdQ 5).pos == 2 && el (t.t.rdV 1) 0 4 == 5)) = true := by
  decide +kernel

/-- The thread's own append of two bytes to the ring at 256 is on its way; b5 points at the slot, offset 4096. -/
def appended : State :=
  let s := (obj (base.pokeN (padAddr 0 256) 32 (initDesc (6 + 16 * 16 + 4096 * 2 ^ 20))) 24 24 2048 520 kQueue).updMade 24 fun m => { m with qpad := 0, qdesc := 256 }
  let p := mintPtr 0xFF 1 1 (2 ^ 21)
  let s := s.updT fun t => t.wrB 5 { p with raw := p.raw + 4096 }
  { s with posted := [{ party := s.me, ctx := 1, core := 2048, lword := 2048, node := .made 24, bytes := [7, 8], handle := 24, gen := 1 }] }

/-- An own load of the slot finds what the own append before it wrote (R50). -/
theorem test_append_program_order : nxt (exec (.ld h0 3 0 0 3 (.mem ⟨5, 0⟩)) appended) (fun t => t.t.rdG 3 == 0x0807 && t.posted == [] && t.t.pc == 12) = true := by
  decide +kernel

/-- A configuration block for the region `reg` of `n` stripes on the dies of `mask`. -/
def block (mask n : Nat) : Nat := natOfBytes (str "reg") + mask * 2 ^ 256 + n * 2 ^ 320 + 9 * 2 ^ 352 + 0x7F * 2 ^ 376

/-- witness: MullCreation, each status: a field, a die that is not mapped, dies apart, a name that is there, no room; and a region. -/
theorem test_mull_creation : let s := mullS 1
    let far := (put s 21 10 1 0x8A).updFn 0 fun f => { f with recd := { f.recd with quartos := 3 + 2 ^ 40 } }
    let st (s : State) (x : Nat) : Nat := (s.mullCreate x).1
    let got := s.mullCreate (block 1 4)
    (st s (block 0 4) == 15 && st s (block 1 0) == 15 && st s (block 1 65537) == 15 && st s (block 1 4 - natOfBytes (str "reg")) == 15 &&
      s.mapDie 1 1 == none && st s (block 3 4) == 3 && far.mapDie 1 10 == some 10 && st far (block (1 + 2 ^ 10) 4) == 14 &&
      st got.2 (block 1 4) == 9 && st { s with mull := (List.range 16).map fun k => (k, { s.region 3 with live := true, members := [0] }) } (block 1 4) == 10 &&
      (s.replicaFrames 0 16384 [0]).isSome && got.1 == 0 && (let r := got.2.region 4
        r.live && r.members == [0] && r.stripes == 4 && r.cadence == 9 && r.rep 0 2 == { spread := 0x7F800000 } &&
        got.2.region 3 == s.region 3 && (got.2.madeN r.node).grant == 0x7F && got.2.mem == s.mem)) = true := by decide +kernel

/-- The drain of row 2 as I32, 512 bytes in 64-byte beats, at its last beat. -/
def draining (beat : Nat) : State :=
  let s := after (.mdrain h0 4 0 0 0 13 2 12) ({ matS with acc := [(2 * 128 + 5, { val := 3 })] } : State)
  { s with port := s.port.map fun o => { o with beat := beat } }

/-- witness: MoveBeats, a drain's last beat, and one that a plain access races with in a counted window of tile 3. -/
theorem test_drain_end : (let s := draining 23
    (drainBeats 0 512 3).length == 24 && ev .drainBeat 0 s (fun t => t.port == [] && t.net.any fun r => r.payload == drainEnd 0 3 0 0 && r.core == 2048 && r.hidx == 7) &&
    ev .drainBeat 0 (draining 22) (fun t => t.port.length == 1 && t.net == [])) = true := by decide +kernel

/-- witness: MoveBeats, a beat of a drain to tile 3's pad, that window 0 counts in the sync word at 512. -/
theorem test_drain_other_pad : let s := (draining 0).setHent 1 1 { state := 2, gen := 1, node := .pad 0 3, rights := 0xFF, grant := 0xFF, size := 2 ^ 21 }
    let s := (s.updFn 0 fun f => { f with cur := 1 }).setCopyRegs 1 3 { win := [(0, w64 (2 ^ 48 + 4 * 2 ^ 15 + 32 * 2 ^ 31))] }
    let s := s.pokeN (padAddr 3 512) 16 (64 + 5 * 2 ^ 64 + 2 ^ 96)
    let o := s.port.headD {}
    (s.swWindow o.core 3 0 == some 512 && s.portFree 0 o && oks (s.beatAt o (s.t.rdB 2) 0 64 1) (fun e => nodePad e.1 == some 3 && (s.race o.party 3 (s.markLines o.core e.1 0)).isNone) &&
      ev .drainBeat 0 s (fun t => t.peekN (padAddr 3 20) 4 == 3 && t.peekN (padAddr 3 512) 16 == 64 + 6 * 2 ^ 64) &&
      (let u := s.touchAll 3 0 aWrite (linesOf (padNode 3) 512 16)
       ev .drainBeat 0 u (fun t => t.port == [] && t.mem == u.mem && t.net.any fun r => r.payload == drainEnd 0x20 0 0 0))) = true := by decide +kernel

/-- The spec's example of MBFLY: four points in sheet 2 under a plan of one stage of radix 4. -/
def bflyPort (cmd : PortCmd) : State :=
  let s := (matS 4).sheetWrite 0 2 0 (bytesOfNat 16 (20001 + 20000 * (2 ^ 32 + 2 ^ 64 + 2 ^ 96)))
  let s := s.updQuarto 0 fun q => { q with halves := [(0, { mode := 4 })] }
  { s with port := [{ cmd := cmd, quarto := 0, core := 2048, ctx := 1 }] }

def plan4 : Plan := { n := 4, b := 1, t := 1, radices := [4] }

/-- witness: ButterflySteps, the spec's example: its port command, the exact sums under the twiddles of N = 4, and what AUTO and
SCALE 1 leave of them. -/
theorem witness_mbfly : let s := bflyPort (.mbfly 0 2 plan4 1 0 7)
    (s.portFree 0 (s.port.headD {}) && (s.port.headD {}).cmd.isBfly && plan4.n == plan4.radices.foldl (· * ·) 1 && plan4.n * plan4.b ≤ 8192) = true := by decide +kernel
theorem test_mbfly : let outs : List (Nat × Pt) := [(0, (80001 * 2 ^ 30, 0)), (1, (2 ^ 30, 0)), (2, (2 ^ 30, 0)), (3, (2 ^ 30, 0))]
    let s := bflyPort (.mbfly 0 2 plan4 1 0 7)
    (stageOuts #[(2 ^ 30, 0), (0, -2 ^ 30), (-2 ^ 30, 0), (0, 2 ^ 30)] #[(20001, 0), (20000, 0), (20000, 0), (20000, 0)] plan4 1 0 == outs &&
      shiftOf 7 30 (outs.map (·.2)) == 2 && outs.map (fun e => commitPt e.2 32) == [((20000, 0), false), ((0, 0), false), ((0, 0), false), ((0, 0), false)] &&
      commitPt (80001 * 2 ^ 30, 0) 31 == ((32767, 0), true) && ((s.commitGroup 0 0 0 7 0 0 1 outs).half 0 0).sat == false &&
      ((s.commitGroup 0 0 0 1 0 0 1 outs).half 0 0).sat) = true := by decide +kernel

/-- witness: ButterflySteps, MDREV: its port command; and the spec's example, positions 0 to 11 under plan (4, 3). -/
theorem test_mdrev : let s := bflyPort (.mdrev 0 2 { plan4 with radices := [2, 2] })
    (s.portFree 0 (s.port.headD {}) && (s.port.headD {}).cmd.isBfly &&
      (List.range 12).map (fun i => digitRev i 0 [4, 3]) == [0, 3, 6, 9, 1, 4, 7, 10, 2, 5, 8, 11]) = true := by decide +kernel

/-- witness: ButterflySteps, MCMUL: its port command, and 20001 times 20001 at 2^-15, where AUTO needs no shift. -/
theorem test_mcmul : let s := bflyPort (.mcmul 0 2 2 1 0 7 true)
    (s.portFree 0 (s.port.headD {}) && mulPt true (20001, 3) (20001, 3) == (400040010, 0) && shiftOf 7 15 [(400040010, 0)] == 0 &&
      commitPt (400040010, 0) 15 == ((12208, 0), false) && commitPt (2 ^ 31, 0) 15 == ((32767, 0), true)) = true := by decide +kernel

/-- Encoding an element of a block: the spec's example, 5 with T = 11 and X = 32, is a tie that goes to 4 (R66). -/
theorem test_encode_b4 : (encodeB4 0 (3 * 64 + 32) (.num false 5 0) == (4, { nx := true }) && encodeB4 0 (3 * 64 + 32) (.nan false) == (0, { nv := true }) &&
    (encodeB4 0 (3 * 64 + 32) (.num false 13 0)).2 == { ov := true, nx := true } && autoX [.num false 12 0, .num true 3 0] 3 == 32 && autoX [] 3 == 0) = true := by decide +kernel

end Sys2Proof.Tests
end

section
/-! Scalar integers, pointers and ERET (R119, R127 to R134): the laws of their helper functions, then the statements. -/

namespace Sys2Proof.Machine

/-! ### What each instruction runs under its guard (R93) -/

section
variable (h : Head) (et : EType) (d a : GReg) (b : GI) (s : State)

theorem exec_add : exec (.add h et d a b) s = run h s fun s => s.alu et d a b fun x y _ => x + y := rfl
theorem exec_sub : exec (.sub h et d a b) s = run h s fun s => s.alu et d a b fun x y n => x + 2 ^ n - y := rfl
theorem exec_mul : exec (.mul h et d a b) s = run h s fun s => s.alu et d a b fun x y _ => x * y := rfl
theorem exec_mulh : exec (.mulh h et d a b) s =
    run h s fun s => s.alu et d a b fun x y n => mulHigh (asInt x n) (asInt y n) n := rfl
theorem exec_mulhu : exec (.mulhu h et d a b) s = run h s fun s => s.alu et d a b fun x y n => x * y / 2 ^ n := rfl
theorem exec_and : exec (.and h et d a b) s = run h s fun s => s.alu et d a b fun x y _ => x &&& y := rfl
theorem exec_or : exec (.or h et d a b) s = run h s fun s => s.alu et d a b fun x y _ => x ||| y := rfl
theorem exec_xor : exec (.xor h et d a b) s = run h s fun s => s.alu et d a b fun x y _ => x ^^^ y := rfl
theorem exec_andn : exec (.andn h et d a b) s =
    run h s fun s => s.alu et d a b fun x y n => x &&& (2 ^ n - 1 - y) := rfl
theorem exec_div : exec (.div h et d a b) s =
    run h s fun s => s.alu et d a b fun x y n => toBits n (divSigned (asInt x n) (asInt y n) n).1 := rfl
theorem exec_rem : exec (.rem h et d a b) s =
    run h s fun s => s.alu et d a b fun x y n => toBits n (divSigned (asInt x n) (asInt y n) n).2 := rfl
theorem exec_divu : exec (.divu h et d a b) s = run h s fun s => s.alu et d a b fun x y n => (divUnsigned x y n).1 := rfl
theorem exec_remu : exec (.remu h et d a b) s = run h s fun s => s.alu et d a b fun x y n => (divUnsigned x y n).2 := rfl

end

section
variable (h : Head) (d a b : BReg) (g k : GReg) (x : GI) (sel : BitVec 3) (s : State)

theorem exec_padd : exec (.padd h d a x) s =
    run h s fun s => s.retB d ((s.t.rdB a).withCursor ((s.t.rdB a).cursor + (s.t.gi x).toNat)) := rfl
theorem exec_pset : exec (.pset h d a x) s =
    run h s fun s => s.retB d ((s.t.rdB a).withCursor (s.t.gi x).toNat) := rfl
theorem exec_pmov : exec (.pmov h d a) s = run h s fun s => s.retB d (s.t.rdB a) := rfl
theorem exec_pperm : exec (.pperm h d a x) s =
    run h s fun s => s.retB d ((s.t.rdB a).withPerms ((s.t.rdB a).perms &&& bits (s.t.gi x).toNat 0 8)) := rfl
theorem exec_ptag : exec (.ptag h g a) s = run h s fun s => s.retG g (if (s.t.rdB a).tag then 1 else 0) := rfl
theorem exec_pget : exec (.pget h sel g a) s = run h s fun s => s.retG g (w64 ((s.t.rdB a).sel sel.toNat)) := rfl
theorem exec_psub : exec (.psub h g a b) s = run h s fun s =>
    if (s.t.rdB a).hidx = (s.t.rdB b).hidx ∧ (s.t.rdB a).gen = (s.t.rdB b).gen then
      s.retG g (w64 ((s.t.rdB a).cursor + 2 ^ 64 - (s.t.rdB b).cursor))
    else s.trap 0x10 0 0 := rfl
theorem exec_pnarrow : exec (.pnarrow h d a x) s =
    run h s fun s => s.try_ (narrow (s.t.rdB a) a.toNat (s.t.gi x).toNat) fun p => s.retB d p := rfl
theorem exec_pchk : exec (.pchk h g a k) s = run h s fun s =>
    s.retG g (w64 (s.pchk (s.t.rdB a) a.toNat (bits (s.t.rdG k).toNat 8 40) (bits (s.t.rdG k).toNat 0 8))) := rfl

theorem exec_eret : exec (.eret h) s = run h s fun s => s.atLeast 1 2 State.trapReturn := rfl

end

/-! ### Bit fields of a number -/

@[simp] theorem bits_zero (w n : Nat) : bits w 0 n = w % 2 ^ n := by rw [bits, pow_zero, Nat.div_one]

theorem bits_lt (w lo n : Nat) : bits w lo n < 2 ^ n := Nat.mod_lt _ (by positivity)

theorem testBit_bits (w lo n j : Nat) : (bits w lo n).testBit j = (decide (j < n) && w.testBit (j + lo)) := by
  rw [bits, Nat.testBit_mod_two_pow, Nat.testBit_div_two_pow]

/-- A number with a field replaced: what is below the field, the new field, what is above. -/
theorem setBits_eq (w lo n v : Nat) :
    setBits w lo n v = 2 ^ lo * (2 ^ n * (w / 2 ^ lo / 2 ^ n) + v % 2 ^ n) + w % 2 ^ lo := by
  have hlo : 2 ^ lo * (w / 2 ^ lo) + w % 2 ^ lo = w := Nat.div_add_mod ..
  have hn : 2 ^ n * (w / 2 ^ lo / 2 ^ n) + bits w lo n = w / 2 ^ lo := Nat.div_add_mod ..
  have hw : 2 ^ lo * (2 ^ n * (w / 2 ^ lo / 2 ^ n)) + 2 ^ lo * bits w lo n + w % 2 ^ lo = w := by
    rw [← Nat.mul_add, hn, hlo]
  rw [setBits, Nat.mul_comm (bits w lo n), Nat.mul_comm (v % 2 ^ n), Nat.mul_add]
  omega

theorem testBit_setBits (w lo n v j : Nat) :
    (setBits w lo n v).testBit j = if lo ≤ j ∧ j < lo + n then v.testBit (j - lo) else w.testBit j := by
  rw [setBits_eq, Nat.testBit_two_pow_mul_add _ (Nat.mod_lt _ (by positivity))]
  by_cases below : j < lo
  · rw [if_pos below, if_neg (by omega), Nat.testBit_mod_two_pow, decide_eq_true below, Bool.true_and]
  · rw [if_neg below, Nat.testBit_two_pow_mul_add _ (Nat.mod_lt _ (by positivity))]
    by_cases inside : j - lo < n
    · rw [if_pos inside, if_pos (by omega), Nat.testBit_mod_two_pow, decide_eq_true inside, Bool.true_and]
    · rw [if_neg inside, if_neg (by omega), Nat.testBit_div_two_pow, Nat.testBit_div_two_pow]
      congr 1; omega

/-- A part of the replaced field is that part of the new value. -/
theorem bits_setBits_inside {lo n o k : Nat} (hk : o + k ≤ n) (w v : Nat) :
    bits (setBits w lo n v) (lo + o) k = bits v o k := by
  refine Nat.eq_of_testBit_eq fun j => ?_
  rw [testBit_bits, testBit_bits, testBit_setBits]
  by_cases hj : j < k
  · rw [if_pos (by omega)]; congr 2; omega
  · simp [hj]

/-- A field beside the replaced one stays. -/
theorem bits_setBits_beside {lo n lo' k : Nat} (hd : lo' + k ≤ lo ∨ lo + n ≤ lo') (w v : Nat) :
    bits (setBits w lo n v) lo' k = bits w lo' k := by
  refine Nat.eq_of_testBit_eq fun j => ?_
  rw [testBit_bits, testBit_bits, testBit_setBits]
  by_cases hj : j < k
  · rw [if_neg (by omega)]
  · simp [hj]

theorem setBits_lt {w lo n m : Nat} (hw : w < 2 ^ m) (hm : lo + n ≤ m) (v : Nat) : setBits w lo n v < 2 ^ m := by
  refine Nat.lt_pow_two_of_testBit _ fun j hj => ?_
  rw [testBit_setBits, if_neg (by omega)]
  exact Nat.testBit_lt_two_pow (hw.trans_le (Nat.pow_le_pow_right (by decide) hj))

/-- A permission set has the one right when that bit is set. -/
theorem hasAll_two_pow (x k : Nat) : hasAll x (2 ^ k) = x.testBit k := by
  rw [hasAll, Nat.two_pow_and]
  cases x.testBit k
  · simp [(Nat.two_pow_pos k).ne]
  · simp

theorem hasAll_rD (x : Nat) : hasAll x rD = decide (x / 16 % 2 = 1) := by
  rw [show rD = 2 ^ 4 from rfl, hasAll_two_pow, Nat.testBit_eq_decide_div_mod_eq]

/-! ### Integers as n-bit patterns (R115, R128) -/

theorem etWidth_pos (et : EType) : 0 < etWidth et := by unfold etWidth; positivity

theorem etWidth_le {et : EType} (h : et.toNat < 8) : etWidth et ≤ 64 :=
  Nat.mul_le_mul_left 8 (Nat.pow_le_pow_right (by decide) (by omega : et.toNat / 2 ≤ 3))

theorem natCast_toBits (n : Nat) (v : Int) : (toBits n v : Int) = v % 2 ^ n := by
  rw [toBits, Int.toNat_of_nonneg (Int.emod_nonneg _ (by positivity))]; push_cast; rfl

theorem toBits_modEq (n : Nat) (v : Int) : (toBits n v : Int) ≡ v [ZMOD 2 ^ n] := by
  rw [natCast_toBits]; exact Int.mod_modEq ..

/-- A pattern that is congruent to an integer wraps to it. -/
theorem mod_eq_toBits {r n : Nat} {v : Int} (h : (r : Int) ≡ v [ZMOD 2 ^ n]) : r % 2 ^ n = toBits n v := by
  apply Int.natCast_inj.mp
  rw [natCast_toBits]; push_cast; exact h

theorem asInt_modEq (x n : Nat) : asInt x n ≡ x [ZMOD 2 ^ n] := by
  unfold asInt
  split
  · rfl
  · exact Int.modEq_iff_dvd.mpr ⟨1, by ring⟩

theorem etInt_modEq (et : EType) (x : Nat) : etInt et x ≡ x [ZMOD 2 ^ etWidth et] := by
  unfold etInt
  split
  · exact asInt_modEq ..
  · rfl

theorem etInt_signed {et : EType} (h : etSigned et.toNat = true) (x : Nat) : etInt et x = asInt x (etWidth et) := by
  have he : etSig et = true := by
    simp only [etSigned, Bool.or_eq_true, beq_iff_eq] at h
    simp only [etSig, beq_iff_eq]; omega
  rw [etInt, if_pos he]

theorem etInt_unsigned {et : EType} (h : etUnsigned et.toNat = true) (x : Nat) : etInt et x = x := by
  have he : ¬ etSig et = true := by
    simp only [etUnsigned, Bool.or_eq_true, beq_iff_eq] at h
    simp only [etSig, beq_iff_eq]; omega
  rw [etInt, if_neg he]

section
variable (s : State) (et : EType) (a : GReg) (b : GI)

theorem rdI_modEq : s.rdI et a ≡ bits (s.t.rdG a).toNat 0 (etWidth et) [ZMOD 2 ^ etWidth et] := etInt_modEq ..
theorem giI_modEq : s.giI et b ≡ bits (s.t.gi b).toNat 0 (etWidth et) [ZMOD 2 ^ etWidth et] := etInt_modEq ..

variable {et}

theorem rdI_signed (h : etSigned et.toNat = true) : s.rdI et a = asInt (bits (s.t.rdG a).toNat 0 (etWidth et)) (etWidth et) :=
  etInt_signed h _
theorem giI_signed (h : etSigned et.toNat = true) : s.giI et b = asInt (bits (s.t.gi b).toNat 0 (etWidth et)) (etWidth et) :=
  etInt_signed h _
theorem rdI_unsigned (h : etUnsigned et.toNat = true) : s.rdI et a = bits (s.t.rdG a).toNat 0 (etWidth et) :=
  etInt_unsigned h _
theorem giI_unsigned (h : etUnsigned et.toNat = true) : s.giI et b = bits (s.t.gi b).toNat 0 (etWidth et) :=
  etInt_unsigned h _

end

/-- R128's frame writes the wrapped integer that its pattern is congruent to. -/
theorem alu_eq_inEt {s : State} {et : EType} {d a : GReg} {b : GI} {f : Nat → Nat → Nat → Nat} {r : Int}
    (hf : (f (bits (s.t.rdG a).toNat 0 (etWidth et)) (bits (s.t.gi b).toNat 0 (etWidth et)) (etWidth et) : Int)
      ≡ r [ZMOD 2 ^ etWidth et]) :
    s.alu et d a b f = s.retG d (inEt et r) := by
  rw [State.alu, inEt, mod_eq_toBits hf]

/-- R128's frame writes the low n bits of a word that its pattern agrees with. -/
theorem alu_eq_ext {s : State} {et : EType} {d a : GReg} {b : GI} {f : Nat → Nat → Nat → Nat} {r : Nat}
    (hf : f ((s.t.rdG a).toNat % 2 ^ etWidth et) ((s.t.gi b).toNat % 2 ^ etWidth et) (etWidth et) = r % 2 ^ etWidth et) :
    s.alu et d a b f = s.retG d (extTo (bits r 0 (etWidth et)) et) := by
  simp only [State.alu, bits_zero, hf, Nat.mod_mod]

theorem not_mod_two_pow {n : Nat} (h : n ≤ 64) (y : Word) : (~~~y).toNat % 2 ^ n = 2 ^ n - 1 - y.toNat % 2 ^ n := by
  have e := congrArg BitVec.toNat (BitVec.setWidth_not h (x := y))
  simpa only [BitVec.toNat_setWidth, BitVec.toNat_not] using e

/-! ### Division (R129) -/

/-- The quotient, up to the wrap of the most negative number by −1. -/
theorem divSigned_fst_modEq {n : Nat} (hn : 0 < n) (x y : Int) :
    (divSigned x y n).1 ≡ (if y = 0 then -1 else x.tdiv y) [ZMOD 2 ^ n] := by
  unfold divSigned
  split_ifs with hy hmin
  · rfl
  · obtain ⟨hx, rfl⟩ := hmin
    obtain ⟨m, rfl⟩ := Nat.exists_eq_add_of_lt hn
    refine Int.modEq_iff_dvd.mpr ⟨1, ?_⟩
    simp only [Nat.zero_add, Nat.add_sub_cancel, Int.tdiv_neg, Int.tdiv_one] at hx ⊢
    rw [hx]; push_cast; ring
  · rfl

/-- The remainder is exact: it wraps nowhere. -/
theorem divSigned_snd (x y : Int) (n : Nat) : (divSigned x y n).2 = if y = 0 then x else x.tmod y := by
  unfold divSigned
  split_ifs with hy hmin
  · rfl
  · rw [hmin.2, Int.tmod_neg, Int.tmod_one]
  · rw [Int.tmod_def, Int.mul_comm y]

theorem divUnsigned_fst_modEq (x y n : Nat) :
    ((divUnsigned x y n).1 : Int) ≡ (if (y : Int) = 0 then -1 else (x : Int) / y) [ZMOD 2 ^ n] := by
  unfold divUnsigned
  by_cases hy : y = 0
  · rw [if_pos hy, if_pos (by exact_mod_cast hy)]
    refine Int.modEq_iff_dvd.mpr ⟨-1, ?_⟩
    rw [Nat.cast_sub Nat.one_le_two_pow]; push_cast; ring
  · rw [if_neg hy, if_neg (by exact_mod_cast hy)]; rfl

theorem divUnsigned_snd (x y n : Nat) :
    ((divUnsigned x y n).2 : Int) = if (y : Int) = 0 then (x : Int) else x % y := by
  unfold divUnsigned
  by_cases hy : y = 0
  · rw [if_pos hy, if_pos (by exact_mod_cast hy)]
  · rw [if_neg hy, if_neg (by exact_mod_cast hy)]; rfl

/-! ### The statements on integers -/

theorem scalarArithmetic : Says.ScalarArithmetic := by
  intro s h et d a b hs
  have hx := rdI_modEq s et a
  have hy := giI_modEq s et b
  refine ⟨?add, ?sub, ?mul, fun he => ?mulh, fun he => ?mulhu⟩
  case add =>
    rw [exec_add, run_acts hs, alu_eq_inEt]
    push_cast
    exact (hx.add hy).symm
  case sub =>
    rw [exec_sub, run_acts hs, alu_eq_inEt]
    have hle : bits (s.t.gi b).toNat 0 (etWidth et) ≤ bits (s.t.rdG a).toNat 0 (etWidth et) + 2 ^ etWidth et :=
      Nat.le_add_left_of_le (bits_lt ..).le
    rw [Nat.cast_sub hle, Nat.cast_add, Nat.cast_pow, Nat.cast_ofNat]
    exact (Int.add_modulus_modEq_iff.mpr hx.symm).sub hy.symm
  case mul =>
    rw [exec_mul, run_acts hs, alu_eq_inEt]
    push_cast
    exact (hx.mul hy).symm
  case mulh =>
    rw [exec_mulh, run_acts hs, alu_eq_inEt]
    rw [mulHigh, ← rdI_signed s a he, ← giI_signed s b he]
    exact_mod_cast toBits_modEq ..
  case mulhu =>
    rw [exec_mulhu, run_acts hs, alu_eq_inEt]
    rw [rdI_unsigned s a he, giI_unsigned s b he]
    push_cast
    rfl

theorem scalarBitwise : Says.ScalarBitwise := by
  intro s h et d a b hs he
  refine ⟨?_, ?_, ?_, ?_⟩
  · rw [exec_and, run_acts hs, alu_eq_ext]
    rw [BitVec.toNat_and, Nat.and_mod_two_pow]
  · rw [exec_or, run_acts hs, alu_eq_ext]
    rw [BitVec.toNat_or, Nat.or_mod_two_pow]
  · rw [exec_xor, run_acts hs, alu_eq_ext]
    rw [BitVec.toNat_xor, Nat.xor_mod_two_pow]
  · rw [exec_andn, run_acts hs, alu_eq_ext]
    rw [BitVec.toNat_and, Nat.and_mod_two_pow, not_mod_two_pow (etWidth_le he)]

theorem scalarDivision : Says.ScalarDivision := by
  intro s h et d a b hs x y
  refine ⟨fun he => ⟨?div, ?rem⟩, fun he => ⟨?divu, ?remu⟩⟩
  case div =>
    rw [exec_div, run_acts hs, alu_eq_inEt]
    rw [← rdI_signed s a he, ← giI_signed s b he]
    exact (toBits_modEq ..).trans (divSigned_fst_modEq (etWidth_pos et) x y)
  case rem =>
    rw [exec_rem, run_acts hs, alu_eq_inEt]
    rw [← rdI_signed s a he, ← giI_signed s b he, ← divSigned_snd x y (etWidth et)]
    exact toBits_modEq ..
  case divu =>
    rw [exec_divu, run_acts hs, alu_eq_inEt]
    simp only [x, y, rdI_unsigned s a he, giI_unsigned s b he]
    exact divUnsigned_fst_modEq ..
  case remu =>
    rw [exec_remu, run_acts hs, alu_eq_inEt]
    simp only [x, y, rdI_unsigned s a he, giI_unsigned s b he]
    rw [divUnsigned_snd]

/-! ### Fields of a pointer after an update (R107, R131) -/

section
variable (p : Ptr) (c x e bm tm : Nat)

theorem toNat_setBits {lo n : Nat} (h : lo + n ≤ 128) (w : Quad) (v : Nat) :
    (BitVec.ofNat 128 (setBits w.toNat lo n v)).toNat = setBits w.toNat lo n v := by
  rw [BitVec.toNat_ofNat, Nat.mod_eq_of_lt (setBits_lt w.isLt h v)]

@[simp] theorem withCursor_raw : (p.withCursor c).raw.toNat = setBits p.raw.toNat 0 64 c := toNat_setBits (by decide) ..
@[simp] theorem withPerms_raw : (p.withPerms x).raw.toNat = setBits p.raw.toNat 96 8 x := toNat_setBits (by decide) ..
@[simp] theorem withBounds_raw : (p.withBounds e bm tm).raw.toNat =
    setBits p.raw.toNat 104 24 (tm + bm * 2 ^ 10 + e * 2 ^ 19) := toNat_setBits (by decide) ..

/-- Stated for any new bits, so that no comparison of two tags computes the field update. -/
theorem tag_withRaw (r : Quad) : ({ p with raw := r } : Ptr).tag = p.tag := rfl
@[simp] theorem withCursor_tag : (p.withCursor c).tag = p.tag := tag_withRaw ..
@[simp] theorem withPerms_tag : (p.withPerms x).tag = p.tag := tag_withRaw ..
@[simp] theorem withBounds_tag : (p.withBounds e bm tm).tag = p.tag := tag_withRaw ..

theorem bits_withPerms {lo k : Nat} (hd : lo + k ≤ 96 ∨ 104 ≤ lo) :
    bits (p.withPerms x).raw.toNat lo k = bits p.raw.toNat lo k := by
  rw [withPerms_raw, bits_setBits_beside hd]

theorem bits_withBounds {lo k : Nat} (hd : lo + k ≤ 104 ∨ 128 ≤ lo) :
    bits (p.withBounds e bm tm).raw.toNat lo k = bits p.raw.toNat lo k := by
  rw [withBounds_raw, bits_setBits_beside hd]

@[simp] theorem withCursor_cursor : (p.withCursor c).cursor = c % 2 ^ 64 := by
  rw [Ptr.cursor, withCursor_raw, bits_setBits_inside (o := 0) (by decide), bits_zero]
/-- A pointer's upper 64 bits stay where only the cursor is written. -/
theorem withCursor_upper : (p.withCursor c).raw.toNat / 2 ^ 64 = p.raw.toNat / 2 ^ 64 := by
  have hb (w : Quad) : bits w.toNat 64 64 = w.toNat / 2 ^ 64 := Nat.mod_eq_of_lt (by have := w.isLt; omega)
  rw [← hb, ← hb, withCursor_raw, bits_setBits_beside (by decide)]

@[simp] theorem withPerms_perms : (p.withPerms x).perms = x % 2 ^ 8 := by
  rw [Ptr.perms, withPerms_raw, bits_setBits_inside (lo := 96) (o := 0) (by decide), bits_zero]
@[simp] theorem withPerms_cursor : (p.withPerms x).cursor = p.cursor := bits_withPerms p x (.inl (by decide))
@[simp] theorem withPerms_hidx : (p.withPerms x).hidx = p.hidx := bits_withPerms p x (.inl (by decide))
@[simp] theorem withPerms_gen : (p.withPerms x).gen = p.gen := bits_withPerms p x (.inl (by decide))
@[simp] theorem withPerms_tm : (p.withPerms x).tm = p.tm := bits_withPerms p x (.inr (by decide))
@[simp] theorem withPerms_bm : (p.withPerms x).bm = p.bm := bits_withPerms p x (.inr (by decide))
@[simp] theorem withPerms_e : (p.withPerms x).e = p.e := bits_withPerms p x (.inr (by decide))
@[simp] theorem withPerms_base : (p.withPerms x).base = p.base := by simp only [Ptr.base, withPerms_bm, withPerms_e]
@[simp] theorem withPerms_top : (p.withPerms x).top = p.top := by simp only [Ptr.top, withPerms_tm, withPerms_e]

@[simp] theorem withBounds_cursor : (p.withBounds e bm tm).cursor = p.cursor :=
  bits_withBounds p e bm tm (.inl (by decide))
@[simp] theorem withBounds_hidx : (p.withBounds e bm tm).hidx = p.hidx := bits_withBounds p e bm tm (.inl (by decide))
@[simp] theorem withBounds_gen : (p.withBounds e bm tm).gen = p.gen := bits_withBounds p e bm tm (.inl (by decide))
@[simp] theorem withBounds_perms : (p.withBounds e bm tm).perms = p.perms := bits_withBounds p e bm tm (.inl (by decide))

variable {e bm tm} (he : e < 32) (hbm : bm ≤ 511) (htm : tm ≤ 1023)
include he hbm htm

/-- Bounds that fit their fields are read back. -/
theorem withBounds_fields : (p.withBounds e bm tm).e = e ∧ (p.withBounds e bm tm).bm = bm ∧
    (p.withBounds e bm tm).tm = tm := by
  simp only [Ptr.e, Ptr.bm, Ptr.tm, withBounds_raw]
  refine ⟨?_, ?_, ?_⟩
  · rw [bits_setBits_inside (lo := 104) (o := 19) (by decide), bits]; omega
  · rw [bits_setBits_inside (lo := 104) (o := 10) (by decide), bits]; omega
  · rw [bits_setBits_inside (lo := 104) (o := 0) (by decide), bits]; omega

theorem withBounds_base : (p.withBounds e bm tm).base = bm * 2 ^ e := by
  obtain ⟨h, h', -⟩ := withBounds_fields p he hbm htm
  rw [Ptr.base, h, h']

theorem withBounds_top : (p.withBounds e bm tm).top = tm * 2 ^ e := by
  obtain ⟨h, -, h'⟩ := withBounds_fields p he hbm htm
  rw [Ptr.top, h, h']

end

/-! ### EncodeBounds (R115) -/

/-- An exponent that is found lies among those tried, and the mantissas are the rounded bounds at it. -/
theorem encBoundsFrom_some {base top e₀ n e bm tm : Nat} (h : encBoundsFrom base top e₀ n = some (e, bm, tm)) :
    e < e₀ + n ∧ bm = base / 2 ^ e ∧ tm = cdiv top (2 ^ e) ∧ bm ≤ 511 ∧ tm ≤ 1023 := by
  induction n generalizing e₀ with
  | zero => cases h
  | succ n ih =>
    rw [encBoundsFrom] at h
    split at h
    next fits => cases h; exact ⟨by omega, rfl, rfl, fits⟩
    next => obtain ⟨he, rest⟩ := ih h; exact ⟨by omega, rest⟩

theorem encodeBounds_fits {base top e bm tm : Nat} (h : encodeBounds base top = some (e, bm, tm)) :
    e < 32 ∧ bm ≤ 511 ∧ tm ≤ 1023 := by
  obtain ⟨he, -, -, hbm, htm⟩ := encBoundsFrom_some h
  exact ⟨by omega, hbm, htm⟩

/-- The encoded bounds cover what was asked for. -/
theorem encodeBounds_covers {base top e bm tm : Nat} (h : encodeBounds base top = some (e, bm, tm)) :
    bm * 2 ^ e ≤ base ∧ top ≤ tm * 2 ^ e := by
  obtain ⟨-, rfl, rfl, -, -⟩ := encBoundsFrom_some h
  refine ⟨Nat.div_mul_le_self .., ?_⟩
  rw [Nat.mul_comm]
  exact le_smul_ceilDiv (by positivity : 0 < 2 ^ e)

/-! ### PNARROW's checks in their order (R132) -/

section
variable {p : Ptr} {len e bm tm : Nat} (bix : Nat)

theorem narrow_untagged (ht : p.tag = false) : narrow p bix len = .error ⟨0x13, 0, bix⟩ := by
  rw [narrow, ht]; rfl

theorem narrow_underivable (ht : p.tag = true) (hd : p.perms / 16 % 2 = 0) : narrow p bix len = .error ⟨0x11, 0, 16⟩ := by
  rw [narrow, ht, hasAll_rD, hd]; rfl

variable (ht : p.tag = true) (hd : p.perms / 16 % 2 = 1)
include ht hd

theorem narrow_unbounded (h : 2 ^ 64 < p.cursor + len ∨ encodeBounds p.cursor (p.cursor + len) = none) :
    narrow p bix len = .error ⟨0x10, 0, len⟩ := by
  rcases h with past | unencodable
  · simp [narrow, ht, hasAll_rD, hd, past, -Nat.reducePow]
  · simp [narrow, ht, hasAll_rD, hd, unencodable]

variable (hb : encodeBounds p.cursor (p.cursor + len) = some (e, bm, tm))
include hb

theorem narrow_outside (ho : bm * 2 ^ e < p.base ∨ p.top < tm * 2 ^ e) : narrow p bix len = .error ⟨0x10, 0, len⟩ := by
  simp [narrow, ht, hasAll_rD, hd, hb, ho]

theorem narrow_inside (hl : p.cursor + len ≤ 2 ^ 64) (hlo : p.base ≤ bm * 2 ^ e) (hhi : tm * 2 ^ e ≤ p.top) :
    narrow p bix len = .ok (p.withBounds e bm tm) := by
  simp [narrow, ht, hasAll_rD, hd, hb, hl.not_gt, hlo.not_gt, hhi.not_gt, -Nat.reducePow]

end

/-! ### PCHK and ERET (R133, R119) -/

theorem pchk_ok {s : State} {p : Ptr} {bix size need : Nat} {r : HEntry × Nat} (hp : p.pay = false)
    (h : s.checkPtr s.t.ctx p bix 0 size need = .ok r) : s.pchk p bix size need = 0 := by
  simp [State.pchk, hp, h, Except.map]

theorem pchk_error {s : State} {p : Ptr} {bix size need : Nat} {t : Trp} (hp : p.pay = false)
    (h : s.checkPtr s.t.ctx p bix 0 size need = .error t) : s.pchk p bix size need = t.cause := by
  simp [State.pchk, hp, h, Except.map]

theorem trapReturn_inVector {s : State} (hi : s.t.invec = true) :
    s.trapReturn = s.setT { s.t with invec := false, pc := s.t.tepc.toNat } := by
  rw [State.trapReturn, State.updT, if_pos hi]

theorem trapReturn_outside {s : State} (hi : s.t.invec = false) : s.trapReturn = s.next := by
  rw [State.trapReturn, State.updT, if_neg (by simp [hi]), next_eq, Thread.step]

/-! ### The statements on pointers -/

/-- The distance of two cursors, taken modulo 2^64. -/
theorem w64_cursor_sub (p q : Ptr) : w64 (p.cursor + 2 ^ 64 - q.cursor) = w64 p.cursor - w64 q.cursor := by
  have hp : p.cursor < 2 ^ 64 := bits_lt ..
  have hq : q.cursor < 2 ^ 64 := bits_lt ..
  apply BitVec.eq_of_toNat_eq
  simp only [w64, BitVec.toNat_sub, BitVec.toNat_ofNat]
  omega

theorem pointerMoves : Says.PointerMoves := by
  intro s h d a b x hs p
  refine ⟨?padd, ?pset, ?pmov, ?pperm, fun g => ?ptag, fun g => ?pget, fun g hh hg => ?sameObject, fun g hne => ?otherObject⟩
  case padd =>
    exact ⟨_, (exec_padd ..).trans (run_acts hs _), withCursor_tag .., withCursor_cursor .., withCursor_upper ..⟩
  case pset =>
    refine ⟨_, (exec_pset ..).trans (run_acts hs _), withCursor_tag .., ?_, withCursor_upper ..⟩
    rw [withCursor_cursor, Nat.mod_eq_of_lt (s.t.gi x).isLt]
  case pmov => exact (exec_pmov ..).trans (run_acts hs _)
  case pperm =>
    refine ⟨_, (exec_pperm ..).trans (run_acts hs _), withPerms_tag .., withPerms_cursor .., ?_, withPerms_base ..,
      withPerms_top .., withPerms_hidx .., withPerms_gen ..⟩
    rw [withPerms_perms, bits_zero, Nat.mod_eq_of_lt (Nat.and_lt_two_pow _ (Nat.mod_lt _ (by decide)))]
  case ptag => exact (exec_ptag ..).trans (run_acts hs _)
  case pget => refine ⟨?_, ?_, ?_, ?_, ?_⟩ <;> exact (exec_pget ..).trans (run_acts hs _)
  case sameObject => rw [exec_psub, run_acts hs, if_pos ⟨hh, hg⟩, w64_cursor_sub]
  case otherObject => rw [exec_psub, run_acts hs, if_neg (not_and_or.mpr hne)]

theorem pointerNarrow : Says.PointerNarrow := by
  intro s h d a x e bm tm hs p len
  rw [exec_pnarrow, run_acts hs]
  refine ⟨fun ht => ?_, fun ht hd => ?_, fun ht hd hn => ?_, fun ht hd hb ho => ?_, fun ht hd hl hb hlo hhi => ?_⟩
  · rw [narrow_untagged _ ht, try_error]; rfl
  · rw [narrow_underivable _ ht hd, try_error]; rfl
  · rw [narrow_unbounded _ ht hd hn, try_error]; rfl
  · rw [narrow_outside _ ht hd hb ho, try_error]; rfl
  · obtain ⟨he, hbm, htm⟩ := encodeBounds_fits hb
    obtain ⟨hbase, htop⟩ := encodeBounds_covers hb
    rw [narrow_inside _ ht hd hb hl hlo hhi, try_ok]
    have eb := withBounds_base p he hbm htm
    have et := withBounds_top p he hbm htm
    exact ⟨_, rfl, (withBounds_tag ..).trans ht, withBounds_cursor .., withBounds_perms .., withBounds_hidx .., withBounds_gen .., eb, et,
      eb.trans_le hbase, htop.trans_eq et.symm⟩

theorem pointerCheck : Says.PointerCheck := by
  intro s h g b a hs hp
  rw [exec_pchk, run_acts hs, bits_zero, bits]
  cases hc : s.checkPtr s.t.ctx (s.t.rdB a) a.toNat 0 ((s.t.rdG b).toNat / 2 ^ 8 % 2 ^ 40) ((s.t.rdG b).toNat % 2 ^ 8) with
  | ok r => simp only [hc, pchk_ok hp hc]
  | error t => simp only [hc, pchk_error hp hc]

/-! ### The obligations -/

/-- Settles O13: the three parts on sums, bits and quotients. -/
theorem integerArithmetic : Obligations.IntegerArithmetic := ⟨scalarArithmetic, scalarBitwise, scalarDivision⟩

/-- Settles O16: the three parts on moves, PNARROW and PCHK. -/
theorem pointerOperations : Obligations.PointerOperations := ⟨pointerMoves, pointerNarrow, pointerCheck⟩

/-- Settles O19, by the level and INVEC. -/
theorem eretReturns : Obligations.EretReturns := by
  intro s h hs
  rw [exec_eret, run_acts hs]
  refine ⟨fun hp hi => ?_, fun hp hi => ?_, fun hp => ?_⟩
  · rw [atLeast_ok (by omega), trapReturn_inVector hi]
  · rw [atLeast_ok (by omega), trapReturn_outside hi]
  · rw [atLeast_low (by omega)]

end Sys2Proof.Machine
end
